-- ==== Sys2Proof/Word.lean ====
section
/-!
DEFINITION. The word types of the BN-12 and their plainest arithmetic (spec/00_scope.md R3, R4).
-/
namespace Sys2Proof

/-- One byte of memory. -/
abbrev Byte := BitVec 8
/-- A 32-bit general register or memory word. -/
abbrev Word := BitVec 32
/-- A 64-bit instruction word, register pair, address or system register. -/
abbrev DWord := BitVec 64

/-- The number of a general register g0 to g255, as a word's field carries it. -/
abbrev Reg := BitVec 8
/-- The number of a predicate p0 to p7. -/
abbrev Pred := BitVec 3
/-- The number of a copy-tag counter k0 to k7. -/
abbrev Tag := BitVec 3
/-- The number of a convergence register c0 to c15. -/
abbrev Conv := BitVec 4
/-- The number of an accumulator tile a0 to a15, as the crew names it. -/
abbrev Tile := BitVec 4
/-- The number of a queue q0 to q255. -/
abbrev QNum := BitVec 8

/-- The pair `g(n):g(n+1)` read as one 64-bit value: the even register holds the less significant half (R10). -/
def pairOf (lo hi : Word) : DWord := hi ++ lo

/-- The low half of a 64-bit value. -/
def loWord (x : DWord) : Word := x.setWidth 32

/-- The high half of a 64-bit value. -/
def hiWord (x : DWord) : Word := (x >>> 32).setWidth 32

end Sys2Proof
end

