-- ==== Sys2Proof/Config.lean ====
section
/-!
DEFINITION. What is fixed for the device and what the spec leaves to the implementation. The opaque constants are free
values: nothing in Lean can evaluate them or prove a value of them (notes/assumptions/4.md).
-/
namespace Sys2Proof.Config

/-- The device identity word of DEVID (R394): 0x0B12 in bits 15:0; the revision and the serial are open. -/
opaque devidHigh : BitVec 48

/-- A sensor reading of a group, by the number of the read (R397); open. -/
opaque sensor : Nat → Nat → Word

/-- One byte of an attestation quote over a nonce (R397); the signature is open. -/
opaque quoteByte : Nat → Nat → Byte

/-- One byte of the answer to an SPDM message (R393); open. -/
opaque spdmByte : Nat → Nat → Byte

/-- A byte of a unit's output area to which the spec gives no value, by the number of the command and the byte's place
(notes/assumptions/4.md); open. -/
opaque openByte : Nat → Nat → Byte

/-- A byte of a log record that the device itself makes (R354, R397), by its unit and cause, its class and the byte's
place: the layout of unit, cause, class and detail is open. -/
opaque logByte : Nat → Nat → Nat → Byte

/-- What a context image says of the machine outside the fields that R383 to R389 lay out: word n of an image's bytes
(notes/assumptions/4.md); open. -/
opaque imageWord : List Byte → Nat → DWord

/-- The SPALLOC regions of a crew (first row, rows, owning task) in an image, whose place in it is open. -/
opaque imageRegions : List Byte → Nat → List (Nat × Nat × Word)

/-- The module power limit in watts at reset (R17, R399). -/
def powerLimit : Nat := 2400

end Sys2Proof.Config
end

