-- ==== Sys2Proof/Syntax.lean ====
section
/-!
DEFINITION. The instruction set and the events of the BN-12: one constructor for each row of
spec/opcode_table.json. The first 195 constructors are instruction words (spec/07_encoding_opcode_map.md R154);
the others are the events of the table, the steps that an engine, a unit or the host takes
(spec/95_what_each_step_holds.md).
-/
namespace Sys2Proof

/-- The guard of an instruction word: true when `p(ps) XOR pn` is 1 (R148). -/
structure Guard where
  /-- bit 51: negate -/
  pn : Bool
  /-- bits 50:48: the predicate -/
  ps : Pred
  deriving DecidableEq, Repr

/-- Rounding modes, the RM field of R147. -/
inductive RMode where
  | rne | rtz | rup | rdn
  deriving DecidableEq, Repr

/-- The scopes of R120. -/
inductive Scope where
  | crew | core | die | dev | sys
  deriving DecidableEq, Repr

/-- Access widths of the MEM modifier byte (R145). -/
inductive Width where
  | z8 | s8 | z16 | s16 | b32 | b64 | b128
  deriving DecidableEq, Repr

/-- Comparisons of ISETP and FSETP (R171). -/
inductive Cmp where
  | eq | ne | lt | le | gt | ge | unord | ord
  deriving DecidableEq, Repr

/-- How a comparison is combined with a predicate (R171). -/
inductive Comb where
  | none | and | or | xor
  deriving DecidableEq, Repr

/-- Branch hints (R144, R152). -/
inductive Hint where
  | none | likely | unlikely | uniform
  deriving DecidableEq, Repr

/-- The special values that MOVSV reads (R173). -/
inductive SpecialValue where
  | tid | lane | gang | lgrp | team | crew | core | die | ngang | alloc | part | clkl | clkh | priv
  deriving DecidableEq, Repr

/-- Element formats of CVT (R182); X128 is the extra format of a tensor layout record (R229). -/
inductive NumFmt where
  | f32 | f16 | bf16 | f8a | f8b | i8 | i4 | i32 | ui32
  deriving DecidableEq, Repr

/-- Element formats of QNT (R184). -/
inductive QntFmt where
  | i8 | i4 | f8a | f8b
  deriving DecidableEq, Repr

/-- Operations of ATOM, ATOMS and RED (R195). -/
inductive AtomOp where
  | add | min | max | umin | umax | and | or | xor | xchg | fadd | fmin | fmax | cas
  deriving DecidableEq, Repr

/-- The ORD field of an atomic (R194). -/
inductive AtomOrd where
  | none | acq | rel | ar
  deriving DecidableEq, Repr

/-- Kinds of FENCE (R202). -/
inductive FenceKind where
  | acq | rel | sc
  deriving DecidableEq, Repr

/-- Modes of SHFL (R210). -/
inductive ShflMode where
  | idx | up | down | xor
  deriving DecidableEq, Repr

/-- Modes of VOTE (R211). -/
inductive VoteMode where
  | all | any | ballot
  deriving DecidableEq, Repr

/-- Operations of SCAN and REDX (R212). -/
inductive LaneOp where
  | iadd | imin | imax | umin | umax | and | or | xor | fadd | fmin | fmax
  deriving DecidableEq, Repr

/-- Directions of BCP (R232). -/
inductive BcpDir where
  | load | store | fadd | xadd
  deriving DecidableEq, Repr

/-- Modes of DRAIN (R241). -/
inductive DrainMode where
  | store | fadd | xadd
  deriving DecidableEq, Repr

/-- Conditions of SIGWAIT (R247). -/
inductive SigCond where
  | eq | le | ne
  deriving DecidableEq, Repr

/-- Input types of the matrix engine (R260). -/
inductive MmaType where
  | bf16 | f16 | i8 | f8 | i4
  deriving DecidableEq, Repr

/-- What RSTAT reads (R289). -/
inductive RstatSel where
  | state | base | prc | out | noops | ready | pending | tail
  deriving DecidableEq, Repr

/-- What TSTAT reads (R73). -/
inductive TstatSel where
  | last | handle | elapsed | wbused | rset | qdepth
  deriving DecidableEq, Repr

/-- A queue record of a kernel (R320): the queue, and the QCFG image that the kernel requests. -/
structure QueueRec where
  q    : QNum
  qcfg : DWord
  deriving DecidableEq, Repr

/-- A kernel descriptor (R319) with its queue records (R320), as system software hands it to a crew launch, together
with what system software decides at the launch: the code's virtual address, the scratchpad run's first row, the lane
group of each gang and the physical tiles. -/
structure KernelDesc where
  codeBase : DWord
  entry    : Word
  regs     : Nat
  gangs    : Nat
  team     : Nat
  tiles    : Nat
  steward  : Bool
  tconv    : Conv
  staticRows : Nat
  poolRows : Nat
  queues   : List QueueRec
  baseRow  : Nat
  lgrps    : List Nat
  physTiles : List Nat
  deriving DecidableEq, Repr

/-- The instructions and events: one constructor per row of spec/opcode_table.json. -/
inductive Instr where
  -- control (R160 to R168, R349)
  | nop (g : Guard)
  | bra (g : Guard) (hint : Hint) (ofs : BitVec 30)
  | jmp (g : Guard) (ofs : BitVec 30)
  | jmpi (g : Guard) (a : Reg)
  | call (g : Guard) (d : Reg) (ofs : BitVec 30)
  | calli (g : Guard) (d a : Reg)
  | ret (g : Guard) (a : Reg)
  | exit (g : Guard)
  | enter (g : Guard) (b : BitVec 6)
  | grow (g : Guard) (b : BitVec 6)
  | shrink (g : Guard) (b : BitVec 6)
  | join (g : Guard) (a : Reg)
  | yield (g : Guard)
  | bkpt (g : Guard) (code : BitVec 16)
  | trap (g : Guard) (code : BitVec 16)
  | sys (g : Guard) (code : BitVec 16)
  | rett (g : Guard)
  | rettTgt (g : Guard) (a : Reg)
  -- integer (R169, R170)
  | iadd (g : Guard) (d a b : Reg)
  | isub (g : Guard) (d a b : Reg)
  | imul (g : Guard) (d a b : Reg)
  | imin (g : Guard) (u : Bool) (d a b : Reg)
  | imax (g : Guard) (u : Bool) (d a b : Reg)
  | and (g : Guard) (d a b : Reg)
  | or (g : Guard) (d a b : Reg)
  | xor (g : Guard) (d a b : Reg)
  | andn (g : Guard) (d a b : Reg)
  | shl (g : Guard) (d a b : Reg)
  | shr (g : Guard) (d a b : Reg)
  | sar (g : Guard) (d a b : Reg)
  | rot (g : Guard) (d a b : Reg)
  | iadd64 (g : Guard) (d a b : Reg)
  | iaddI (g : Guard) (d a : Reg) (imm : Word)
  | isubI (g : Guard) (d a : Reg) (imm : Word)
  | imulI (g : Guard) (d a : Reg) (imm : Word)
  | iminI (g : Guard) (d a : Reg) (imm : Word)
  | imaxI (g : Guard) (d a : Reg) (imm : Word)
  | andI (g : Guard) (d a : Reg) (imm : Word)
  | orI (g : Guard) (d a : Reg) (imm : Word)
  | xorI (g : Guard) (d a : Reg) (imm : Word)
  | andnI (g : Guard) (d a : Reg) (imm : Word)
  | shlI (g : Guard) (d a : Reg) (imm : Word)
  | shrI (g : Guard) (d a : Reg) (imm : Word)
  | sarI (g : Guard) (d a : Reg) (imm : Word)
  | rotI (g : Guard) (d a : Reg) (imm : Word)
  | iadd64I (g : Guard) (d a : Reg) (imm : Word)
  | iaddc (g : Guard) (x : Bool) (d a b : Reg) (pc : Pred)
  | imulh (g : Guard) (u : Bool) (d a b : Reg)
  | imad (g : Guard) (d a b c : Reg)
  | iabs (g : Guard) (d a : Reg)
  | ineg (g : Guard) (d a : Reg)
  | not (g : Guard) (d a : Reg)
  | shf (g : Guard) (left : Bool) (d a b c : Reg)
  | bfx (g : Guard) (s : Bool) (d a b : Reg)
  | bfi (g : Guard) (d a b c : Reg)
  | popc (g : Guard) (d a : Reg)
  | clz (g : Guard) (d a : Reg)
  | ctz (g : Guard) (d a : Reg)
  | brev (g : Guard) (d a : Reg)
  | prmt (g : Guard) (d a b c : Reg)
  | sel (g : Guard) (d a b : Reg) (pc : Pred)
  | isetp (g : Guard) (cmp : Cmp) (u : Bool) (comb : Comb) (pd : Pred) (a b : Reg) (pc : Pred)
  | plop (g : Guard) (pd pa pb pc : Pred) (lut : BitVec 8)
  | mov (g : Guard) (d a : Reg)
  | movi (g : Guard) (d : Reg) (imm : Word)
  | movsv (g : Guard) (d : Reg) (sv : SpecialValue)
  | lea (g : Guard) (sh : BitVec 3) (u : Bool) (d a b : Reg)
  | imul64 (g : Guard) (u : Bool) (d a b : Reg)
  -- floating point (R174 to R184)
  | fadd (g : Guard) (rm : RMode) (d a b : Reg)
  | fsub (g : Guard) (rm : RMode) (d a b : Reg)
  | fmul (g : Guard) (rm : RMode) (d a b : Reg)
  | ffma (g : Guard) (rm : RMode) (d a b c : Reg)
  | fmin (g : Guard) (d a b : Reg)
  | fmax (g : Guard) (d a b : Reg)
  | faddI (g : Guard) (d a : Reg) (imm : Word)
  | fsubI (g : Guard) (d a : Reg) (imm : Word)
  | fmulI (g : Guard) (d a : Reg) (imm : Word)
  | fminI (g : Guard) (d a : Reg) (imm : Word)
  | fmaxI (g : Guard) (d a : Reg) (imm : Word)
  | fsetp (g : Guard) (cmp : Cmp) (comb : Comb) (pd : Pred) (a b : Reg) (pc : Pred)
  | fclass (g : Guard) (d a : Reg)
  | frnd (g : Guard) (rm : RMode) (d a : Reg)
  | fdiv (g : Guard) (la : BitVec 4) (rm : RMode) (d a b : Reg)
  | rcp (g : Guard) (la : BitVec 4) (rm : RMode) (d a : Reg)
  | rsq (g : Guard) (la : BitVec 4) (rm : RMode) (d a : Reg)
  | sqrt (g : Guard) (la : BitVec 4) (rm : RMode) (d a : Reg)
  | exp2 (g : Guard) (la : BitVec 4) (rm : RMode) (d a : Reg)
  | log2 (g : Guard) (la : BitVec 4) (rm : RMode) (d a : Reg)
  | sint (g : Guard) (la : BitVec 4) (rm : RMode) (d a : Reg)
  | cost (g : Guard) (la : BitVec 4) (rm : RMode) (d a : Reg)
  | hadd2 (g : Guard) (rm : RMode) (bf : Bool) (d a b : Reg)
  | hmul2 (g : Guard) (rm : RMode) (bf : Bool) (d a b : Reg)
  | hfma2 (g : Guard) (rm : RMode) (bf : Bool) (d a b c : Reg)
  | dp4 (g : Guard) (ua ub sat : Bool) (d a b c : Reg)
  | dp8 (g : Guard) (ua ub sat : Bool) (d a b c : Reg)
  | dpf8 (g : Guard) (rm : RMode) (af8b bf8b : Bool) (d a b c : Reg)
  | cvt (g : Guard) (rm : RMode) (src dst : NumFmt) (sat ef : Bool) (si di : BitVec 3) (d a c : Reg)
  | qnt (g : Guard) (fmt : QntFmt) (ef : Bool) (d a m e : Reg)
  -- memory (R186 to R208, R355, R381)
  | ld (g : Guard) (la : BitVec 4) (w : Width) (acq : Bool) (sc : Scope) (d a : Reg) (imm : BitVec 24)
  | st (g : Guard) (w : Width) (rel : Bool) (sc : Scope) (d a : Reg) (imm : BitVec 24)
  | ldMap (g : Guard) (la : BitVec 4) (w : Width) (d a : Reg) (imm : BitVec 24)
  | stMap (g : Guard) (w : Width) (d a : Reg) (imm : BitVec 24)
  | lds (g : Guard) (la : BitVec 4) (w : Width) (d a : Reg) (imm : BitVec 24)
  | sts (g : Guard) (w : Width) (d a : Reg) (imm : BitVec 24)
  | ldt (g : Guard) (la : BitVec 4) (d a : Reg) (imm : BitVec 24)
  | pref (g : Guard) (a : Reg) (imm : BitVec 24)
  | atom (g : Guard) (la : BitVec 4) (op : AtomOp) (w64 : Bool) (sc : Scope) (ord : AtomOrd) (d a b : Reg)
  | atoms (g : Guard) (la : BitVec 4) (op : AtomOp) (w64 : Bool) (d a b c : Reg)
  | red (g : Guard) (op : AtomOp) (w64 : Bool) (sc : Scope) (rel : Bool) (a b : Reg)
  | xadd (g : Guard) (la : BitVec 4) (anchor : BitVec 8) (sc : Scope) (ret : Bool) (d a b c : Reg)
  | cas (g : Guard) (la : BitVec 4) (w64 : Bool) (sc : Scope) (ord : AtomOrd) (d a b c : Reg)
  | fence (g : Guard) (sc : Scope) (kind : FenceKind)
  | seal (g : Guard) (a b : Reg)
  | unseal (g : Guard) (d a b : Reg)
  | spalloc (g : Guard) (d a : Reg)
  | spfree (g : Guard) (a : Reg)
  | sectQuery (g : Guard) (d a : Reg)
  | sectClr (g : Guard) (a : Reg)
  | sectSet (g : Guard) (a : Reg)
  | tlbinvPage (g : Guard) (a : Reg)
  | tlbinvRange (g : Guard) (a b : Reg)
  | tlbinvAll (g : Guard)
  | dlog (g : Guard) (d a : Reg)
  -- lane collectives, barrier, random numbers (R209 to R219)
  | shfl (g : Guard) (mode : ShflMode) (w64 : Bool) (d a b m : Reg)
  | vote (g : Guard) (mode : VoteMode) (d : Reg) (pa : Pred) (m : Reg)
  | scan (g : Guard) (rm : RMode) (op : LaneOp) (excl : Bool) (d a m : Reg)
  | redx (g : Guard) (rm : RMode) (op : LaneOp) (d a m : Reg)
  | matchx (g : Guard) (w64 : Bool) (d a m : Reg)
  | elect (g : Guard) (pd : Pred) (m : Reg)
  | cbarArm (g : Guard) (c : Conv) (a b : Reg)
  | cbar (g : Guard) (sc : Scope) (c : Conv)
  | rand (g : Guard) (d a : Reg)
  | randf (g : Guard) (d a : Reg)
  -- copy engines and signals (R220 to R248)
  | acpL (g : Guard) (slack : BitVec 4) (tag : Tag) (v : BitVec 6) (vreg : Bool) (d a b : Reg)
  | acpS (g : Guard) (slack : BitVec 4) (tag : Tag) (v : BitVec 6) (vreg : Bool) (d a b : Reg)
  | await (g : Guard) (tag : Tag)
  | kcnt (g : Guard) (d : Reg) (tag : Tag)
  | bcp (g : Guard) (slack : BitVec 4) (dir : BcpDir) (nosig mapd : Bool) (d a b c : Reg)
  | mcast (g : Guard) (slack : BitVec 4) (len : BitVec 11) (nosig : Bool) (d a b c : Reg)
  | kvg (g : Guard) (slack : BitVec 4) (v stale trap spread : Bool) (d a m p : Reg)
  | kva (g : Guard) (slack : BitVec 4) (n : BitVec 5) (nosig : Bool) (a b c : Reg)
  | drain (g : Guard) (slack : BitVec 4) (mode : DrainMode) (nosig clr : Bool) (t : Tile) (a b c : Reg)
  | job (g : Guard) (a : Reg)
  | sigdec (g : Guard) (a : Reg)
  | sigadd (g : Guard) (a b : Reg)
  | sigwait (g : Guard) (cond : SigCond) (a b : Reg)
  | sigread (g : Guard) (la : BitVec 4) (d a : Reg)
  -- matrix engine (R251 to R266)
  | conv (g : Guard) (c : Conv) (team : BitVec 4)
  | mma (g : Guard) (ty : MmaType) (af8b bf8b ua ub s : Bool) (sr : Reg) (t : Tile) (a b : Reg) (c : Conv)
  | mmas (g : Guard) (ty : MmaType) (af8b bf8b ua ub s : Bool) (sr : Reg) (t : Tile) (a b : Reg) (c : Conv)
  | aclr (g : Guard) (i : Bool) (t : Tile)
  | anch (g : Guard) (t : Tile) (anchor : BitVec 8)
  | aget (g : Guard) (la : BitVec 4) (rm : RMode) (i32 w4 : Bool) (t : Tile) (a b : Reg)
  | aput (g : Guard) (t : Tile) (a b : Reg)
  | aflag (g : Guard) (anc : Bool) (t : Tile) (a b : Reg)
  -- segments, selection, merging (R283 to R290, R294 to R311)
  | segnew (g : Guard) (d a b : Reg)
  | segnewDel (g : Guard) (d a : Reg)
  | segseal (g : Guard) (a : Reg)
  | segsum (g : Guard) (nosig : Bool) (a c : Reg)
  | link (g : Guard) (follow : Bool) (d a b : Reg)
  | unlink (g : Guard) (d a b : Reg)
  | kvr (g : Guard) (a b c : Reg)
  | rstat (g : Guard) (sel : RstatSel) (d a b : Reg)
  | rotq (g : Guard) (bf : Bool) (d a b c : Reg)
  | anc (g : Guard) (pd : Pred) (a b c : Reg)
  | psel (g : Guard) (d a b : Reg)
  | topk (g : Guard) (pairs spin : Bool) (d a b : Reg)
  | topp (g : Guard) (draw spin : Bool) (d a b : Reg)
  | tmrg (g : Guard) (d a b : Reg)
  | tunm (g : Guard) (a b c : Reg)
  | tmapInfo (g : Guard) (d a : Reg)
  | tmapFree (g : Guard) (a : Reg)
  | tmapParent (g : Guard) (d a : Reg)
  | szb (g : Guard) (rm : RMode) (d a : Reg)
  -- tasks (R57 to R73)
  | tpop (g : Guard) (nb any : Bool) (d : Reg) (q : QNum) (c : Conv)
  | tspawn (g : Guard) (a : Reg) (q : QNum)
  | tdone (g : Guard) (c : Conv)
  | tsplit (g : Guard)
  | tabort (g : Guard)
  | tabortRq (g : Guard)
  | tstat (g : Guard) (sel : TstatSel) (d : Reg) (q : QNum)
  -- system (R345, R353, R356, R370 to R377)
  | mfx (g : Guard) (w64 : Bool) (sreg : BitVec 12) (d : Reg)
  | mtx (g : Guard) (w64 : Bool) (sreg : BitVec 12) (a : Reg)
  | quiesceStop (g : Guard)
  | quiesceSave (g : Guard) (d a b : Reg)
  | resumeRun (g : Guard)
  | resumeLoad (g : Guard) (a : Reg)
  | resumeThreads (g : Guard) (d a c : Reg)
  | evict (g : Guard) (d a b c : Reg)
  | halt (g : Guard) (code : BitVec 16)
  | smcallSensor (g : Guard) (a c : Reg)
  | smcallLogput (g : Guard) (a c : Reg)
  | smcallLogget (g : Guard) (a c : Reg)
  | smcallQuote (g : Guard) (a c : Reg)
  | smcallPowercap (g : Guard) (a c : Reg)
  -- EVENTS from outside the machine's own engines: the host, system software, peers, the board; and the words MFX and
  -- MTX of registers whose access has a row of its own. Their operands are the data that come with them.
  | softError (unit : Nat) (lasting : Bool) (vf thread : Nat)
  | hostAbort (thread : Nat) (iommu : Bool)
  | peerFail (thread : Nat)
  | linkDown (port : BitVec 4)
  | peerRequest (vf : Nat) (addr : DWord) (kind : BitVec 3) (op : AtomOp) (w64 : Bool) (data : List (BitVec 8))
      (data2 : DWord)
  | hostWrite (vf : Nat) (offset : DWord) (data : List (BitVec 8))
  | hostPush (vf : Nat) (offset : Nat) (data : List (BitVec 8))
  | furcfgWrite (g : Guard) (a : Reg)
  | uniformMissRead (g : Guard) (d : Reg)
  | haltrecRead (g : Guard) (d : Reg)
  | trareaWrite (g : Guard) (count : Bool) (a : Reg)
  | fqcfgWrite (g : Guard) (a : Reg)
  | frespResolve (vf : Nat) (fid : BitVec 24)
  | frespDecline (vf : Nat) (fid : BitVec 24)
  | poolfree (g : Guard) (a : Reg)
  | poolstatRead (g : Guard) (d : Reg)
  | qcfgrWrite (g : Guard) (a : Reg)
  | qspillrWrite (g : Guard) (a : Reg)
  | qstatWrite (g : Guard) (a : Reg)
  | registerWrite (offset : Nat) (val : DWord)
  | hgcfgWrite (val : Word)
  | poolcfgWrite (val : DWord)
  | veccfgWrite (high : Bool) (val : DWord)
  | vfenWrite (val : Word)
  | pdescWrite (vf : Nat) (word : BitVec 2) (val : DWord)
  | checkpoint
  | restore
  | vfcmdStop (vf : BitVec 4)
  | vfcmdRun (vf : BitVec 4)
  | vfcmdSave (vf : BitVec 4)
  | vfcmdLoad (vf : BitVec 4)
  | dlogdataRead
  | firmwareUpdate (valid : Bool) (image : Nat)
  | spdmRequest (function : Nat) (msg : List (BitVec 8))
  | coldReset (failed : BitVec 3)
  | warmReset (failed : BitVec 3)
  | coolantOutOfRange
  | powerLimitThrottle (steps : Nat)
  | crewLaunch (vf core crew : Nat) (kernel : KernelDesc)
  -- EVENTS the machine makes by itself: the agent that moves (a core, a thread, a command ...) is named by the
  -- agenda's entry and stands in State.who while the event is performed.
  | smcReply
  | bundleForm
  | ageLimitExpiry
  | regDeadlock
  | parkEnd
  | headgateDispatch
  | spillwayRefill
  | tallowExpiry
  | readSetHoldRelease
  | taskCommit
  | commitRecord
  | taskComplete
  | crewEnd
  | sigwaitReread
  | sluiceBeat
  | slackDecay
  | engineSectorTake
  | acpComplete
  | bcpComplete
  | mcastComplete
  | kvgRowFill
  | kvgComplete
  | kvaComplete
  | drainRow
  | drainComplete
  | segsumComplete
  | kvrPerform
  | siphonDecode
  | jobComplete
  | pselComplete
  | selectComplete
  | tmrgComplete
  | tunmComplete
  | matrixOpStart
  | matrixOpComplete
  | quotaRecheck
  | faultReport
  | agentStop
  | partitionHalted
  | partitionQuiesced
  | quiesceTimeout
  | engineTimeout
  | watchdog
  | longLatencyComplete
  | storeQueueDrain
  | storePropagation
  deriving DecidableEq, Repr

end Sys2Proof
end

