-- ==== Sys2Proof/WellFormed.lean ====
section
/-!
DEFINITION. Which instructions are well formed: the field values and alignments of R146 and of each instruction's
own entry. A word that breaks one of them takes ILLEGAL_MODIFIER. A field that a form does not use has no place in
its constructor; that it is zero in the word is checked by the decoder.
-/
namespace Sys2Proof

/-- The register number starts a pair (R146). -/
def evenReg (r : BitVec 8) : Bool := r.toNat % 2 == 0

/-- The register number starts a quad (R146). -/
def quadReg (r : BitVec 8) : Bool := r.toNat % 4 == 0

/-- The register number starts an octet (R146). -/
def octetReg (r : BitVec 8) : Bool := r.toNat % 8 == 0

/-- How many registers a data operand of this width names (R145). -/
def Width.regs : Width → Nat
  | .b64 => 2
  | .b128 => 4
  | _ => 1

/-- The data register of an access is aligned for its width (R145, R187). -/
def Width.aligned (w : Width) (r : Reg) : Bool := r.toNat % w.regs == 0

/-- A store accepts the width: S8 and S16 do not exist for stores (R188). -/
def Width.storable : Width → Bool
  | .s8 => false
  | .s16 => false
  | _ => true

/-- How many elements of the format one register holds (R182). -/
def NumFmt.count : NumFmt → Nat
  | .f32 => 1
  | .f16 => 2
  | .bf16 => 2
  | .f8a => 4
  | .f8b => 4
  | .i8 => 4
  | .i4 => 8
  | .i32 => 1
  | .ui32 => 1

/-- The format is a float (R182). -/
def NumFmt.isFloat : NumFmt → Bool
  | .f32 => true
  | .f16 => true
  | .bf16 => true
  | .f8a => true
  | .f8b => true
  | _ => false

/-- The operation is a float operation, which exists for 32 bits only (R195). -/
def AtomOp.isFloat : AtomOp → Bool
  | .fadd => true
  | .fmin => true
  | .fmax => true
  | _ => false

/-- The width of a system register, as whether it has 64 bits; an unassigned number has none
(R346, R347, R368). -/
def sregWide (r : BitVec 12) : Option Bool :=
  let n := r.toNat
  if n ≤ 1 then some false
  else if n == 0x10 then some false
  else if 0x11 ≤ n && n ≤ 0x14 then some true
  else if n == 0x15 then some false
  else if n == 0x16 then some true
  else if n == 0x17 then some false
  else if n == 0x18 || n == 0x19 then some true
  else if 0x20 ≤ n && n ≤ 0x28 then some true
  else if 0x30 ≤ n && n ≤ 0x3F then some true
  else if n == 0x100 || n == 0x101 then some false
  else if n == 0x200 || n == 0x201 then some true
  else if n == 0x202 || n == 0x203 then some false
  else if 0x204 ≤ n && n ≤ 0x206 then some true
  else if n == 0x207 then some false
  else if n == 0x208 then some true
  else if n == 0x209 || n == 0x20A then some false
  else if n == 0x20B then some true
  else if n == 0x20C then some false
  else if n == 0x20D || n == 0x20E then some true
  else if n == 0x20F then some false
  else if 0x210 ≤ n && n ≤ 0x213 then some true
  else none

/-- The W64 bit suits the register: an unassigned register has no width (R345). -/
def sregFits (r : BitVec 12) (w64 : Bool) : Bool :=
  match sregWide r with
  | some w => w == w64
  | none => true

/-- Reads of these system registers have rows of their own in the table (UNIFORM_MISS, HALTREC, POOLSTAT). -/
def sregOwnRead (r : BitVec 12) : Bool :=
  r == 0x101 || r == 0x201 || r == 0x20B

/-- Writes of these system registers have rows of their own in the table (FURCFG, TRAREA, TRCOUNT, FQCFG, POOLFREE,
QCFGR, QSPILLR, QSTAT). -/
def sregOwnWrite (r : BitVec 12) : Bool :=
  r == 0x100 || r == 0x206 || r == 0x207 || r == 0x208 || r == 0x20A || r == 0x20D || r == 0x20E || r == 0x20F

/-- The block count of ENTER, GROW and SHRINK lies in 1 to 32 (R43, R164). -/
def blocksOk (b : BitVec 6) : Bool := 1 ≤ b.toNat && b.toNat ≤ 32

/-- The combining predicate is zero when nothing is combined (R171). -/
def combOk (comb : Comb) (pc : Pred) : Bool := comb != .none || pc == 0

/-- The modifier fields of MMA and MMAS (R259). -/
def mmaModOk (ty : MmaType) (af8b bf8b ua ub s : Bool) (sr : Reg) : Bool :=
  (ty == .f8 || (!af8b && !bf8b)) && (ty == .i8 || ty == .i4 || (!ua && !ub)) && (s || sr == 0)

/-- The field values of CVT (R182). -/
def cvtOk (rm : RMode) (src dst : NumFmt) (sat ef : Bool) (si di : BitVec 3) (d c : Reg) : Bool :=
  decide (si.toNat < src.count) && decide (di.toNat < dst.count) && (!sat || dst.isFloat) &&
  (if ef then src == .f32 && (dst == .f16 || dst == .bf16 || dst == .f8a || dst == .f8b) && rm == .rne && !sat &&
      c != d
   else c == 0)

/-- The signal operand of a command: an even pair, zero without a signal (R232). -/
def sigOk (nosig : Bool) (c : Reg) : Bool := evenReg c && (!nosig || c == 0)

/-- The instruction is well formed: no field value and no alignment of it takes ILLEGAL_MODIFIER. An event has no
word; its operands are checked where it is performed. -/
def Instr.wellFormed : Instr → Bool
  | .jmpi _ a => evenReg a
  | .call _ d _ => evenReg d
  | .calli _ d a => evenReg d && evenReg a
  | .ret _ a => evenReg a
  | .rettTgt _ a => evenReg a
  | .enter _ b => blocksOk b
  | .grow _ b => blocksOk b
  | .shrink _ b => blocksOk b
  | .iadd64 _ d a b => evenReg d && evenReg a && evenReg b
  | .iadd64I _ d a _ => evenReg d && evenReg a
  | .isetp _ cmp _ comb _ _ _ pc => cmp != .unord && cmp != .ord && combOk comb pc
  | .fsetp _ _ comb _ _ _ pc => combOk comb pc
  | .lea _ _ _ d a _ => evenReg d && evenReg a
  | .imul64 _ _ d _ _ => evenReg d
  | .cvt _ rm src dst sat ef si di d _ c => cvtOk rm src dst sat ef si di d c
  | .qnt _ _ ef d _ _ e => if ef then e != d else e == 0
  | .ld _ _ w acq sc d a _ => w.aligned d && (acq || sc == .crew) && evenReg a
  | .st _ w rel sc d a _ => w.storable && w.aligned d && (rel || sc == .crew) && evenReg a
  | .ldMap _ _ w d a _ => w.aligned d && evenReg a
  | .stMap _ w d a _ => w.storable && w.aligned d && evenReg a
  | .lds _ _ w d a _ => w.aligned d && evenReg a
  | .sts _ w d a _ => w.storable && w.aligned d && evenReg a
  | .ldt _ _ _ a _ => quadReg a
  | .pref _ a _ => evenReg a
  | .atom _ _ op w64 _ _ d a b =>
      op != .cas && (!w64 || (!op.isFloat && evenReg d && evenReg b)) && evenReg a
  | .atoms _ _ op w64 d _ b c =>
      (!w64 || (!op.isFloat && evenReg d && evenReg b && evenReg c)) && (op == .cas || c == 0)
  | .red _ op w64 _ _ a b => op != .cas && (!w64 || (!op.isFloat && evenReg b)) && evenReg a
  | .xadd _ la _ _ rt d a b c =>
      evenReg a && evenReg c && quadReg b && (if rt then quadReg d else d == 0 && la == 0)
  | .cas _ _ w64 _ _ d a b c => evenReg a && (!w64 || (evenReg d && evenReg b && evenReg c))
  | .seal _ a b => evenReg a && evenReg b
  | .unseal _ _ a b => evenReg a && evenReg b
  | .tlbinvPage _ a => evenReg a
  | .tlbinvRange _ a b => evenReg a && evenReg b
  | .dlog _ d _ => evenReg d
  | .shfl _ _ w64 d a _ _ => !w64 || (evenReg d && evenReg a)
  | .vote _ mode d _ _ => mode == .ballot || decide (d.toNat < 8)
  | .scan _ rm op _ _ _ _ => op == .fadd || rm == .rne
  | .redx _ rm op _ _ _ => op == .fadd || rm == .rne
  | .matchx _ w64 _ a _ => !w64 || evenReg a
  | .rand _ d a => quadReg a && !(a.toNat ≤ d.toNat && d.toNat ≤ a.toNat + 3)
  | .randf _ d a => quadReg a && !(a.toNat ≤ d.toNat && d.toNat ≤ a.toNat + 3)
  | .acpL _ _ _ v vreg _ a b => evenReg a && decide (v.toNat ≤ 32) && (if vreg then v == 0 else b == 0)
  | .acpS _ _ _ v vreg _ a b => evenReg a && decide (v.toNat ≤ 32) && (if vreg then v == 0 else b == 0)
  | .bcp _ _ _ nosig _ _ a b c => evenReg a && octetReg b && sigOk nosig c
  | .mcast _ _ _ nosig _ a b c => evenReg a && quadReg b && sigOk nosig c
  | .kvg _ _ _ _ _ _ _ _ _ p => quadReg p
  | .kva _ _ _ nosig a b c => evenReg a && evenReg b && sigOk nosig c
  | .drain _ _ _ nosig _ _ a b c => evenReg a && octetReg b && sigOk nosig c
  | .job _ a => evenReg a
  | .sigdec _ a => evenReg a
  | .sigadd _ a b => evenReg a && evenReg b
  | .sigwait _ _ a b => evenReg a && evenReg b
  | .sigread _ _ d a => evenReg d && evenReg a
  | .mma _ ty af8b bf8b ua ub s sr _ a b _ => mmaModOk ty af8b bf8b ua ub s sr && quadReg a && quadReg b
  | .mmas _ ty af8b bf8b ua ub s sr _ a _ _ => mmaModOk ty af8b bf8b ua ub s sr && quadReg a
  | .aget _ _ _ _ w4 _ a _ => !w4 || quadReg a
  | .aput _ _ a _ => quadReg a
  | .aflag _ an _ _ b => !an || b == 0
  | .segnew _ _ a b => quadReg a && evenReg b
  | .segsum _ nosig _ c => sigOk nosig c
  | .link _ _ _ a b => evenReg a && quadReg b
  | .unlink _ _ a _ => evenReg a
  | .kvr _ a b _ => evenReg a && evenReg b
  | .rstat _ sl d a _ => evenReg a && ((sl != .ready && sl != .pending) || evenReg d)
  | .rotq _ bf d a _ _ => bf || (evenReg d && evenReg a)
  | .anc _ _ _ b _ => evenReg b
  | .psel _ _ a b => quadReg a && quadReg b
  | .topk _ _ _ _ a b => evenReg a && quadReg b
  | .topp _ _ _ _ a b => evenReg a && quadReg b
  | .tmrg _ d a b => quadReg a && quadReg b && !(a.toNat ≤ d.toNat && d.toNat ≤ a.toNat + 3)
  | .tunm _ _ b _ => evenReg b
  | .tmapInfo _ d _ => evenReg d
  | .tpop _ _ any d q _ => octetReg d && (!any || q == 0)
  | .tspawn _ a _ => octetReg a
  | .tstat _ sl _ q => sl == .qdepth || q == 0
  | .mfx _ w64 r d => sregFits r w64 && (!w64 || evenReg d) && !(sregOwnRead r && sregWide r == some w64)
  | .mtx _ w64 r a => sregFits r w64 && (!w64 || evenReg a) && !(sregOwnWrite r && sregWide r == some w64)
  | .haltrecRead _ d => evenReg d
  | .trareaWrite _ count a => count || evenReg a
  | .fqcfgWrite _ a => evenReg a
  | .poolstatRead _ d => evenReg d
  | .qcfgrWrite _ a => evenReg a
  | .qspillrWrite _ a => evenReg a
  | .quiesceSave _ d a b => evenReg d && evenReg a && evenReg b
  | .resumeLoad _ a => evenReg a
  | .resumeThreads _ d _ c => evenReg d && evenReg c
  | .evict _ d _ _ c => evenReg d && evenReg c
  | .smcallSensor _ a c => evenReg a && evenReg c
  | .smcallLogput _ a c => evenReg a && evenReg c
  | .smcallLogget _ a c => evenReg a && evenReg c
  | .smcallQuote _ a c => evenReg a && evenReg c
  | .smcallPowercap _ a c => evenReg a && evenReg c
  | _ => true

end Sys2Proof
end

