-- ==== Sys2Proof/Decode.lean ====
section
/-!
DEFINITION. The decoder and the encoder of instruction words (spec/07_encoding_opcode_map.md R139 to R157, R154 the
opcode map, and the encoding of each instruction's own entry), clause headers (R139 to R141) and the opcode ranges of
the classes (R140). The decoder reads the fields, builds the instruction and checks that the word is exactly the one
the encoder writes for it, so a nonzero unused field is refused, as R146 asks.
-/
namespace Sys2Proof

/-- The 2-bit code of a `RMode` (R147). -/
def RMode.bits : RMode → BitVec 2
  | .rne => 0
  | .rtz => 1
  | .rup => 2
  | .rdn => 3

/-- The `RMode` of a 2-bit code; a reserved code has none (R147). -/
def RMode.ofBits (x : BitVec 2) : Option RMode :=
  match x.toNat with
  | 0 => some .rne
  | 1 => some .rtz
  | 2 => some .rup
  | 3 => some .rdn
  | _ => none

/-- The 3-bit code of a `Scope` (R120). -/
def Scope.bits : Scope → BitVec 3
  | .crew => 0
  | .core => 1
  | .die => 2
  | .dev => 3
  | .sys => 4

/-- The `Scope` of a 3-bit code; a reserved code has none (R120). -/
def Scope.ofBits (x : BitVec 3) : Option Scope :=
  match x.toNat with
  | 0 => some .crew
  | 1 => some .core
  | 2 => some .die
  | 3 => some .dev
  | 4 => some .sys
  | _ => none

/-- The 3-bit code of a `Width` (R145). -/
def Width.bits : Width → BitVec 3
  | .z8 => 0
  | .s8 => 1
  | .z16 => 2
  | .s16 => 3
  | .b32 => 4
  | .b64 => 5
  | .b128 => 6

/-- The `Width` of a 3-bit code; a reserved code has none (R145). -/
def Width.ofBits (x : BitVec 3) : Option Width :=
  match x.toNat with
  | 0 => some .z8
  | 1 => some .s8
  | 2 => some .z16
  | 3 => some .s16
  | 4 => some .b32
  | 5 => some .b64
  | 6 => some .b128
  | _ => none

/-- The 3-bit code of a `Cmp` (R171). -/
def Cmp.bits : Cmp → BitVec 3
  | .eq => 0
  | .ne => 1
  | .lt => 2
  | .le => 3
  | .gt => 4
  | .ge => 5
  | .unord => 6
  | .ord => 7

/-- The `Cmp` of a 3-bit code; a reserved code has none (R171). -/
def Cmp.ofBits (x : BitVec 3) : Option Cmp :=
  match x.toNat with
  | 0 => some .eq
  | 1 => some .ne
  | 2 => some .lt
  | 3 => some .le
  | 4 => some .gt
  | 5 => some .ge
  | 6 => some .unord
  | 7 => some .ord
  | _ => none

/-- The 2-bit code of a `Comb` (R171). -/
def Comb.bits : Comb → BitVec 2
  | .none => 0
  | .and => 1
  | .or => 2
  | .xor => 3

/-- The `Comb` of a 2-bit code; a reserved code has none (R171). -/
def Comb.ofBits (x : BitVec 2) : Option Comb :=
  match x.toNat with
  | 0 => some .none
  | 1 => some .and
  | 2 => some .or
  | 3 => some .xor
  | _ => none

/-- The 2-bit code of a `Hint` (R144). -/
def Hint.bits : Hint → BitVec 2
  | .none => 0
  | .likely => 1
  | .unlikely => 2
  | .uniform => 3

/-- The `Hint` of a 2-bit code; a reserved code has none (R144). -/
def Hint.ofBits (x : BitVec 2) : Option Hint :=
  match x.toNat with
  | 0 => some .none
  | 1 => some .likely
  | 2 => some .unlikely
  | 3 => some .uniform
  | _ => none

/-- The 8-bit code of a `SpecialValue` (R173). -/
def SpecialValue.bits : SpecialValue → BitVec 8
  | .tid => 0
  | .lane => 1
  | .gang => 2
  | .lgrp => 3
  | .team => 4
  | .crew => 5
  | .core => 6
  | .die => 7
  | .ngang => 8
  | .alloc => 9
  | .part => 10
  | .clkl => 11
  | .clkh => 12
  | .priv => 13

/-- The `SpecialValue` of a 8-bit code; a reserved code has none (R173). -/
def SpecialValue.ofBits (x : BitVec 8) : Option SpecialValue :=
  match x.toNat with
  | 0 => some .tid
  | 1 => some .lane
  | 2 => some .gang
  | 3 => some .lgrp
  | 4 => some .team
  | 5 => some .crew
  | 6 => some .core
  | 7 => some .die
  | 8 => some .ngang
  | 9 => some .alloc
  | 10 => some .part
  | 11 => some .clkl
  | 12 => some .clkh
  | 13 => some .priv
  | _ => none

/-- The 4-bit code of a `NumFmt` (R182). -/
def NumFmt.bits : NumFmt → BitVec 4
  | .f32 => 0
  | .f16 => 1
  | .bf16 => 2
  | .f8a => 3
  | .f8b => 4
  | .i8 => 5
  | .i4 => 6
  | .i32 => 7
  | .ui32 => 8

/-- The `NumFmt` of a 4-bit code; a reserved code has none (R182). -/
def NumFmt.ofBits (x : BitVec 4) : Option NumFmt :=
  match x.toNat with
  | 0 => some .f32
  | 1 => some .f16
  | 2 => some .bf16
  | 3 => some .f8a
  | 4 => some .f8b
  | 5 => some .i8
  | 6 => some .i4
  | 7 => some .i32
  | 8 => some .ui32
  | _ => none

/-- The 2-bit code of a `QntFmt` (R184). -/
def QntFmt.bits : QntFmt → BitVec 2
  | .i8 => 0
  | .i4 => 1
  | .f8a => 2
  | .f8b => 3

/-- The `QntFmt` of a 2-bit code; a reserved code has none (R184). -/
def QntFmt.ofBits (x : BitVec 2) : Option QntFmt :=
  match x.toNat with
  | 0 => some .i8
  | 1 => some .i4
  | 2 => some .f8a
  | 3 => some .f8b
  | _ => none

/-- The 4-bit code of a `AtomOp` (R195). -/
def AtomOp.bits : AtomOp → BitVec 4
  | .add => 0
  | .min => 1
  | .max => 2
  | .umin => 3
  | .umax => 4
  | .and => 5
  | .or => 6
  | .xor => 7
  | .xchg => 8
  | .fadd => 9
  | .fmin => 10
  | .fmax => 11
  | .cas => 12

/-- The `AtomOp` of a 4-bit code; a reserved code has none (R195). -/
def AtomOp.ofBits (x : BitVec 4) : Option AtomOp :=
  match x.toNat with
  | 0 => some .add
  | 1 => some .min
  | 2 => some .max
  | 3 => some .umin
  | 4 => some .umax
  | 5 => some .and
  | 6 => some .or
  | 7 => some .xor
  | 8 => some .xchg
  | 9 => some .fadd
  | 10 => some .fmin
  | 11 => some .fmax
  | 12 => some .cas
  | _ => none

/-- The 2-bit code of a `AtomOrd` (R194). -/
def AtomOrd.bits : AtomOrd → BitVec 2
  | .none => 0
  | .acq => 1
  | .rel => 2
  | .ar => 3

/-- The `AtomOrd` of a 2-bit code; a reserved code has none (R194). -/
def AtomOrd.ofBits (x : BitVec 2) : Option AtomOrd :=
  match x.toNat with
  | 0 => some .none
  | 1 => some .acq
  | 2 => some .rel
  | 3 => some .ar
  | _ => none

/-- The 2-bit code of a `FenceKind` (R202). -/
def FenceKind.bits : FenceKind → BitVec 2
  | .acq => 1
  | .rel => 2
  | .sc => 3

/-- The `FenceKind` of a 2-bit code; a reserved code has none (R202). -/
def FenceKind.ofBits (x : BitVec 2) : Option FenceKind :=
  match x.toNat with
  | 1 => some .acq
  | 2 => some .rel
  | 3 => some .sc
  | _ => none

/-- The 2-bit code of a `ShflMode` (R210). -/
def ShflMode.bits : ShflMode → BitVec 2
  | .idx => 0
  | .up => 1
  | .down => 2
  | .xor => 3

/-- The `ShflMode` of a 2-bit code; a reserved code has none (R210). -/
def ShflMode.ofBits (x : BitVec 2) : Option ShflMode :=
  match x.toNat with
  | 0 => some .idx
  | 1 => some .up
  | 2 => some .down
  | 3 => some .xor
  | _ => none

/-- The 2-bit code of a `VoteMode` (R211). -/
def VoteMode.bits : VoteMode → BitVec 2
  | .all => 0
  | .any => 1
  | .ballot => 2

/-- The `VoteMode` of a 2-bit code; a reserved code has none (R211). -/
def VoteMode.ofBits (x : BitVec 2) : Option VoteMode :=
  match x.toNat with
  | 0 => some .all
  | 1 => some .any
  | 2 => some .ballot
  | _ => none

/-- The 4-bit code of a `LaneOp` (R212). -/
def LaneOp.bits : LaneOp → BitVec 4
  | .iadd => 0
  | .imin => 1
  | .imax => 2
  | .umin => 3
  | .umax => 4
  | .and => 5
  | .or => 6
  | .xor => 7
  | .fadd => 8
  | .fmin => 9
  | .fmax => 10

/-- The `LaneOp` of a 4-bit code; a reserved code has none (R212). -/
def LaneOp.ofBits (x : BitVec 4) : Option LaneOp :=
  match x.toNat with
  | 0 => some .iadd
  | 1 => some .imin
  | 2 => some .imax
  | 3 => some .umin
  | 4 => some .umax
  | 5 => some .and
  | 6 => some .or
  | 7 => some .xor
  | 8 => some .fadd
  | 9 => some .fmin
  | 10 => some .fmax
  | _ => none

/-- The 2-bit code of a `BcpDir` (R232). -/
def BcpDir.bits : BcpDir → BitVec 2
  | .load => 0
  | .store => 1
  | .fadd => 2
  | .xadd => 3

/-- The `BcpDir` of a 2-bit code; a reserved code has none (R232). -/
def BcpDir.ofBits (x : BitVec 2) : Option BcpDir :=
  match x.toNat with
  | 0 => some .load
  | 1 => some .store
  | 2 => some .fadd
  | 3 => some .xadd
  | _ => none

/-- The 2-bit code of a `DrainMode` (R241). -/
def DrainMode.bits : DrainMode → BitVec 2
  | .store => 0
  | .fadd => 1
  | .xadd => 2

/-- The `DrainMode` of a 2-bit code; a reserved code has none (R241). -/
def DrainMode.ofBits (x : BitVec 2) : Option DrainMode :=
  match x.toNat with
  | 0 => some .store
  | 1 => some .fadd
  | 2 => some .xadd
  | _ => none

/-- The 2-bit code of a `SigCond` (R247). -/
def SigCond.bits : SigCond → BitVec 2
  | .eq => 0
  | .le => 1
  | .ne => 2

/-- The `SigCond` of a 2-bit code; a reserved code has none (R247). -/
def SigCond.ofBits (x : BitVec 2) : Option SigCond :=
  match x.toNat with
  | 0 => some .eq
  | 1 => some .le
  | 2 => some .ne
  | _ => none

/-- The 3-bit code of a `MmaType` (R260). -/
def MmaType.bits : MmaType → BitVec 3
  | .bf16 => 0
  | .f16 => 1
  | .i8 => 2
  | .f8 => 3
  | .i4 => 4

/-- The `MmaType` of a 3-bit code; a reserved code has none (R260). -/
def MmaType.ofBits (x : BitVec 3) : Option MmaType :=
  match x.toNat with
  | 0 => some .bf16
  | 1 => some .f16
  | 2 => some .i8
  | 3 => some .f8
  | 4 => some .i4
  | _ => none

/-- The 3-bit code of a `RstatSel` (R289). -/
def RstatSel.bits : RstatSel → BitVec 3
  | .state => 0
  | .base => 1
  | .prc => 2
  | .out => 3
  | .noops => 4
  | .ready => 5
  | .pending => 6
  | .tail => 7

/-- The `RstatSel` of a 3-bit code; a reserved code has none (R289). -/
def RstatSel.ofBits (x : BitVec 3) : Option RstatSel :=
  match x.toNat with
  | 0 => some .state
  | 1 => some .base
  | 2 => some .prc
  | 3 => some .out
  | 4 => some .noops
  | 5 => some .ready
  | 6 => some .pending
  | 7 => some .tail
  | _ => none

/-- The 3-bit code of a `TstatSel` (R73). -/
def TstatSel.bits : TstatSel → BitVec 3
  | .last => 0
  | .handle => 1
  | .elapsed => 2
  | .wbused => 3
  | .rset => 4
  | .qdepth => 5

/-- The `TstatSel` of a 3-bit code; a reserved code has none (R73). -/
def TstatSel.ofBits (x : BitVec 3) : Option TstatSel :=
  match x.toNat with
  | 0 => some .last
  | 1 => some .handle
  | 2 => some .elapsed
  | 3 => some .wbused
  | 4 => some .rset
  | 5 => some .qdepth
  | _ => none

/-- The common fields of an instruction word (R143): OPC, LA, the guard, D, A, and bits 31:0. -/
structure Fields where
  opc : BitVec 8
  la  : BitVec 4
  g   : Guard
  d   : BitVec 8
  a   : BitVec 8
  lo  : BitVec 32
  deriving DecidableEq, Repr

/-- The common fields, in the order of R143. -/
def fields (opc : BitVec 8) (la : BitVec 4) (g : Guard) (d a : BitVec 8) (lo : BitVec 32) : Fields :=
  { opc := opc, la := la, g := g, d := d, a := a, lo := lo }

/-- A field's value placed with its least significant bit at bit `sh` of bits 31:0. -/
def put {n : Nat} (v : BitVec n) (sh : Nat) : BitVec 32 := v.setWidth 32 <<< sh

/-- The `n` bits from bit `sh` of bits 31:0. -/
def Fields.at (f : Fields) (sh n : Nat) : BitVec n := f.lo.extractLsb' sh n

/-- Bit `sh` of bits 31:0 as a flag. -/
def Fields.flag (f : Fields) (sh : Nat) : Bool := f.lo.getLsbD sh

/-- Field B of the RRRM, ENG and MTX formats (R144). -/
def Fields.b (f : Fields) : BitVec 8 := f.lo.extractLsb' 24 8

/-- Field C of the RRRM, ENG and MTX formats (R144). -/
def Fields.c (f : Fields) : BitVec 8 := f.lo.extractLsb' 16 8

/-- The fields of a 64-bit instruction word (R143). -/
def Fields.ofWord (w : DWord) : Fields :=
  { opc := w.extractLsb' 56 8
    la := w.extractLsb' 52 4
    g := { pn := w.getLsbD 51, ps := w.extractLsb' 48 3 }
    d := w.extractLsb' 40 8
    a := w.extractLsb' 32 8
    lo := w.extractLsb' 0 32 }

/-- The 64-bit word of the fields (R143). -/
def Fields.word (f : Fields) : DWord :=
  f.opc ++ (f.la ++ (BitVec.ofBool f.g.pn ++ (f.g.ps ++ (f.d ++ (f.a ++ f.lo)))))

/-- The fields of an instruction, as its entry gives them; an event has no word. -/
def Instr.fields? : Instr → Option Fields
  | .nop g => some (fields 0x00 0 g 0 0 0)
  | .bra g hint ofs => some (fields 0x01 0 g 0 0 (put hint.bits 0 ||| put ofs 2))
  | .jmp g ofs => some (fields 0x02 0 g 0 0 (put ofs 2))
  | .jmpi g a => some (fields 0x03 0 g 0 a 0)
  | .call g d ofs => some (fields 0x04 0 g d 0 (put ofs 2))
  | .calli g d a => some (fields 0x05 0 g d a 0)
  | .ret g a => some (fields 0x06 0 g 0 a 0)
  | .exit g => some (fields 0x07 0 g 0 0 0)
  | .enter g b => some (fields 0x08 0 g 0 0 (put b 0))
  | .grow g b => some (fields 0x09 0 g 0 0 (put b 0))
  | .shrink g b => some (fields 0x0A 0 g 0 0 (put b 0))
  | .join g a => some (fields 0x0B 0 g 0 a 0)
  | .yield g => some (fields 0x0C 0 g 0 0 0)
  | .bkpt g code => some (fields 0x0D 0 g 0 0 (put code 0))
  | .trap g code => some (fields 0x0E 0 g 0 0 (put code 0))
  | .sys g code => some (fields 0x0F 0 g 0 0 (put code 0))
  | .rett g => some (fields 0x10 0 g 0 0 0)
  | .rettTgt g a => some (fields 0x10 0 g 0 a 0x1#32)
  | .iadd g d a b => some (fields 0x20 0 g d a (put b 24))
  | .isub g d a b => some (fields 0x21 0 g d a (put b 24))
  | .imul g d a b => some (fields 0x22 0 g d a (put b 24))
  | .imin g u d a b => some (fields 0x23 0 g d a (put (.ofBool u) 0 ||| put b 24))
  | .imax g u d a b => some (fields 0x24 0 g d a (put (.ofBool u) 0 ||| put b 24))
  | .and g d a b => some (fields 0x25 0 g d a (put b 24))
  | .or g d a b => some (fields 0x26 0 g d a (put b 24))
  | .xor g d a b => some (fields 0x27 0 g d a (put b 24))
  | .andn g d a b => some (fields 0x28 0 g d a (put b 24))
  | .shl g d a b => some (fields 0x29 0 g d a (put b 24))
  | .shr g d a b => some (fields 0x2A 0 g d a (put b 24))
  | .sar g d a b => some (fields 0x2B 0 g d a (put b 24))
  | .rot g d a b => some (fields 0x2C 0 g d a (put b 24))
  | .iadd64 g d a b => some (fields 0x2D 0 g d a (put b 24))
  | .iaddI g d a imm => some (fields 0x30 0 g d a imm)
  | .isubI g d a imm => some (fields 0x31 0 g d a imm)
  | .imulI g d a imm => some (fields 0x32 0 g d a imm)
  | .iminI g d a imm => some (fields 0x33 0 g d a imm)
  | .imaxI g d a imm => some (fields 0x34 0 g d a imm)
  | .andI g d a imm => some (fields 0x35 0 g d a imm)
  | .orI g d a imm => some (fields 0x36 0 g d a imm)
  | .xorI g d a imm => some (fields 0x37 0 g d a imm)
  | .andnI g d a imm => some (fields 0x38 0 g d a imm)
  | .shlI g d a imm => some (fields 0x39 0 g d a imm)
  | .shrI g d a imm => some (fields 0x3A 0 g d a imm)
  | .sarI g d a imm => some (fields 0x3B 0 g d a imm)
  | .rotI g d a imm => some (fields 0x3C 0 g d a imm)
  | .iadd64I g d a imm => some (fields 0x3D 0 g d a imm)
  | .iaddc g x d a b pc => some (fields 0x40 0 g d a (put (.ofBool x) 0 ||| put b 24 ||| put pc 16))
  | .imulh g u d a b => some (fields 0x41 0 g d a (put (.ofBool u) 0 ||| put b 24))
  | .imad g d a b c => some (fields 0x42 0 g d a (put b 24 ||| put c 16))
  | .iabs g d a => some (fields 0x43 0 g d a 0)
  | .ineg g d a => some (fields 0x44 0 g d a 0)
  | .not g d a => some (fields 0x45 0 g d a 0)
  | .shf g left d a b c => some (fields 0x46 0 g d a (put (.ofBool left) 0 ||| put b 24 ||| put c 16))
  | .bfx g s d a b => some (fields 0x47 0 g d a (put (.ofBool s) 0 ||| put b 24))
  | .bfi g d a b c => some (fields 0x48 0 g d a (put b 24 ||| put c 16))
  | .popc g d a => some (fields 0x49 0 g d a 0)
  | .clz g d a => some (fields 0x4A 0 g d a 0)
  | .ctz g d a => some (fields 0x4B 0 g d a 0)
  | .brev g d a => some (fields 0x4C 0 g d a 0)
  | .prmt g d a b c => some (fields 0x4D 0 g d a (put b 24 ||| put c 16))
  | .sel g d a b pc => some (fields 0x4E 0 g d a (put b 24 ||| put pc 16))
  | .isetp g cmp u comb pd a b pc => some (fields 0x4F 0 g (pd.setWidth 8) a (put cmp.bits 0 ||| put (.ofBool u) 3 ||| put comb.bits 4 ||| put b 24 ||| put pc 16))
  | .plop g pd pa pb pc lut => some (fields 0x50 0 g (pd.setWidth 8) (pa.setWidth 8) (put pb 24 ||| put pc 16 ||| put lut 0))
  | .mov g d a => some (fields 0x51 0 g d a 0)
  | .movi g d imm => some (fields 0x52 0 g d 0 imm)
  | .movsv g d sv => some (fields 0x53 0 g d 0 (put sv.bits 0))
  | .lea g sh u d a b => some (fields 0x54 0 g d a (put sh 0 ||| put (.ofBool u) 3 ||| put b 24))
  | .imul64 g u d a b => some (fields 0x55 0 g d a (put (.ofBool u) 0 ||| put b 24))
  | .fadd g rm d a b => some (fields 0x60 0 g d a (put rm.bits 0 ||| put b 24))
  | .fsub g rm d a b => some (fields 0x61 0 g d a (put rm.bits 0 ||| put b 24))
  | .fmul g rm d a b => some (fields 0x62 0 g d a (put rm.bits 0 ||| put b 24))
  | .ffma g rm d a b c => some (fields 0x63 0 g d a (put rm.bits 0 ||| put b 24 ||| put c 16))
  | .fmin g d a b => some (fields 0x64 0 g d a (put b 24))
  | .fmax g d a b => some (fields 0x65 0 g d a (put b 24))
  | .faddI g d a imm => some (fields 0x80 0 g d a imm)
  | .fsubI g d a imm => some (fields 0x81 0 g d a imm)
  | .fmulI g d a imm => some (fields 0x82 0 g d a imm)
  | .fminI g d a imm => some (fields 0x83 0 g d a imm)
  | .fmaxI g d a imm => some (fields 0x84 0 g d a imm)
  | .fsetp g cmp comb pd a b pc => some (fields 0x66 0 g (pd.setWidth 8) a (put cmp.bits 0 ||| put comb.bits 4 ||| put b 24 ||| put pc 16))
  | .fclass g d a => some (fields 0x67 0 g d a 0)
  | .frnd g rm d a => some (fields 0x68 0 g d a (put rm.bits 0))
  | .fdiv g la rm d a b => some (fields 0x69 la g d a (put rm.bits 0 ||| put b 24))
  | .rcp g la rm d a => some (fields 0x6A la g d a (put rm.bits 0))
  | .rsq g la rm d a => some (fields 0x6B la g d a (put rm.bits 0))
  | .sqrt g la rm d a => some (fields 0x6C la g d a (put rm.bits 0))
  | .exp2 g la rm d a => some (fields 0x6D la g d a (put rm.bits 0))
  | .log2 g la rm d a => some (fields 0x6E la g d a (put rm.bits 0))
  | .sint g la rm d a => some (fields 0x6F la g d a (put rm.bits 0))
  | .cost g la rm d a => some (fields 0x70 la g d a (put rm.bits 0))
  | .hadd2 g rm bf d a b => some (fields 0x71 0 g d a (put rm.bits 0 ||| put (.ofBool bf) 2 ||| put b 24))
  | .hmul2 g rm bf d a b => some (fields 0x72 0 g d a (put rm.bits 0 ||| put (.ofBool bf) 2 ||| put b 24))
  | .hfma2 g rm bf d a b c => some (fields 0x73 0 g d a (put rm.bits 0 ||| put (.ofBool bf) 2 ||| put b 24 ||| put c 16))
  | .dp4 g ua ub sat d a b c => some (fields 0x74 0 g d a (put (.ofBool ua) 0 ||| put (.ofBool ub) 1 ||| put (.ofBool sat) 2 ||| put b 24 ||| put c 16))
  | .dp8 g ua ub sat d a b c => some (fields 0x75 0 g d a (put (.ofBool ua) 0 ||| put (.ofBool ub) 1 ||| put (.ofBool sat) 2 ||| put b 24 ||| put c 16))
  | .dpf8 g rm af8b bf8b d a b c => some (fields 0x76 0 g d a (put rm.bits 0 ||| put (.ofBool af8b) 2 ||| put (.ofBool bf8b) 3 ||| put b 24 ||| put c 16))
  | .cvt g rm src dst sat ef si di d a c => some (fields 0x77 0 g d a (put rm.bits 0 ||| put src.bits 2 ||| put dst.bits 6 ||| put (.ofBool sat) 10 ||| put (.ofBool ef) 11 ||| put si 24 ||| put di 28 ||| put c 16))
  | .qnt g fmt ef d a m e => some (fields 0x78 0 g d a (put fmt.bits 2 ||| put (.ofBool ef) 4 ||| put m 24 ||| put e 16))
  | .ld g la w acq sc d a imm => some (fields 0x90 la g d a (put w.bits 24 ||| put (.ofBool acq) 27 ||| put sc.bits 28 ||| put imm 0))
  | .st g w rel sc d a imm => some (fields 0x91 0 g d a (put w.bits 24 ||| put (.ofBool rel) 27 ||| put sc.bits 28 ||| put imm 0))
  | .ldMap g la w d a imm => some (fields 0x90 la g d a (put w.bits 24 ||| put imm 0 ||| 0x80000000#32))
  | .stMap g w d a imm => some (fields 0x91 0 g d a (put w.bits 24 ||| put imm 0 ||| 0x80000000#32))
  | .lds g la w d a imm => some (fields 0x92 la g d a (put w.bits 24 ||| put imm 0))
  | .sts g w d a imm => some (fields 0x93 0 g d a (put w.bits 24 ||| put imm 0))
  | .ldt g la d a imm => some (fields 0x94 la g d a (put imm 0 ||| 0x4000000#32))
  | .pref g a imm => some (fields 0x95 0 g 0 a (put imm 0 ||| 0x4000000#32))
  | .atom g la op w64 sc ord d a b => some (fields 0x96 la g d a (put op.bits 2 ||| put (.ofBool w64) 6 ||| put sc.bits 7 ||| put ord.bits 10 ||| put b 24))
  | .atoms g la op w64 d a b c => some (fields 0x97 la g d a (put op.bits 2 ||| put (.ofBool w64) 6 ||| put b 24 ||| put c 16))
  | .red g op w64 sc rel a b => some (fields 0x98 0 g 0 a (put op.bits 2 ||| put (.ofBool w64) 6 ||| put sc.bits 7 ||| put (.ofBool rel) 11 ||| put b 24))
  | .xadd g la anchor sc rt d a b c => some (fields 0x99 la g d a (put anchor 0 ||| put sc.bits 8 ||| put (.ofBool rt) 11 ||| put b 24 ||| put c 16))
  | .cas g la w64 sc ord d a b c => some (fields 0x9A la g d a (put (.ofBool w64) 6 ||| put sc.bits 7 ||| put ord.bits 10 ||| put b 24 ||| put c 16))
  | .fence g sc kind => some (fields 0x9B 0 g 0 0 (put sc.bits 7 ||| put kind.bits 10))
  | .seal g a b => some (fields 0x9C 0 g 0 a (put b 24))
  | .unseal g d a b => some (fields 0x9D 0 g d a (put b 24))
  | .spalloc g d a => some (fields 0x9E 0 g d a 0)
  | .spfree g a => some (fields 0x9F 0 g 0 a 0)
  | .sectQuery g d a => some (fields 0xA0 0 g d a 0)
  | .sectClr g a => some (fields 0xA0 0 g 0 a 0x1#32)
  | .sectSet g a => some (fields 0xA0 0 g 0 a 0x2#32)
  | .tlbinvPage g a => some (fields 0xA1 0 g 0 a 0)
  | .tlbinvRange g a b => some (fields 0xA1 0 g 0 a (put b 24 ||| 0x1#32))
  | .tlbinvAll g => some (fields 0xA1 0 g 0 0 0x2#32)
  | .dlog g d a => some (fields 0xA2 0 g d a 0)
  | .shfl g mode w64 d a b m => some (fields 0xB0 0 g d a (put mode.bits 0 ||| put (.ofBool w64) 2 ||| put b 24 ||| put m 16))
  | .vote g mode d pa m => some (fields 0xB1 0 g d (pa.setWidth 8) (put mode.bits 0 ||| put m 16))
  | .scan g rm op excl d a m => some (fields 0xB2 0 g d a (put rm.bits 0 ||| put op.bits 2 ||| put (.ofBool excl) 6 ||| put m 16))
  | .redx g rm op d a m => some (fields 0xB3 0 g d a (put rm.bits 0 ||| put op.bits 2 ||| put m 16))
  | .matchx g w64 d a m => some (fields 0xB4 0 g d a (put (.ofBool w64) 0 ||| put m 16))
  | .elect g pd m => some (fields 0xB5 0 g (pd.setWidth 8) 0 (put m 16))
  | .cbarArm g c a b => some (fields 0xB6 0 g 0 a (put c 16 ||| put b 24 ||| 0x1#32))
  | .cbar g sc c => some (fields 0xB6 0 g 0 0 (put sc.bits 7 ||| put c 16))
  | .rand g d a => some (fields 0xB8 0 g d a 0)
  | .randf g d a => some (fields 0xB9 0 g d a 0)
  | .acpL g slack tag v vreg d a b => some (fields 0xC0 0 g d a (put slack 12 ||| put tag 1 ||| put v 4 ||| put (.ofBool vreg) 10 ||| put b 24))
  | .acpS g slack tag v vreg d a b => some (fields 0xC0 0 g d a (put slack 12 ||| put tag 1 ||| put v 4 ||| put (.ofBool vreg) 10 ||| put b 24 ||| 0x1#32))
  | .await g tag => some (fields 0xC1 0 g 0 0 (put tag 0))
  | .kcnt g d tag => some (fields 0xC2 0 g d 0 (put tag 0))
  | .bcp g slack dir nosig mapd d a b c => some (fields 0xC3 0 g d a (put slack 12 ||| put dir.bits 0 ||| put (.ofBool nosig) 2 ||| put (.ofBool mapd) 3 ||| put b 24 ||| put c 16))
  | .mcast g slack len nosig d a b c => some (fields 0xC4 0 g d a (put slack 12 ||| put len 0 ||| put (.ofBool nosig) 11 ||| put b 24 ||| put c 16))
  | .kvg g slack v stale tr spread d a m p => some (fields 0xC5 0 g d a (put slack 12 ||| put (.ofBool v) 0 ||| put (.ofBool stale) 1 ||| put (.ofBool tr) 2 ||| put (.ofBool spread) 3 ||| put m 24 ||| put p 16))
  | .kva g slack n nosig a b c => some (fields 0xC6 0 g 0 a (put slack 12 ||| put n 0 ||| put (.ofBool nosig) 5 ||| put b 24 ||| put c 16))
  | .drain g slack mode nosig clr t a b c => some (fields 0xC7 0 g (t.setWidth 8) a (put slack 12 ||| put mode.bits 0 ||| put (.ofBool nosig) 2 ||| put (.ofBool clr) 3 ||| put b 24 ||| put c 16))
  | .job g a => some (fields 0xC8 0 g 0 a 0)
  | .sigdec g a => some (fields 0xC9 0 g 0 a 0)
  | .sigadd g a b => some (fields 0xCA 0 g 0 a (put b 24))
  | .sigwait g cond a b => some (fields 0xCB 0 g 0 a (put cond.bits 0 ||| put b 24))
  | .sigread g la d a => some (fields 0xCC la g d a 0)
  | .conv g c team => some (fields 0xD0 0 g 0 0 (put c 16 ||| put team 0))
  | .mma g ty af8b bf8b ua ub s sr t a b c => some (fields 0xD1 0 g (t.setWidth 8) a (put ty.bits 0 ||| put (.ofBool af8b) 3 ||| put (.ofBool bf8b) 4 ||| put (.ofBool ua) 5 ||| put (.ofBool ub) 6 ||| put (.ofBool s) 7 ||| put sr 8 ||| put b 24 ||| put c 16))
  | .mmas g ty af8b bf8b ua ub s sr t a b c => some (fields 0xD2 0 g (t.setWidth 8) a (put ty.bits 0 ||| put (.ofBool af8b) 3 ||| put (.ofBool bf8b) 4 ||| put (.ofBool ua) 5 ||| put (.ofBool ub) 6 ||| put (.ofBool s) 7 ||| put sr 8 ||| put b 24 ||| put c 16))
  | .aclr g i t => some (fields 0xD3 0 g (t.setWidth 8) 0 (put (.ofBool i) 0))
  | .anch g t anchor => some (fields 0xD4 0 g (t.setWidth 8) 0 (put anchor 0))
  | .aget g la rm i32 w4 t a b => some (fields 0xD5 la g (t.setWidth 8) a (put rm.bits 0 ||| put (.ofBool i32) 2 ||| put (.ofBool w4) 3 ||| put b 24))
  | .aput g t a b => some (fields 0xD6 0 g (t.setWidth 8) a (put b 24))
  | .aflag g an t a b => some (fields 0xD7 0 g (t.setWidth 8) a (put (.ofBool an) 0 ||| put b 24))
  | .segnew g d a b => some (fields 0xE0 0 g d a (put b 24))
  | .segnewDel g d a => some (fields 0xE0 0 g d a 0x1#32)
  | .segseal g a => some (fields 0xE1 0 g 0 a 0)
  | .segsum g nosig a c => some (fields 0xE2 0 g 0 a (put (.ofBool nosig) 0 ||| put c 16))
  | .link g follow d a b => some (fields 0xE3 0 g d a (put (.ofBool follow) 0 ||| put b 24))
  | .unlink g d a b => some (fields 0xE4 0 g d a (put b 24))
  | .kvr g a b c => some (fields 0xE5 0 g 0 a (put b 24 ||| put c 16))
  | .rstat g sl d a b => some (fields 0xE6 0 g d a (put sl.bits 0 ||| put b 24))
  | .rotq g bf d a b c => some (fields 0xE7 0 g d a (put (.ofBool bf) 2 ||| put b 24 ||| put c 16))
  | .anc g pd a b c => some (fields 0xE8 0 g (pd.setWidth 8) a (put b 24 ||| put c 16))
  | .psel g d a b => some (fields 0xE9 0 g d a (put b 24))
  | .topk g pairs spin d a b => some (fields 0xEA 0 g d a (put (.ofBool pairs) 0 ||| put (.ofBool spin) 1 ||| put b 24))
  | .topp g draw spin d a b => some (fields 0xEB 0 g d a (put (.ofBool draw) 0 ||| put (.ofBool spin) 1 ||| put b 24))
  | .tmrg g d a b => some (fields 0xEC 0 g d a (put b 24))
  | .tunm g a b c => some (fields 0xED 0 g 0 a (put b 24 ||| put c 16))
  | .tmapInfo g d a => some (fields 0xEE 0 g d a 0)
  | .tmapFree g a => some (fields 0xEE 0 g 0 a 0x1#32)
  | .tmapParent g d a => some (fields 0xEE 0 g d a 0x2#32)
  | .szb g rm d a => some (fields 0xEF 0 g d a (put rm.bits 0))
  | .tpop g nb any d q c => some (fields 0xF0 0 g d 0 (put (.ofBool nb) 0 ||| put (.ofBool any) 1 ||| put q 24 ||| put c 16))
  | .tspawn g a q => some (fields 0xF1 0 g 0 a (put q 24))
  | .tdone g c => some (fields 0xF2 0 g 0 0 (put c 16))
  | .tsplit g => some (fields 0xF3 0 g 0 0 0)
  | .tabort g => some (fields 0xF4 0 g 0 0 0)
  | .tabortRq g => some (fields 0xF4 0 g 0 0 0x1#32)
  | .tstat g sl d q => some (fields 0xF5 0 g d 0 (put sl.bits 0 ||| put q 24))
  | .mfx g w64 sreg d => some (fields 0xF8 0 g d 0 (put (.ofBool w64) 12 ||| put sreg 0))
  | .mtx g w64 sreg a => some (fields 0xF9 0 g 0 a (put (.ofBool w64) 12 ||| put sreg 0))
  | .quiesceStop g => some (fields 0xFA 0 g 0 0 0)
  | .quiesceSave g d a b => some (fields 0xFA 0 g d a (put b 24 ||| 0x1#32))
  | .resumeRun g => some (fields 0xFB 0 g 0 0 0)
  | .resumeLoad g a => some (fields 0xFB 0 g 0 a 0x1#32)
  | .resumeThreads g d a c => some (fields 0xFB 0 g d a (put c 16 ||| 0x2#32))
  | .evict g d a b c => some (fields 0xFC 0 g d a (put b 24 ||| put c 16))
  | .halt g code => some (fields 0xFD 0 g 0 0 (put code 0))
  | .smcallSensor g a c => some (fields 0xFE 0 g 0 a (put c 16))
  | .smcallLogput g a c => some (fields 0xFE 0 g 0 a (put c 16 ||| 0x1#32))
  | .smcallLogget g a c => some (fields 0xFE 0 g 0 a (put c 16 ||| 0x2#32))
  | .smcallQuote g a c => some (fields 0xFE 0 g 0 a (put c 16 ||| 0x3#32))
  | .smcallPowercap g a c => some (fields 0xFE 0 g 0 a (put c 16 ||| 0x4#32))
  | .furcfgWrite g a => some (fields 0xF9 0 g 0 a 0x100#32)
  | .uniformMissRead g d => some (fields 0xF8 0 g d 0 0x101#32)
  | .haltrecRead g d => some (fields 0xF8 0 g d 0 0x1201#32)
  | .trareaWrite g count a => some (fields 0xF9 0 g 0 a (if count then 0x207 else 0x1206))
  | .fqcfgWrite g a => some (fields 0xF9 0 g 0 a 0x1208#32)
  | .poolfree g a => some (fields 0xF9 0 g 0 a 0x20A#32)
  | .poolstatRead g d => some (fields 0xF8 0 g d 0 0x120B#32)
  | .qcfgrWrite g a => some (fields 0xF9 0 g 0 a 0x120D#32)
  | .qspillrWrite g a => some (fields 0xF9 0 g 0 a 0x120E#32)
  | .qstatWrite g a => some (fields 0xF9 0 g 0 a 0x20F#32)
  | .softError _ _ _ _ => none
  | .hostAbort _ _ => none
  | .peerFail _ => none
  | .linkDown _ => none
  | .peerRequest _ _ _ _ _ _ _ => none
  | .hostWrite _ _ _ => none
  | .hostPush _ _ _ => none
  | .frespResolve _ _ => none
  | .frespDecline _ _ => none
  | .registerWrite _ _ => none
  | .hgcfgWrite _ => none
  | .poolcfgWrite _ => none
  | .veccfgWrite _ _ => none
  | .vfenWrite _ => none
  | .pdescWrite _ _ _ => none
  | .checkpoint => none
  | .restore => none
  | .vfcmdStop _ => none
  | .vfcmdRun _ => none
  | .vfcmdSave _ => none
  | .vfcmdLoad _ => none
  | .dlogdataRead => none
  | .firmwareUpdate _ _ => none
  | .spdmRequest _ _ => none
  | .coldReset _ => none
  | .warmReset _ => none
  | .coolantOutOfRange => none
  | .powerLimitThrottle _ => none
  | .crewLaunch _ _ _ _ => none
  | .smcReply => none
  | .bundleForm => none
  | .ageLimitExpiry => none
  | .regDeadlock => none
  | .parkEnd => none
  | .headgateDispatch => none
  | .spillwayRefill => none
  | .tallowExpiry => none
  | .readSetHoldRelease => none
  | .taskCommit => none
  | .commitRecord => none
  | .taskComplete => none
  | .crewEnd => none
  | .sigwaitReread => none
  | .sluiceBeat => none
  | .slackDecay => none
  | .engineSectorTake => none
  | .acpComplete => none
  | .bcpComplete => none
  | .mcastComplete => none
  | .kvgRowFill => none
  | .kvgComplete => none
  | .kvaComplete => none
  | .drainRow => none
  | .drainComplete => none
  | .segsumComplete => none
  | .kvrPerform => none
  | .siphonDecode => none
  | .jobComplete => none
  | .pselComplete => none
  | .selectComplete => none
  | .tmrgComplete => none
  | .tunmComplete => none
  | .matrixOpStart => none
  | .matrixOpComplete => none
  | .quotaRecheck => none
  | .faultReport => none
  | .agentStop => none
  | .partitionHalted => none
  | .partitionQuiesced => none
  | .quiesceTimeout => none
  | .engineTimeout => none
  | .watchdog => none
  | .longLatencyComplete => none
  | .storeQueueDrain => none
  | .storePropagation => none

/-- The word of an instruction, written from the encoding tables of the spec; none for an event. -/
def encode (i : Instr) : Option DWord := i.fields?.map Fields.word

/-- The instruction that the fields name when every unused field is ignored; none for an unassigned opcode and for a
reserved code (R154 and each instruction's entry). -/
def Fields.instr? (f : Fields) : Option Instr :=
  match f.opc.toNat with
  | 0x00 => some (.nop f.g)
  | 0x01 => (Hint.ofBits (f.at 0 2)).map fun hint => .bra f.g hint (f.at 2 30)
  | 0x02 => some (.jmp f.g (f.at 2 30))
  | 0x03 => some (.jmpi f.g f.a)
  | 0x04 => some (.call f.g f.d (f.at 2 30))
  | 0x05 => some (.calli f.g f.d f.a)
  | 0x06 => some (.ret f.g f.a)
  | 0x07 => some (.exit f.g)
  | 0x08 => some (.enter f.g (f.at 0 6))
  | 0x09 => some (.grow f.g (f.at 0 6))
  | 0x0A => some (.shrink f.g (f.at 0 6))
  | 0x0B => some (.join f.g f.a)
  | 0x0C => some (.yield f.g)
  | 0x0D => some (.bkpt f.g (f.at 0 16))
  | 0x0E => some (.trap f.g (f.at 0 16))
  | 0x0F => some (.sys f.g (f.at 0 16))
  | 0x10 => match (f.at 0 1).toNat with
      | 0 => some (.rett f.g)
      | 1 => some (.rettTgt f.g f.a)
      | _ => none
  | 0x20 => some (.iadd f.g f.d f.a f.b)
  | 0x21 => some (.isub f.g f.d f.a f.b)
  | 0x22 => some (.imul f.g f.d f.a f.b)
  | 0x23 => some (.imin f.g (f.flag 0) f.d f.a f.b)
  | 0x24 => some (.imax f.g (f.flag 0) f.d f.a f.b)
  | 0x25 => some (.and f.g f.d f.a f.b)
  | 0x26 => some (.or f.g f.d f.a f.b)
  | 0x27 => some (.xor f.g f.d f.a f.b)
  | 0x28 => some (.andn f.g f.d f.a f.b)
  | 0x29 => some (.shl f.g f.d f.a f.b)
  | 0x2A => some (.shr f.g f.d f.a f.b)
  | 0x2B => some (.sar f.g f.d f.a f.b)
  | 0x2C => some (.rot f.g f.d f.a f.b)
  | 0x2D => some (.iadd64 f.g f.d f.a f.b)
  | 0x30 => some (.iaddI f.g f.d f.a f.lo)
  | 0x31 => some (.isubI f.g f.d f.a f.lo)
  | 0x32 => some (.imulI f.g f.d f.a f.lo)
  | 0x33 => some (.iminI f.g f.d f.a f.lo)
  | 0x34 => some (.imaxI f.g f.d f.a f.lo)
  | 0x35 => some (.andI f.g f.d f.a f.lo)
  | 0x36 => some (.orI f.g f.d f.a f.lo)
  | 0x37 => some (.xorI f.g f.d f.a f.lo)
  | 0x38 => some (.andnI f.g f.d f.a f.lo)
  | 0x39 => some (.shlI f.g f.d f.a f.lo)
  | 0x3A => some (.shrI f.g f.d f.a f.lo)
  | 0x3B => some (.sarI f.g f.d f.a f.lo)
  | 0x3C => some (.rotI f.g f.d f.a f.lo)
  | 0x3D => some (.iadd64I f.g f.d f.a f.lo)
  | 0x40 => some (.iaddc f.g (f.flag 0) f.d f.a f.b (f.at 16 3))
  | 0x41 => some (.imulh f.g (f.flag 0) f.d f.a f.b)
  | 0x42 => some (.imad f.g f.d f.a f.b f.c)
  | 0x43 => some (.iabs f.g f.d f.a)
  | 0x44 => some (.ineg f.g f.d f.a)
  | 0x45 => some (.not f.g f.d f.a)
  | 0x46 => some (.shf f.g (f.flag 0) f.d f.a f.b f.c)
  | 0x47 => some (.bfx f.g (f.flag 0) f.d f.a f.b)
  | 0x48 => some (.bfi f.g f.d f.a f.b f.c)
  | 0x49 => some (.popc f.g f.d f.a)
  | 0x4A => some (.clz f.g f.d f.a)
  | 0x4B => some (.ctz f.g f.d f.a)
  | 0x4C => some (.brev f.g f.d f.a)
  | 0x4D => some (.prmt f.g f.d f.a f.b f.c)
  | 0x4E => some (.sel f.g f.d f.a f.b (f.at 16 3))
  | 0x4F => (Cmp.ofBits (f.at 0 3)).bind fun cmp => (Comb.ofBits (f.at 4 2)).map fun comb => .isetp f.g cmp (f.flag 3) comb (f.d.setWidth 3) f.a f.b (f.at 16 3)
  | 0x50 => some (.plop f.g (f.d.setWidth 3) (f.a.setWidth 3) (f.at 24 3) (f.at 16 3) (f.at 0 8))
  | 0x51 => some (.mov f.g f.d f.a)
  | 0x52 => some (.movi f.g f.d f.lo)
  | 0x53 => (SpecialValue.ofBits (f.at 0 8)).map fun sv => .movsv f.g f.d sv
  | 0x54 => some (.lea f.g (f.at 0 3) (f.flag 3) f.d f.a f.b)
  | 0x55 => some (.imul64 f.g (f.flag 0) f.d f.a f.b)
  | 0x60 => (RMode.ofBits (f.at 0 2)).map fun rm => .fadd f.g rm f.d f.a f.b
  | 0x61 => (RMode.ofBits (f.at 0 2)).map fun rm => .fsub f.g rm f.d f.a f.b
  | 0x62 => (RMode.ofBits (f.at 0 2)).map fun rm => .fmul f.g rm f.d f.a f.b
  | 0x63 => (RMode.ofBits (f.at 0 2)).map fun rm => .ffma f.g rm f.d f.a f.b f.c
  | 0x64 => some (.fmin f.g f.d f.a f.b)
  | 0x65 => some (.fmax f.g f.d f.a f.b)
  | 0x66 => (Cmp.ofBits (f.at 0 3)).bind fun cmp => (Comb.ofBits (f.at 4 2)).map fun comb => .fsetp f.g cmp comb (f.d.setWidth 3) f.a f.b (f.at 16 3)
  | 0x67 => some (.fclass f.g f.d f.a)
  | 0x68 => (RMode.ofBits (f.at 0 2)).map fun rm => .frnd f.g rm f.d f.a
  | 0x69 => (RMode.ofBits (f.at 0 2)).map fun rm => .fdiv f.g f.la rm f.d f.a f.b
  | 0x6A => (RMode.ofBits (f.at 0 2)).map fun rm => .rcp f.g f.la rm f.d f.a
  | 0x6B => (RMode.ofBits (f.at 0 2)).map fun rm => .rsq f.g f.la rm f.d f.a
  | 0x6C => (RMode.ofBits (f.at 0 2)).map fun rm => .sqrt f.g f.la rm f.d f.a
  | 0x6D => (RMode.ofBits (f.at 0 2)).map fun rm => .exp2 f.g f.la rm f.d f.a
  | 0x6E => (RMode.ofBits (f.at 0 2)).map fun rm => .log2 f.g f.la rm f.d f.a
  | 0x6F => (RMode.ofBits (f.at 0 2)).map fun rm => .sint f.g f.la rm f.d f.a
  | 0x70 => (RMode.ofBits (f.at 0 2)).map fun rm => .cost f.g f.la rm f.d f.a
  | 0x71 => (RMode.ofBits (f.at 0 2)).map fun rm => .hadd2 f.g rm (f.flag 2) f.d f.a f.b
  | 0x72 => (RMode.ofBits (f.at 0 2)).map fun rm => .hmul2 f.g rm (f.flag 2) f.d f.a f.b
  | 0x73 => (RMode.ofBits (f.at 0 2)).map fun rm => .hfma2 f.g rm (f.flag 2) f.d f.a f.b f.c
  | 0x74 => some (.dp4 f.g (f.flag 0) (f.flag 1) (f.flag 2) f.d f.a f.b f.c)
  | 0x75 => some (.dp8 f.g (f.flag 0) (f.flag 1) (f.flag 2) f.d f.a f.b f.c)
  | 0x76 => (RMode.ofBits (f.at 0 2)).map fun rm => .dpf8 f.g rm (f.flag 2) (f.flag 3) f.d f.a f.b f.c
  | 0x77 => (RMode.ofBits (f.at 0 2)).bind fun rm => (NumFmt.ofBits (f.at 2 4)).bind fun src => (NumFmt.ofBits (f.at 6 4)).map fun dst => .cvt f.g rm src dst (f.flag 10) (f.flag 11) (f.at 24 3) (f.at 28 3) f.d f.a f.c
  | 0x78 => (QntFmt.ofBits (f.at 2 2)).map fun fmt => .qnt f.g fmt (f.flag 4) f.d f.a f.b f.c
  | 0x80 => some (.faddI f.g f.d f.a f.lo)
  | 0x81 => some (.fsubI f.g f.d f.a f.lo)
  | 0x82 => some (.fmulI f.g f.d f.a f.lo)
  | 0x83 => some (.fminI f.g f.d f.a f.lo)
  | 0x84 => some (.fmaxI f.g f.d f.a f.lo)
  | 0x90 => if f.flag 31 then (Width.ofBits (f.at 24 3)).map fun w => .ldMap f.g f.la w f.d f.a (f.at 0 24)
      else (Width.ofBits (f.at 24 3)).bind fun w => (Scope.ofBits (f.at 28 3)).map fun sc => .ld f.g f.la w (f.flag 27) sc f.d f.a (f.at 0 24)
  | 0x91 => if f.flag 31 then (Width.ofBits (f.at 24 3)).map fun w => .stMap f.g w f.d f.a (f.at 0 24)
      else (Width.ofBits (f.at 24 3)).bind fun w => (Scope.ofBits (f.at 28 3)).map fun sc => .st f.g w (f.flag 27) sc f.d f.a (f.at 0 24)
  | 0x92 => (Width.ofBits (f.at 24 3)).map fun w => .lds f.g f.la w f.d f.a (f.at 0 24)
  | 0x93 => (Width.ofBits (f.at 24 3)).map fun w => .sts f.g w f.d f.a (f.at 0 24)
  | 0x94 => some (.ldt f.g f.la f.d f.a (f.at 0 24))
  | 0x95 => some (.pref f.g f.a (f.at 0 24))
  | 0x96 => (AtomOp.ofBits (f.at 2 4)).bind fun op => (Scope.ofBits (f.at 7 3)).bind fun sc => (AtomOrd.ofBits (f.at 10 2)).map fun ord => .atom f.g f.la op (f.flag 6) sc ord f.d f.a f.b
  | 0x97 => (AtomOp.ofBits (f.at 2 4)).map fun op => .atoms f.g f.la op (f.flag 6) f.d f.a f.b f.c
  | 0x98 => (AtomOp.ofBits (f.at 2 4)).bind fun op => (Scope.ofBits (f.at 7 3)).map fun sc => .red f.g op (f.flag 6) sc (f.flag 11) f.a f.b
  | 0x99 => (Scope.ofBits (f.at 8 3)).map fun sc => .xadd f.g f.la (f.at 0 8) sc (f.flag 11) f.d f.a f.b f.c
  | 0x9A => (Scope.ofBits (f.at 7 3)).bind fun sc => (AtomOrd.ofBits (f.at 10 2)).map fun ord => .cas f.g f.la (f.flag 6) sc ord f.d f.a f.b f.c
  | 0x9B => (Scope.ofBits (f.at 7 3)).bind fun sc => (FenceKind.ofBits (f.at 10 2)).map fun kind => .fence f.g sc kind
  | 0x9C => some (.seal f.g f.a f.b)
  | 0x9D => some (.unseal f.g f.d f.a f.b)
  | 0x9E => some (.spalloc f.g f.d f.a)
  | 0x9F => some (.spfree f.g f.a)
  | 0xA0 => match (f.at 0 2).toNat with
      | 0 => some (.sectQuery f.g f.d f.a)
      | 1 => some (.sectClr f.g f.a)
      | 2 => some (.sectSet f.g f.a)
      | _ => none
  | 0xA1 => match (f.at 0 2).toNat with
      | 0 => some (.tlbinvPage f.g f.a)
      | 1 => some (.tlbinvRange f.g f.a f.b)
      | 2 => some (.tlbinvAll f.g)
      | _ => none
  | 0xA2 => some (.dlog f.g f.d f.a)
  | 0xB0 => (ShflMode.ofBits (f.at 0 2)).map fun mode => .shfl f.g mode (f.flag 2) f.d f.a f.b f.c
  | 0xB1 => (VoteMode.ofBits (f.at 0 2)).map fun mode => .vote f.g mode f.d (f.a.setWidth 3) f.c
  | 0xB2 => (RMode.ofBits (f.at 0 2)).bind fun rm => (LaneOp.ofBits (f.at 2 4)).map fun op => .scan f.g rm op (f.flag 6) f.d f.a f.c
  | 0xB3 => (RMode.ofBits (f.at 0 2)).bind fun rm => (LaneOp.ofBits (f.at 2 4)).map fun op => .redx f.g rm op f.d f.a f.c
  | 0xB4 => some (.matchx f.g (f.flag 0) f.d f.a f.c)
  | 0xB5 => some (.elect f.g (f.d.setWidth 3) f.c)
  | 0xB6 => match (f.at 0 1).toNat with
      | 1 => some (.cbarArm f.g (f.at 16 4) f.a f.b)
      | 0 => (Scope.ofBits (f.at 7 3)).map fun sc => .cbar f.g sc (f.at 16 4)
      | _ => none
  | 0xB8 => some (.rand f.g f.d f.a)
  | 0xB9 => some (.randf f.g f.d f.a)
  | 0xC0 => match (f.at 0 1).toNat with
      | 0 => some (.acpL f.g (f.at 12 4) (f.at 1 3) (f.at 4 6) (f.flag 10) f.d f.a f.b)
      | 1 => some (.acpS f.g (f.at 12 4) (f.at 1 3) (f.at 4 6) (f.flag 10) f.d f.a f.b)
      | _ => none
  | 0xC1 => some (.await f.g (f.at 0 3))
  | 0xC2 => some (.kcnt f.g f.d (f.at 0 3))
  | 0xC3 => (BcpDir.ofBits (f.at 0 2)).map fun dir => .bcp f.g (f.at 12 4) dir (f.flag 2) (f.flag 3) f.d f.a f.b f.c
  | 0xC4 => some (.mcast f.g (f.at 12 4) (f.at 0 11) (f.flag 11) f.d f.a f.b f.c)
  | 0xC5 => some (.kvg f.g (f.at 12 4) (f.flag 0) (f.flag 1) (f.flag 2) (f.flag 3) f.d f.a f.b f.c)
  | 0xC6 => some (.kva f.g (f.at 12 4) (f.at 0 5) (f.flag 5) f.a f.b f.c)
  | 0xC7 => (DrainMode.ofBits (f.at 0 2)).map fun mode => .drain f.g (f.at 12 4) mode (f.flag 2) (f.flag 3) (f.d.setWidth 4) f.a f.b f.c
  | 0xC8 => some (.job f.g f.a)
  | 0xC9 => some (.sigdec f.g f.a)
  | 0xCA => some (.sigadd f.g f.a f.b)
  | 0xCB => (SigCond.ofBits (f.at 0 2)).map fun cond => .sigwait f.g cond f.a f.b
  | 0xCC => some (.sigread f.g f.la f.d f.a)
  | 0xD0 => some (.conv f.g (f.at 16 4) (f.at 0 4))
  | 0xD1 => (MmaType.ofBits (f.at 0 3)).map fun ty => .mma f.g ty (f.flag 3) (f.flag 4) (f.flag 5) (f.flag 6) (f.flag 7) (f.at 8 8) (f.d.setWidth 4) f.a f.b (f.at 16 4)
  | 0xD2 => (MmaType.ofBits (f.at 0 3)).map fun ty => .mmas f.g ty (f.flag 3) (f.flag 4) (f.flag 5) (f.flag 6) (f.flag 7) (f.at 8 8) (f.d.setWidth 4) f.a f.b (f.at 16 4)
  | 0xD3 => some (.aclr f.g (f.flag 0) (f.d.setWidth 4))
  | 0xD4 => some (.anch f.g (f.d.setWidth 4) (f.at 0 8))
  | 0xD5 => (RMode.ofBits (f.at 0 2)).map fun rm => .aget f.g f.la rm (f.flag 2) (f.flag 3) (f.d.setWidth 4) f.a f.b
  | 0xD6 => some (.aput f.g (f.d.setWidth 4) f.a f.b)
  | 0xD7 => some (.aflag f.g (f.flag 0) (f.d.setWidth 4) f.a f.b)
  | 0xE0 => match (f.at 0 1).toNat with
      | 0 => some (.segnew f.g f.d f.a f.b)
      | 1 => some (.segnewDel f.g f.d f.a)
      | _ => none
  | 0xE1 => some (.segseal f.g f.a)
  | 0xE2 => some (.segsum f.g (f.flag 0) f.a f.c)
  | 0xE3 => some (.link f.g (f.flag 0) f.d f.a f.b)
  | 0xE4 => some (.unlink f.g f.d f.a f.b)
  | 0xE5 => some (.kvr f.g f.a f.b f.c)
  | 0xE6 => (RstatSel.ofBits (f.at 0 3)).map fun sl => .rstat f.g sl f.d f.a f.b
  | 0xE7 => some (.rotq f.g (f.flag 2) f.d f.a f.b f.c)
  | 0xE8 => some (.anc f.g (f.d.setWidth 3) f.a f.b f.c)
  | 0xE9 => some (.psel f.g f.d f.a f.b)
  | 0xEA => some (.topk f.g (f.flag 0) (f.flag 1) f.d f.a f.b)
  | 0xEB => some (.topp f.g (f.flag 0) (f.flag 1) f.d f.a f.b)
  | 0xEC => some (.tmrg f.g f.d f.a f.b)
  | 0xED => some (.tunm f.g f.a f.b f.c)
  | 0xEE => match (f.at 0 2).toNat with
      | 0 => some (.tmapInfo f.g f.d f.a)
      | 1 => some (.tmapFree f.g f.a)
      | 2 => some (.tmapParent f.g f.d f.a)
      | _ => none
  | 0xEF => (RMode.ofBits (f.at 0 2)).map fun rm => .szb f.g rm f.d f.a
  | 0xF0 => some (.tpop f.g (f.flag 0) (f.flag 1) f.d f.b (f.at 16 4))
  | 0xF1 => some (.tspawn f.g f.a f.b)
  | 0xF2 => some (.tdone f.g (f.at 16 4))
  | 0xF3 => some (.tsplit f.g)
  | 0xF4 => match (f.at 0 1).toNat with
      | 0 => some (.tabort f.g)
      | 1 => some (.tabortRq f.g)
      | _ => none
  | 0xF5 => (TstatSel.ofBits (f.at 0 3)).map fun sl => .tstat f.g sl f.d f.b
  | 0xF8 => match (f.at 0 16).toNat with
      | 0x101 => some (.uniformMissRead f.g f.d)
      | 0x1201 => some (.haltrecRead f.g f.d)
      | 0x120B => some (.poolstatRead f.g f.d)
      | _ => some (.mfx f.g (f.flag 12) (f.at 0 12) f.d)
  | 0xF9 => match (f.at 0 16).toNat with
      | 0x100 => some (.furcfgWrite f.g f.a)
      | 0x1206 => some (.trareaWrite f.g false f.a)
      | 0x207 => some (.trareaWrite f.g true f.a)
      | 0x1208 => some (.fqcfgWrite f.g f.a)
      | 0x20A => some (.poolfree f.g f.a)
      | 0x120D => some (.qcfgrWrite f.g f.a)
      | 0x120E => some (.qspillrWrite f.g f.a)
      | 0x20F => some (.qstatWrite f.g f.a)
      | _ => some (.mtx f.g (f.flag 12) (f.at 0 12) f.a)
  | 0xFA => match (f.at 0 2).toNat with
      | 0 => some (.quiesceStop f.g)
      | 1 => some (.quiesceSave f.g f.d f.a f.b)
      | _ => none
  | 0xFB => match (f.at 0 2).toNat with
      | 0 => some (.resumeRun f.g)
      | 1 => some (.resumeLoad f.g f.a)
      | 2 => some (.resumeThreads f.g f.d f.a f.c)
      | _ => none
  | 0xFC => some (.evict f.g f.d f.a f.b f.c)
  | 0xFD => some (.halt f.g (f.at 0 16))
  | 0xFE => match (f.at 0 8).toNat with
      | 0 => some (.smcallSensor f.g f.a f.c)
      | 1 => some (.smcallLogput f.g f.a f.c)
      | 2 => some (.smcallLogget f.g f.a f.c)
      | 3 => some (.smcallQuote f.g f.a f.c)
      | 4 => some (.smcallPowercap f.g f.a f.c)
      | _ => none
  | _ => none

/-- The opcode is assigned in the opcode map (R154). -/
def opcAssigned (opc : BitVec 8) : Bool :=
  let n := opc.toNat
  n ≤ 0x10 || (0x20 ≤ n && n ≤ 0x2D) || (0x30 ≤ n && n ≤ 0x3D) || (0x40 ≤ n && n ≤ 0x55) ||
  (0x60 ≤ n && n ≤ 0x78) || (0x80 ≤ n && n ≤ 0x84) || (0x90 ≤ n && n ≤ 0xA2) || (0xB0 ≤ n && n ≤ 0xB6) ||
  n == 0xB8 || n == 0xB9 || (0xC0 ≤ n && n ≤ 0xCC) || (0xD0 ≤ n && n ≤ 0xD7) || (0xE0 ≤ n && n ≤ 0xF5) ||
  (0xF8 ≤ n && n ≤ 0xFE)

/-- The word is a privileged instruction or a privileged form (R156); it is decided on the raw word because PRIVILEGED
comes before ILLEGAL_MODIFIER (R149). -/
def privWord (w : DWord) : Bool :=
  let n := (w.extractLsb' 56 8).toNat
  n == 0x10 || n == 0xA1 || n == 0xA2 || (0xFA ≤ n && n ≤ 0xFE) ||
  ((n == 0x90 || n == 0x91) && w.getLsbD 31) ||
  ((n == 0xF8 || n == 0xF9) && 1 < (w.extractLsb' 0 12).toNat)

/-- The opcode is not available on a steward core (R155). -/
def stewardRefuses (opc : BitVec 8) : Bool :=
  let n := opc.toNat
  (0xD0 ≤ n && n ≤ 0xD7) || n == 0xC7 || n == 0xE9 || n == 0xEC || n == 0xED || n == 0xEE || n == 0xEF

/-- What the decoder answers for a word: an instruction, or a refusal by name. -/
inductive Decoded where
  /-- a well-formed instruction -/
  | instr (i : Instr)
  /-- the opcode is unassigned, or 0xFF (R153) -/
  | illegalOpcode
  /-- a reserved value, a nonzero unused field, a bad LA or a field value that R146 refuses (R153) -/
  | illegalModifier
  deriving DecidableEq, Repr

/-- Decode one instruction word: total on every word, and it answers only well-formed instructions. -/
def decode (w : DWord) : Decoded :=
  let f := Fields.ofWord w
  if !opcAssigned f.opc then .illegalOpcode
  else match f.instr? with
    | some i => if i.wellFormed && i.fields? == some f then .instr i else .illegalModifier
    | none => .illegalModifier

/-- The word is a clause header (R139). -/
def isHeader (w : DWord) : Bool := w.extractLsb' 56 8 == 0xFF#8

/-- A clause header's fields (R139). -/
structure Header where
  count  : BitVec 4
  cls    : BitVec 3
  reform : Bool
  yield  : Bool
  waitk  : BitVec 8
  waita  : Bool
  waitm  : Bool
  rsvd   : BitVec 37
  deriving DecidableEq, Repr

/-- The fields of a header word (R139). -/
def Header.ofWord (w : DWord) : Header :=
  { count := w.extractLsb' 52 4, cls := w.extractLsb' 49 3, reform := w.getLsbD 48, yield := w.getLsbD 47
    waitk := w.extractLsb' 39 8, waita := w.getLsbD 38, waitm := w.getLsbD 37, rsvd := w.extractLsb' 0 37 }

/-- The address of the header that follows a clause with its header at `h` (R139). -/
def Header.next (hd : Header) (h : DWord) : DWord := h + BitVec.ofNat 64 (8 * (hd.count.toNat + 2))

/-- The ALU ranges of R140. -/
def inAlu (n : Nat) : Bool := (0x20 ≤ n && n ≤ 0x8F) || (0xB0 ≤ n && n ≤ 0xBF)

/-- The class admits the opcode (R140): the control range always, and the ranges of its row. -/
def classAdmits (cls : BitVec 3) (opc : BitVec 8) : Bool :=
  let n := opc.toNat
  n ≤ 0x1F ||
  match cls.toNat with
  | 0 => inAlu n
  | 1 => inAlu n || (0x90 ≤ n && n ≤ 0xAF)
  | 2 => inAlu n || (0xC0 ≤ n && n ≤ 0xCF) || (0xE0 ≤ n && n ≤ 0xEF)
  | 3 => inAlu n || (0xD0 ≤ n && n ≤ 0xDF)
  | 4 => inAlu n || (0xF0 ≤ n && n ≤ 0xF7)
  | 5 => inAlu n || (0x90 ≤ n && n ≤ 0xAF) || (0xF8 ≤ n && n ≤ 0xFE)
  | 6 => n ≤ 0xFE
  | _ => false

/-- The opcode is a transfer: BRA, JMP, JMPI, CALL, CALLI, RET, RETT or EXIT (R141). -/
def isTransfer (opc : BitVec 8) : Bool :=
  let n := opc.toNat
  (1 ≤ n && n ≤ 7) || n == 0x10

/-- The instruction words of a clause pass R141: the class, no 0xFF, and a transfer only as the last word. -/
def clauseWordsOk (cls : BitVec 3) : List DWord → Bool
  | [] => true
  | [w] => w.extractLsb' 56 8 != 0xFF#8 && classAdmits cls (w.extractLsb' 56 8)
  | w :: v :: ws =>
    w.extractLsb' 56 8 != 0xFF#8 && classAdmits cls (w.extractLsb' 56 8) && !isTransfer (w.extractLsb' 56 8) &&
    clauseWordsOk cls (v :: ws)

/-- The clause is legal (R141). -/
def clauseOk (hd : Header) (ws : List DWord) : Bool :=
  hd.cls != 7 && hd.rsvd == 0 && clauseWordsOk hd.cls ws

/-- What the decoder reads from a word numbered as spec/opcode_table.json numbers it: one 64-bit word, little-endian,
so bit 0 of the table is bit 0 of the word. -/
def decodeTableWord (_nbits w : Nat) : Option Instr :=
  match decode (BitVec.ofNat 64 w) with
  | .instr i => some i
  | .illegalOpcode => none
  | .illegalModifier => none

end Sys2Proof
end

