-- ==== Sys2Proof/Machine/NMap.lean ====
section
/-!
DEFINITION. Sparse tables keyed by a number: lists of (key, value) with the keys strictly rising, and the byte memory in
its canonical form: no entry equal to what an unlisted address reads as.
-/
namespace Sys2Proof.Machine

/-- A sparse table from numbers to values: keys strictly rising. -/
abbrev NMap (α : Type) := List (Nat × α)

/-- The value at a key. -/
def NMap.find? {α : Type} : NMap α → Nat → Option α
  | [], _ => none
  | (k, v) :: m, n => if k = n then some v else if n < k then none else NMap.find? m n

/-- The value at a key, or a default. -/
def NMap.getD {α : Type} (m : NMap α) (n : Nat) (d : α) : α :=
  match m.find? n with
  | some v => v
  | none => d

/-- The table with a value at a key. -/
def NMap.set {α : Type} : NMap α → Nat → α → NMap α
  | [], n, v => [(n, v)]
  | (k, w) :: m, n, v =>
    if k = n then (k, v) :: m else if n < k then (n, v) :: (k, w) :: m else (k, w) :: NMap.set m n v

/-- The table with no value at a key. -/
def NMap.erase {α : Type} : NMap α → Nat → NMap α
  | [], _ => []
  | (k, w) :: m, n => if k = n then m else if n < k then (k, w) :: m else (k, w) :: NMap.erase m n

/-- The table with the value at a key changed; a key with no value stays without one. -/
def NMap.modify {α : Type} : NMap α → Nat → (α → α) → NMap α
  | [], _, _ => []
  | (k, w) :: m, n, f =>
    if k = n then (k, f w) :: m else if n < k then (k, w) :: m else (k, w) :: NMap.modify m n f

/-- Every value changed by a function of its key. -/
def NMap.mapKV {α : Type} (m : NMap α) (f : Nat → α → α) : NMap α := m.map fun (k, v) => (k, f k v)

/-- The keys strictly rise, and all lie above a bound when one is given. -/
def NMap.rising {α : Type} : Option Nat → NMap α → Bool
  | _, [] => true
  | none, (k, _) :: m => NMap.rising (some k) m
  | some b, (k, _) :: m => decide (b < k) && NMap.rising (some k) m

/-- The table is in its form: keys strictly rising. -/
def NMap.wf {α : Type} (m : NMap α) : Bool := NMap.rising none m

/-- A byte memory: (address, byte) with the addresses strictly rising and no byte equal to the reset byte. -/
abbrev Memory := List Host.Cell

/-- What an unlisted address reads as (notes/assumptions/1.md). -/
def Memory.unlisted : BitVec 8 := 0

/-- Read one byte. -/
def Memory.read (m : Memory) (a : Nat) : BitVec 8 := NMap.getD m a Memory.unlisted

/-- Write one byte: the reset byte removes the entry, so equal memories are equal lists. -/
def Memory.write (m : Memory) (a : Nat) (b : BitVec 8) : Memory :=
  if b = Memory.unlisted then NMap.erase m a else NMap.set m a b

/-- Write a list of bytes at given addresses. -/
def Memory.writeAll (m : Memory) : List Host.Cell → Memory
  | [] => m
  | (a, b) :: cs => Memory.writeAll (m.write a b) cs

/-- The canonical form: addresses strictly rising and no entry equal to the reset byte. -/
def Memory.wf (m : Memory) : Bool := NMap.wf m && m.all fun c => c.2 != Memory.unlisted

end Sys2Proof.Machine
end

