-- ==== Sys2Proof/Machine/State.lean ====
section
/-!
DEFINITION. The state of the BN-12 as plain data: every piece of state the spec names, listed with its rule in
INVENTORY.md, the reasons a step can stop, and the state after reset.
Keys: a thread's key is core × 2048 + lane × 16 + slot; a crew's is core × 64 + crew; a lane group's is
core × 4 + lane group; a tile's is core × 16 + physical tile; a scratchpad byte's is its on-chip map address.
-/
namespace Sys2Proof.Machine

/-- The causes of R357, by name; `Cause.code` gives the codes. -/
inductive Cause where
  | illegalOpcode | illegalModifier | illegalClause | regRange | badTarget | laViolation | privileged | breakpoint
  | softTrap | syscall | convOrphan | convNotArmed | convNotMember | convMismatch | joinMask | regDeadlock
  | fpInvalid | fpDivzero | fpOverflow | fpUnderflow | fpInexact | rngExhausted | laneCheck | funcCheck
  | matrixCheck | accEcc | regEcc | selectCheck | weirCheck | mergeCheck | rngCheck | xaddCheck
  | pageNotPresent | pageProtect | pteMalformed | levee | addrRange | misaligned | sealed | owner
  | scratchRange | formatMismatch | typedRange | mapRange | sealRange | atomTarget | x128Desc | scratchEcc
  | hbmEcc | cisternEcc | hostAbort | iommuFault | peerWindow | peerFail | walkEcc | tlbCheck
  | tlrBad | kvRange | kvContext | jobCard | drainShape | quota | tileGrant | sluiceCheck
  | poolTag | stopRecordBad | engineFenced | linkDown | engineTimeout | siphonCheck | ringBad | headgateCheck
  | depth | smallestGrain | notDivisible | spillwayFault | queueUnbound | taskState | badEntry | taskIrrevocable
  | segId | segState | segShape | linkBad | kvrRow | mapInvalid | selectBad | mergeShape
  | halted | machineCheck | smcDenied | sysregBad | quiesceTimeout | imageBad | doubleTrap | watchdog
  deriving DecidableEq, Repr

/-- Why a thread is parked (R33), with the argument of R385's WAITARG. -/
inductive Park where
  | sector (sa : Word)
  | tag (mask : BitVec 8)
  | signal (va : DWord) (cond : SigCond) (operand : DWord)
  | conv (c : Conv)
  | arrive (mask : Word)
  | grant (blocks : Nat)
  | fault
  deriving DecidableEq, Repr

/-- The states of a resident thread (R24), and the thread that a fatal event has stopped (R348, R351). -/
inductive Phase where
  /-- waiting in a furrow, whose key is the thread's crew and PC (R25, R27) -/
  | filed (furrow : Nat)
  /-- a member of a bundle -/
  | active
  /-- held outside the furrows; `order` orders the requests of R43 -/
  | parked (why : Park) (order : Nat)
  /-- stopped by the halt line at an instruction that raised a fatal event -/
  | stopped
  deriving DecidableEq, Repr

/-- The trap registers of a thread (R346). -/
structure TrapRegs where
  cause : Word
  epc   : DWord
  ecb   : DWord
  npc   : DWord
  ncb   : DWord
  skid  : Word
  badva : DWord
  sstat : Word
  tscr0 : DWord
  tscr1 : DWord
  logs  : DWord
  logw  : List DWord
  logva : List DWord
  deriving DecidableEq, Repr

/-- An arrival at a JOIN or a lane collective: where and under which mask (R40, R41, R209). -/
structure Arrival where
  pc   : DWord
  mask : Word
  deriving DecidableEq, Repr

/-- A long-latency instruction that is still outstanding: its destinations and the values they will receive, its
FSTAT flags, and a cause that ends it instead (R150, R178). -/
structure Outst where
  i     : Instr
  pc    : DWord
  cb    : DWord
  dests : List Nat
  vals  : List Word
  flags : BitVec 5
  isFloat : Bool
  /-- destinations that a younger word has written: only a pending AGET or AFLAG has any (R47, R253) -/
  dead  : List Nat := []
  /-- a memory read that WAITM waits for (R139) -/
  isMem : Bool
  /-- what serves it: 0 this device, 1 host memory, 2 a peer window -/
  target : Nat
  /-- the Prejor port that carries it, for a peer access: chosen at its issue (R396) -/
  port : Nat
  va    : DWord
  /-- the matrix operation that will supply the values, for AGET (R264) -/
  mat   : Option Nat
  /-- its number among the words that the thread has issued, for SKID (R45) -/
  at_   : Nat
  deriving DecidableEq, Repr

/-- A lookahead window: the header of the clause whose words it covers, the address of the last of them and the destinations
that it protects (R150). -/
structure Window where
  cb      : DWord
  last    : DWord
  dests   : List Nat
  isFloat : Bool
  deriving DecidableEq, Repr

/-- An operand-log entry (R46, R386): the word, its address, the captured sources, the destinations, the fault. -/
structure LogEntry where
  word  : DWord
  pc    : DWord
  cb    : DWord
  srcs  : List (Nat × Word)
  dests : List Nat
  cause : Cause
  va    : DWord
  fid   : Nat
  /-- the response: 0 none, 1 RESOLVE, 2 DECLINE (R367) -/
  verdict : Nat
  /-- the engine command that stopped, for an engine entry -/
  cmd   : Option Nat
  /-- the number of the last word issued up to it, for SKID (R350) -/
  at_   : Nat
  /-- a declined commit record, delivered at the TDONE (R64) -/
  commit : Bool
  /-- the cycle in which the fault was met (R366) -/
  met   : Nat := 0
  /-- the bundle that issued the word, by the cycle after its formation; 0 for none (R113) -/
  bundle : Nat := 0
  /-- the places where a higher lane has stored in the same word: its replay stores nothing there (R113) -/
  covered : List Nat := []
  deriving DecidableEq, Repr

/-- An imprecise cause waiting for the next instruction the thread would issue (R45, R223). -/
structure Imprecise where
  cause : Cause
  pc    : DWord
  cb    : DWord
  va    : DWord
  at_   : Nat
  deriving DecidableEq, Repr

/-- A global store in a thread's FIFO store queue (R124): its bytes by physical address, and the stores that must be
visible first, each to the agents of a mask (R127). -/
structure StoreQ where
  bytes : List Host.Cell
  need  : List (Nat × Nat)
  deriving DecidableEq, Repr

/-- A thread (R22, R23, R346, R385). Its core, lane and slot are its key. -/
structure Thread where
  vf     : Nat
  crew   : Nat
  gang   : Nat
  pc     : DWord
  cb     : DWord
  alloc  : Nat
  regs   : List Word
  /-- the physical blocks of its lane, one for each block of its allocation (R42, R107) -/
  blocks : List Nat
  preds  : BitVec 7
  kcnt   : List Nat
  fstat  : Word
  fctl   : Word
  tr     : TrapRegs
  phase  : Phase
  /-- its filing time (R27), counted from 4,096 cycles before reset so that JOIN can file into the past (R40) -/
  ftime  : Nat
  arrival : Option Arrival
  /-- the convergence registers signed whose operations have not issued, and the generations (R37; SIGC, SIGGEN of
  R385) -/
  sig    : List (Conv × Nat)
  /-- registers held for matrix operations: (operation, register) (R257) -/
  held   : List (Nat × Nat)
  outs   : List Outst
  wins   : List Window
  log    : List LogEntry
  imps   : List Imprecise
  storeq : List StoreQ
  /-- flights visible at the thread's last load (the released set of R127) -/
  seen   : List Nat
  /-- the released sets of its FENCE.RELs, for the stores that follow: each store with the agents of the fence's scope
  (R127) -/
  relNeed : List (Nat × Nat)
  inTask : Bool
  /-- the address of its TPOP and of that clause's header (R58) -/
  tpop   : DWord × DWord
  /-- words issued; the numbers of those that have not retired (R45, R350) -/
  issued : Nat
  unret  : List Nat
  /-- takes CONV_ORPHAN at its next instruction (R38) -/
  orphan : Bool
  /-- takes this cause at its next instruction (R71) -/
  pendCause : Option Cause
  /-- an acquire or satisfied wait took a recoverable fault: it parks at the next instruction (R126, R247) -/
  acqFault : Bool
  /-- the fault of a clause fetch that parked it with an empty log, and the address of the word (R142) -/
  fetchFault : Option (Nat × DWord)
  /-- a clause fetch fault that was declined, and the address of the word -/
  fetchDecl : Option (Cause × DWord)
  /-- cycle of entry into the privileged handler, for WATCHDOG (R357) -/
  privSince : Nat
  /-- in the handler of SMALLEST_GRAIN or NOT_DIVISIBLE (R71) -/
  grainTrap : Bool
  /-- the read-set hold of R66 applies to its next read -/
  rsHold : Bool
  /-- its last wait has ended and the instruction now issues again (R33): the collective has issued -/
  passed : Bool
  /-- the cycle in which it was filed or parked last (R24, R27, R33) -/
  since  : Nat := 0
  /-- the clause it holds: the header's address, the header and the words, as its fetch found them (R142, R204) -/
  code   : Option (DWord × Header × List DWord) := none
  /-- the replay of its oldest log entry has parked it: when the wait ends it stays parked on FAULT (R46) -/
  replayWait : Bool := false
  deriving DecidableEq, Repr

/-- A thread in an eviction area (R370, R371): its key, the state its record does not carry, and the record's place: its
virtual address, its physical address, the physical address of the page after the one it starts in, and the geometries of the
two pages. -/
structure Evicted where
  key  : Nat
  t    : Thread
  va   : DWord
  addr : Nat
  addr2 : Nat
  geom : Nat
  geom2 : Nat
  deriving DecidableEq, Repr

/-- A log entry's replay (R46): the thread, with the registers, the PC, the wait and the arrival it had when it parked. -/
structure Replay where
  thread : Nat
  regs   : List Word
  pc     : DWord
  cb     : DWord
  phase  : Phase
  arrival : Option Arrival
  deriving DecidableEq, Repr

/-- A bundle (R24 to R30): its members, those that have not yet issued the current word, when it was formed, whether it
has met a reform point, and whether it replays a log entry instead of issuing. -/
structure Bundle where
  core    : Nat
  lgrp    : Nat
  members : List Nat
  todo    : List Nat
  formed  : Nat
  dissolve : Bool
  stalled : Bool
  replay  : Option Replay
  /-- the word is a branch hinted UNIFORM (R152) -/
  uniform : Bool
  /-- a member has issued the current word -/
  begun   : Bool := false
  /-- the members whose store of the current word is in their queue (R113) -/
  stored  : List Nat := []
  /-- the members whose stores of the current word meet at a byte (R113) -/
  clash   : List Nat := []
  deriving DecidableEq, Repr

/-- A lane group's rotation of active bundles, in order of formation, and the cycle of its last issue (R30, R44). -/
structure LaneGroup where
  rotation : List Bundle
  lastIssue : Nat
  deriving DecidableEq, Repr

/-- The per-core system registers (R347). -/
structure CoreRegs where
  furcfg : Word
  uniformMiss : Word
  deriving DecidableEq, Repr

/-- STATE of a convergence register (R36). -/
inductive ConvState where
  | idle | armed | orphaned
  deriving DecidableEq, Repr

/-- The operation that the first signer fixed (R36, R384). -/
structure OpRec where
  opc : BitVec 8
  mod : BitVec 16
  d   : BitVec 8
  a   : BitVec 8
  b   : Word
  deriving DecidableEq, Repr

/-- A convergence register (R36). -/
structure ConvReg where
  st      : ConvState
  members : Word
  expect  : Nat
  count   : Nat
  gen     : Nat
  op      : Option OpRec
  /-- the released sets of the signers of a CBAR (R218) -/
  rel     : List Nat
  deriving DecidableEq, Repr

/-- A region of the crew's pool made by SPALLOC (R205). -/
structure Region where
  row  : Nat
  rows : Nat
  task : Option Word
  deriving DecidableEq, Repr

/-- An entry of the crew's map table (R304). -/
structure MapEntry where
  live   : Bool
  serial : Nat
  n      : Nat
  m      : Nat
  depth  : Nat
  parent : Word
  child  : Bool
  addr   : Nat
  task   : Option Word
  deriving DecidableEq, Repr

/-- A task entry (R51, R52). -/
structure Entry where
  entry  : Word
  flags  : Word
  lo     : Word
  hi     : Word
  arg    : DWord
  tstamp : Word
  parent : Word
  deriving DecidableEq, Repr

/-- What a KVG fetched for one lane's handle, at its issue (R237, R238): the entry it names and the overlay's repair set.
A lane whose rows are all zero (a skipped handle or an error) has length 0. `dead` is set when the entry is unlinked
while the command runs: the READY mask of the layer as it then stood. -/
structure KvEntry where
  lane  : Nat
  tail  : Bool
  slot  : Nat
  /-- the token block -/
  tb    : Nat
  len   : Nat
  base  : Nat
  /-- the virtual address of the list of its pool blocks -/
  blist : Nat
  seg   : Nat
  ova   : Nat
  rmask : DWord
  rcnt  : Nat
  dead  : Option DWord
  deriving DecidableEq, Repr

/-- The units that serve engine commands (R16), and a core's own accesses to records, for an instruction that is no command
(R283 to R289). -/
inductive EngUnit where
  | sluice (core : Nat)
  | own (core : Nat)
  | weir (die : Nat)
  | confluence (die : Nat)
  | select
  | siphon
  deriving DecidableEq, Repr

/-- A fault that an accepted command has met (R222). -/
structure CmdFault where
  cause : Cause
  va    : DWord
  fid   : Option Nat
  logged : Bool
  resolved : Bool
  /-- the cycle in which it was met (R366) -/
  met   : Nat := 0
  deriving DecidableEq, Repr

/-- How a Siphon job has ended (R244): STATUS, OUTLEN, INUSED, FAULT and FADDR. -/
structure JobEnd where
  status : Nat
  outlen : Nat
  inused : Nat
  cause  : Nat
  addr   : DWord
  deriving DecidableEq, Repr

/-- An engine command (R220 to R250, R284, R288, R294). -/
structure Cmd where
  id    : Nat
  unit  : EngUnit
  thr   : Nat
  crew  : Nat
  vf    : Nat
  /-- the gang of its thread: with core, crew and lane it names the thread, whatever slot it is in -/
  gang  : Nat := 0
  i     : Instr
  word  : DWord
  pc    : DWord
  cb    : DWord
  at_   : Nat
  /-- the operand register values it read at issue, in the order its entry gives them -/
  ops   : List Word
  /-- the record it read at issue: TLR, job card, mask, context -/
  recd  : List Byte
  /-- sectors it still has to take, as (sector, whether it writes it) (R110) -/
  want  : List (Nat × Bool)
  /-- sectors it has taken and not finished -/
  got   : List (Nat × Bool)
  /-- next beat, row, token or input offset -/
  beat  : Nat
  /-- the output offset of a job; the claimed position of a KVA -/
  done  : Nat
  slack : Nat
  lastServed : Nat
  /-- the cycle in which it last made progress (R357, ENGINE_TIMEOUT) -/
  moved : Nat
  fault : Option CmdFault
  /-- the handles' fetched entries, one per masked lane (KVG) -/
  kv    : List KvEntry
  /-- the rotation table, header and frequencies (KVG) -/
  rtab  : List Word
  /-- STALE, DEADREAD and the error mask of the status sector -/
  stale : Nat
  dead  : Nat
  errs  : Nat
  /-- PENDING rows still waiting: (index in `kv`, row) -/
  rows  : List (Nat × Nat)
  /-- the handle of the task it belongs to -/
  task  : Option Word
  /-- a held command that the commit has issued -/
  issued : Bool
  /-- the end of a job whose record is still to be written -/
  job    : Option JobEnd
  /-- its next read is held until its ordered task is the oldest (R66) -/
  rsHold : Bool
  /-- INUSED and OUTLEN of a job that a fault has stopped: its whole tokens, and the bytes it has written -/
  tokens : Nat × Nat
  /-- the beats of its current token that a KVA has moved (R221, R240) -/
  sub    : Nat := 0
  /-- the next beat of each core that an MCAST names (R235) -/
  land   : List (Nat × Nat) := []
  /-- the beats that an MCAST has read and not yet landed on every core (R235) -/
  ahead  : List (Nat × List Byte) := []
  deriving DecidableEq, Repr

/-- A write-buffer record (R64), in the order it was made. -/
inductive BufRec where
  | line (va : Nat) (bytes : List Host.Cell)
  | red (va : DWord) (op : AtomOp) (w64 : Bool) (sc : Scope) (b : DWord)
  | xadd (va da : DWord) (sc : Scope) (c : BitVec 128) (anchor : Int)
  | signal (va : DWord) (add : DWord) (notify : Bool)
  | push (q : Nat) (e : Entry)
  | cmd (c : Cmd)
  deriving DecidableEq, Repr

/-- Why a task is aborted (R71). -/
inductive AbortKind where
  | exhausted (why : Nat)
  | tsplit
  | conflict
  | requeue
  | cancel
  deriving DecidableEq, Repr

/-- A running task (R58, R64, R66, R68, R387). -/
structure Task where
  e      : Entry
  handle : Word
  seq    : Nat
  q      : Nat
  elapsed : Nat
  buf    : List BufRec
  rset   : List Nat
  /-- the last signer of TDONE, once it has signed -/
  signer : Option Nat
  committing : Bool
  /-- the number of records that the commit has performed (NEXTREC of R387) -/
  nextRec : Nat
  /-- its Headgate dispatch, which gives its age (R44) -/
  dispatch : Nat
  /-- the commit waits on a fault logged against the last signer -/
  held   : Bool
  /-- the released sets of the crew's threads at their TDONEs: each store with the agents that see it first (R136) -/
  rel    : List (Nat × Nat) := []
  /-- the abort that an instruction of this cycle has asked for, resolved at the end of the cycle (R69) -/
  due    : Option AbortKind := none
  deriving DecidableEq, Repr

/-- A TPOP that has all its signatures (R57, R76). -/
structure PopReq where
  nb   : Bool
  any  : Bool
  q    : Nat
  d    : Nat
  cm   : Conv
  since : Nat
  deriving DecidableEq, Repr

/-- A crew (R34, R35, R105, R205, R251, R304, R388). Its core and number are its key. -/
structure Crew where
  vf     : Nat
  regs   : Nat
  ngang  : Nat
  team   : Nat
  lgrps  : List Nat
  base   : Nat
  rows   : Nat
  static : Nat
  pool   : Nat
  wbuf   : Nat
  queues : List Nat
  tconv  : Conv
  /-- physical tiles granted, in the order the crew names them -/
  tiles  : List Nat
  convs  : List ConvReg
  regions : List Region
  maps   : List MapEntry
  gen    : Nat
  task   : Option Task
  /-- END, WHY and queue of the previous task (R73) -/
  last   : Nat × Nat × Nat
  pop    : Option PopReq
  /-- D of its last TPOP: the first register of the entry (R57, R71) -/
  popD   : Nat
  /-- its last thread has exited (R50) -/
  ended  : Bool
  /-- the end has been reported -/
  reported : Bool
  deriving DecidableEq, Repr

/-- One accumulator element: S and its flags (R14, R266). -/
structure Elem where
  s  : BitVec 128
  fl : BitVec 4
  deriving DecidableEq, Repr

/-- One accumulator tile: ANCHOR and the elements that differ from zero (R14, R86). -/
structure ATile where
  anchor : Int
  els    : NMap Elem
  deriving DecidableEq, Repr

/-- State of a scratchpad sector (R109). -/
inductive Sector where
  | ready | filling | draining | empty
  deriving DecidableEq, Repr

/-- An operation in a matrix engine's queue (R252, R269). -/
structure MatOp where
  id    : Nat
  core  : Nat
  crew  : Nat
  thr   : Nat
  i     : Instr
  gang0 : Nat
  team  : Nat
  sa    : Nat
  idx   : Word
  /-- the physical tile -/
  tile  : Nat
  started : Option Nat
  /-- scratchpad sectors it has still to take, and those it has taken (R132) -/
  want  : List (Nat × Bool)
  got   : List (Nat × Bool)
  /-- values for the destination registers, once started -/
  vals  : List Word
  flags : BitVec 5
  deriving DecidableEq, Repr

/-- Who makes a store (R120): a thread, whatever slot it is in, by its crew's key, its gang and its lane there; an engine
command; the device itself; the image of a SAVE; the host; the peers. -/
inductive Writer where
  | thread (crew gang lane : Nat)
  | cmd (id : Nat)
  | device
  | image (id : Nat)
  | host
  | peer
  deriving DecidableEq, Repr

/-- A global store on its way to the agents (R121, R125): who made it, its bytes by physical address, which agents see
it (bit n of `seen` is agent n), and the stores that each agent of a mask sees first (R127). An atomic carries the agents of
its scope and its own agent. -/
structure Flight where
  id     : Nat
  writer : Writer
  bytes  : List Host.Cell
  seen   : Nat
  need   : List (Nat × Nat)
  atom   : Option (Nat × Nat)
  vf     : Nat
  deriving DecidableEq, Repr

/-- A queue (R55, R56, R76): its configuration, the entries on chip with their SEQ, the spillway ring and the
arbitration counters. -/
structure Queue where
  qcfg   : DWord
  qspill : DWord
  ents   : List (Entry × Nat)
  seq    : Nat
  sphead : Nat
  spcnt  : Nat
  hostdrop : Bool
  /-- SEQ of each entry in the spillway, oldest first (R56) -/
  spseq  : List Nat
  /-- TSTAMP of the last accepted new push (R53) -/
  lastTs : Word
  ep     : Nat
  pass   : Nat
  cr     : Nat
  deriving DecidableEq, Repr

/-- The Headgate (R76): the round-robin pointer, HGCFG and the dispatch count. -/
structure Headgate where
  ptr   : Nat
  hgcfg : Word
  dispatches : Nat
  /-- the cycle after the one of its last dispatch: at most one a cycle (R76) -/
  last  : Nat := 0
  deriving DecidableEq, Repr

/-- A task record (R54, R61): its generation, and while it is live the entry, the children and the state. -/
structure TaskRec where
  gen   : Nat
  live  : Bool
  e     : Entry
  outstanding : Nat
  committed : Bool
  deriving DecidableEq, Repr

/-- An entry of a partition's fault table (R367): a fault, or an event for system software. -/
structure FaultRec where
  id     : Nat
  user   : Nat
  event  : Bool
  lohi   : Word
  va     : DWord
  tstamp : Word
  pushed : Bool
  resp   : Nat
  deriving DecidableEq, Repr

/-- What the partition is doing (R351, R374). -/
inductive Line where
  | running
  | stopping (halt : Bool) (since : Nat) (excl : Option Nat)
  | halted
  | quiesced (excl : Option Nat)
  deriving DecidableEq, Repr

/-- A partition (R347, R358, R366, R368, R379). -/
structure Part where
  desc    : BitVec 256
  everRun : Bool
  tvec    : DWord
  haltrec : DWord
  smcmask : Word
  ptroot  : DWord
  segtab  : DWord
  trarea  : DWord
  trcount : Word
  fqcfg   : DWord
  qsel    : Word
  poolErr : Bool
  line    : Line
  /-- agents whose record is written since the line rose -/
  stopped : List Nat
  /-- error-vector reports: cause code and address -/
  errs    : List (Nat × DWord)
  faults  : List FaultRec
  nextFid : Nat
  /-- set bits of the dirty bitmap, rising -/
  dirty   : List Nat
  tasks   : NMap TaskRec
  /-- the causes recorded with the records of stopped agents: (agent, cause code), newest first (R351, R352) -/
  events  : List (Nat × Nat)
  /-- it has halted, and has been neither saved nor rebuilt since (R351) -/
  rebuild : Bool
  deriving DecidableEq, Repr

/-- A pool block's tag (R366). -/
structure PoolTag where
  owner : Nat
  sealed : Bool
  deriving DecidableEq, Repr

/-- The host's registers of PF BAR0 (R394), the Prejor windows (R396) and what the device has sent to the host. -/
structure HostRegs where
  mode    : Nat
  reason  : Nat
  fails   : Nat
  poolcfg : DWord
  ckcfg   : Word
  veccfg  : DWord
  veccfg2 : DWord
  vfen    : Word
  vfbusy  : Bool
  /-- the VF of the operation under way -/
  vfop    : Nat
  vfcause : Nat
  vflen   : Nat
  vfimg   : DWord
  vfimgcap : DWord
  dlogsel : DWord
  pwin    : NMap (BitVec 128)
  /-- MSI-X messages sent: (VF, vector), newest first -/
  msix    : List (Nat × Nat)
  /-- values returned to the host's reads, newest first -/
  reads   : List DWord
  /-- pages of host memory that the host's IOMMU refuses, as (VF, IOVA / 4096) -/
  iommu   : List (Nat × Nat)
  /-- Prejor ports that are lost -/
  portsDown : BitVec 12
  /-- a checkpoint waits for the partitions to stop (R392) -/
  ckbusy : Bool
  /-- images that a RESTORE has reloaded, by VF (R398) -/
  staged : NMap (List Byte)
  deriving DecidableEq, Repr

/-- A management call that the SMC has still to answer (R356). -/
structure SmcCall where
  id   : Nat
  fn   : Nat
  vf   : Nat
  va   : DWord
  sig  : DWord
  block : List Byte
  deriving DecidableEq, Repr

/-- The management controller (R356, R397, R398, R399). -/
structure Smc where
  calls : List SmcCall
  nextCall : Nat
  /-- log records: timestamp, class, unit and cause, detail -/
  log   : List (Nat × Nat × Nat × List Byte)
  /-- it holds every core (R399) -/
  held  : Bool
  powercap : Nat
  clockSteps : Nat
  /-- firmware slots: whether each holds a valid image, the image, and the active slot -/
  slots : List (Bool × Nat)
  active : Nat
  /-- answers left in the DOE mailboxes: function and bytes -/
  doe   : List (Nat × List Byte)
  sensorReads : Nat
  deriving DecidableEq, Repr

/-- A cached translation (R14, R119): partition, the cache that holds it, the page's first VA and its size, the leaf, and the
table entry it came from. -/
structure TlbEnt where
  vf   : Nat
  core : Nat
  va   : Nat
  size : Nat
  leaf : DWord
  pte  : Nat
  deriving DecidableEq, Repr

/-- Who moves next: a lane group issues, a thread's log replays, or an event of the table. -/
inductive Mover where
  | issue (core lgrp : Nat)
  | replay (thread : Nat)
  | event (e : Instr) (who : List Nat)
  deriving DecidableEq, Repr

/-- The whole machine. -/
structure State where
  /-- core cycles since the last reset (R173) -/
  now     : Nat
  /-- which agents move next and how many cycles pass before each (the model's own; notes/assumptions/2.md) -/
  agenda  : List (Nat × Mover)
  /-- the agent of the event being performed -/
  who     : List Nat
  /-- the bundle that is issuing its word -/
  issue   : Option Bundle
  threads : NMap Thread
  evicted : List Evicted
  lgs     : NMap LaneGroup
  cores   : NMap CoreRegs
  crews   : NMap Crew
  tiles   : NMap ATile
  scratch : Memory
  sectors : NMap Sector
  /-- registers of physical blocks that no thread owns, by lane × 1024 + register, where they differ from zero -/
  phys    : NMap Word
  cmds    : List Cmd
  mats    : List MatOp
  /-- the next number for a command, a matrix operation, a flight, a request -/
  nextId  : Nat
  mem     : Memory
  flights : List Flight
  tlb     : List TlbEnt
  queues  : NMap Queue
  hg      : Headgate
  parts   : NMap Part
  pool    : NMap PoolTag
  host    : HostRegs
  smc     : Smc
  /-- units fenced after a lasting error (R354) -/
  fenced  : List Nat
  deriving DecidableEq, Repr

/-- The reasons a step stops with a fault. -/
inductive Fault where
  /-- a meaning of an instruction word was asked for while no thread is issuing: the step never does it; SAFE -/
  | noThread
  deriving DecidableEq, Repr

/-- The reasons a step is refused. -/
inductive Refusal where
  /-- an instruction without a meaning; no arm is left that uses it; SAFE -/
  | notModelled (mnemonic : String)
  deriving DecidableEq, Repr

/-- The trap registers after reset (R346). -/
def TrapRegs.reset : TrapRegs :=
  { cause := 0, epc := 0, ecb := 0, npc := 0, ncb := 0, skid := 0, badva := 0, sstat := 0, tscr0 := 0, tscr1 := 0
    logs := 0, logw := [0, 0, 0, 0], logva := [0, 0, 0, 0] }

/-- A core's registers after reset: FURCFG 0x0000_C040, UNIFORM_MISS 0 (R347). -/
def CoreRegs.reset : CoreRegs := { furcfg := 0xC040, uniformMiss := 0 }

/-- A lane group after reset. -/
def LaneGroup.reset : LaneGroup := { rotation := [], lastIssue := 0 }

/-- A convergence register that nothing has armed (R36). -/
def ConvReg.reset : ConvReg := { st := .idle, members := 0, expect := 0, count := 0, gen := 0, op := none, rel := [] }

/-- A map-table entry that nothing has taken (R304). -/
def MapEntry.reset : MapEntry :=
  { live := false, serial := 0, n := 0, m := 0, depth := 0, parent := 0xFFFFFFFF, child := false, addr := 0, task := none }

/-- A tile as it is granted: every S and flag 0, ANCHOR −64 (R251). -/
def ATile.clear : ATile := { anchor := -64, els := [] }

/-- A queue after reset: disabled and empty (notes/assumptions/5.md). -/
def Queue.reset : Queue :=
  { qcfg := 0, qspill := 0, ents := [], seq := 0, sphead := 0, spcnt := 0, hostdrop := false, spseq := [], lastTs := 0, ep := 0, pass := 0, cr := 1 }

/-- A partition after reset (R347, R358, R368). -/
def Part.reset : Part :=
  { desc := 0, everRun := false, tvec := 0, haltrec := 0, smcmask := 0, ptroot := 0, segtab := 0, trarea := 0, trcount := 0
    fqcfg := 0, qsel := 0, poolErr := false, line := .running, stopped := [], errs := [], faults := [], nextFid := 0
    dirty := [], tasks := [], events := [], rebuild := false }

/-- The host's registers after a cold reset that succeeded (R394, R398). -/
def HostRegs.reset : HostRegs :=
  { mode := 1, reason := 0, fails := 0, poolcfg := 0, ckcfg := 0, veccfg := 0, veccfg2 := 0, vfen := 0, vfbusy := false, vfop := 0
    vfcause := 0, vflen := 0, vfimg := 0, vfimgcap := 0, dlogsel := 0, pwin := [], msix := [], reads := [], iommu := []
    portsDown := 0, ckbusy := false, staged := [] }

/-- The management controller after a cold reset (R397, R399; notes/assumptions/5.md). -/
def Smc.reset : Smc :=
  { calls := [], nextCall := 0, log := [], held := false, powercap := Config.powerLimit, clockSteps := 0, slots := [(true, 0), (true, 0)]
    active := 0, doe := [], sensorReads := 0 }

/-- The machine right after a cold reset: no thread, no crew, every queue disabled, every VF disabled, memory with
nothing listed, every sector READY and zero. -/
def State.reset : State :=
  { now := 0, agenda := [], who := [], issue := none, threads := [], evicted := [], lgs := [], cores := [], crews := []
    tiles := [], scratch := [], sectors := [], phys := [], cmds := [], mats := [], nextId := 0, mem := [], flights := []
    tlb := [], queues := [], hg := { ptr := 0, hgcfg := 256, dispatches := 0 }, parts := [], pool := []
    host := HostRegs.reset, smc := Smc.reset, fenced := [] }

end Sys2Proof.Machine
end

