-- ==== Sys2Proof/Machine/Bits.lean ====
section
/-!
DEFINITION. Bit fields, byte order, keys of the tables, and small list helpers (spec/00_scope.md R3 and R4).
-/
namespace Sys2Proof.Machine

/-- Bits `hi:lo` of a number, as an unsigned number (R7). -/
def bits (x : Nat) (hi lo : Nat) : Nat := (x / 2 ^ lo) % 2 ^ (hi + 1 - lo)

/-- The signed value of an n-bit number. -/
def signedOf (n : Nat) (x : Nat) : Int := if x < 2 ^ (n - 1) then (x : Int) else (x : Int) - (2 ^ n : Nat)

/-- An integer modulo 2^n, as a natural number. -/
def modPow (x : Int) (n : Nat) : Nat := (x % (2 ^ n : Nat)).toNat

/-- The bytes of a number, little-endian (R4). -/
def bytesOf (x : Nat) : Nat → List Byte
  | 0 => []
  | n + 1 => BitVec.ofNat 8 x :: bytesOf (x / 256) n

/-- The number of little-endian bytes (R4). -/
def natOf : List Byte → Nat
  | [] => 0
  | b :: bs => b.toNat + 256 * natOf bs

/-- The 32-bit words of bytes, little-endian; a rest of fewer than four bytes is padded with zeros. -/
def wordsOf : List Byte → List Word
  | [] => []
  | [a] => [BitVec.ofNat 32 (natOf [a])]
  | [a, b] => [BitVec.ofNat 32 (natOf [a, b])]
  | [a, b, c] => [BitVec.ofNat 32 (natOf [a, b, c])]
  | a :: b :: c :: d :: bs => BitVec.ofNat 32 (natOf [a, b, c, d]) :: wordsOf bs

/-- The bytes of 32-bit words. -/
def bytesOfWords : List Word → List Byte
  | [] => []
  | w :: ws => bytesOf w.toNat 4 ++ bytesOfWords ws

/-- A number's 32-bit words, least significant first. -/
def wordsOfNat (x : Nat) : Nat → List Word
  | 0 => []
  | n + 1 => BitVec.ofNat 32 x :: wordsOfNat (x / 2 ^ 32) n

/-- The number of 32-bit words, least significant first. -/
def natOfWords : List Word → Nat
  | [] => 0
  | w :: ws => w.toNat + 2 ^ 32 * natOfWords ws

/-- `n` bytes from an offset of a list, padded with zeros. -/
def slice (bs : List Byte) (off n : Nat) : List Byte :=
  let l := (bs.drop off).take n
  l ++ List.replicate (n - l.length) 0

/-- The little-endian number in bytes `off` to `off + n − 1`. -/
def fieldAt (bs : List Byte) (off n : Nat) : Nat := natOf (slice bs off n)

/-- Round up to a multiple. -/
def alignUp (x m : Nat) : Nat := (x + m - 1) / m * m

/-- The smallest number of units of size m that hold x. -/
def ceilDiv (x m : Nat) : Nat := (x + m - 1) / m

/-- The numbers from `a`, `n` of them. -/
def upTo (a : Nat) : Nat → List Nat
  | 0 => []
  | n + 1 => a :: upTo (a + 1) n

/-- Insert into a rising list of numbers, once. -/
def insertNat (x : Nat) : List Nat → List Nat
  | [] => [x]
  | y :: ys => if x = y then y :: ys else if x < y then x :: y :: ys else y :: insertNat x ys

/-- Insert into a list kept in order by `le`, after the elements that are not greater. -/
def insertBy {α : Type} (le : α → α → Bool) (x : α) : List α → List α
  | [] => [x]
  | y :: ys => if le y x then y :: insertBy le x ys else x :: y :: ys

/-- A stable sort by `le`. -/
def sortBy {α : Type} (le : α → α → Bool) : List α → List α
  | [] => []
  | x :: xs => insertBy (fun a b => le a b && !le b a) x (sortBy le xs)

/-- The first element with the least value of `f`. -/
def minBy? {α : Type} (f : α → Nat) : List α → Option α
  | [] => none
  | x :: xs =>
    match minBy? f xs with
    | none => some x
    | some y => if f y < f x then some y else some x

/-- The number of set bits of the low `n` bits. -/
def popCount (x : Nat) : Nat → Nat
  | 0 => 0
  | n + 1 => x % 2 + popCount (x / 2) n

/-- The positions of the set bits of the low `n` bits, rising. -/
def bitsSet (x n : Nat) : List Nat := (upTo 0 n).filter fun i => x.testBit i

/-- Core of a thread's key. -/
def coreOf (k : Nat) : Nat := k / 2048
/-- Core lane of a thread's key. -/
def laneOf (k : Nat) : Nat := k / 16 % 128
/-- Thread slot of a thread's key. -/
def slotOf (k : Nat) : Nat := k % 16
/-- Lane group of a thread's key (R13). -/
def lgrpOf (k : Nat) : Nat := laneOf k / 32
/-- The key of a thread. -/
def threadKey (core lane slot : Nat) : Nat := core * 2048 + lane * 16 + slot
/-- The core is a steward core (R12). -/
def isSteward (core : Nat) : Bool := 128 ≤ core
/-- The die of a core: 0 to 3, and 4 for the hub (R12). -/
def dieOf (core : Nat) : Nat := if isSteward core then 4 else core / 32

/-- The code of a cause (R357). -/
def Cause.code : Cause → Nat
  | .illegalOpcode => 0x00 | .illegalModifier => 0x01 | .illegalClause => 0x02 | .regRange => 0x03
  | .badTarget => 0x04 | .laViolation => 0x05 | .privileged => 0x06 | .breakpoint => 0x07
  | .softTrap => 0x08 | .syscall => 0x09 | .convOrphan => 0x0A | .convNotArmed => 0x0B
  | .convNotMember => 0x0C | .convMismatch => 0x0D | .joinMask => 0x0E | .regDeadlock => 0x0F
  | .fpInvalid => 0x10 | .fpDivzero => 0x11 | .fpOverflow => 0x12 | .fpUnderflow => 0x13
  | .fpInexact => 0x14 | .rngExhausted => 0x15 | .laneCheck => 0x16 | .funcCheck => 0x17
  | .matrixCheck => 0x18 | .accEcc => 0x19 | .regEcc => 0x1A | .selectCheck => 0x1B
  | .weirCheck => 0x1C | .mergeCheck => 0x1D | .rngCheck => 0x1E | .xaddCheck => 0x1F
  | .pageNotPresent => 0x20 | .pageProtect => 0x21 | .pteMalformed => 0x22 | .levee => 0x23
  | .addrRange => 0x24 | .misaligned => 0x25 | .sealed => 0x26 | .owner => 0x27
  | .scratchRange => 0x28 | .formatMismatch => 0x29 | .typedRange => 0x2A | .mapRange => 0x2B
  | .sealRange => 0x2C | .atomTarget => 0x2D | .x128Desc => 0x2E | .scratchEcc => 0x2F
  | .hbmEcc => 0x30 | .cisternEcc => 0x31 | .hostAbort => 0x32 | .iommuFault => 0x33
  | .peerWindow => 0x34 | .peerFail => 0x35 | .walkEcc => 0x36 | .tlbCheck => 0x37
  | .tlrBad => 0x38 | .kvRange => 0x39 | .kvContext => 0x3A | .jobCard => 0x3B
  | .drainShape => 0x3C | .quota => 0x3D | .tileGrant => 0x3E | .sluiceCheck => 0x3F
  | .poolTag => 0x40 | .stopRecordBad => 0x41 | .engineFenced => 0x42 | .linkDown => 0x43
  | .engineTimeout => 0x44 | .siphonCheck => 0x45 | .ringBad => 0x46 | .headgateCheck => 0x47
  | .depth => 0x48 | .smallestGrain => 0x49 | .notDivisible => 0x4A | .spillwayFault => 0x4B
  | .queueUnbound => 0x4C | .taskState => 0x4D | .badEntry => 0x4E | .taskIrrevocable => 0x4F
  | .segId => 0x50 | .segState => 0x51 | .segShape => 0x52 | .linkBad => 0x53
  | .kvrRow => 0x54 | .mapInvalid => 0x55 | .selectBad => 0x56 | .mergeShape => 0x57
  | .halted => 0x58 | .machineCheck => 0x59 | .smcDenied => 0x5A | .sysregBad => 0x5B
  | .quiesceTimeout => 0x5C | .imageBad => 0x5D | .doubleTrap => 0x5E | .watchdog => 0x5F

/-- The cause is fatal: it raises the halt line (precision F of R357). -/
def Cause.fatal : Cause → Bool
  | .laneCheck | .funcCheck | .matrixCheck | .accEcc | .regEcc | .selectCheck | .weirCheck | .mergeCheck
  | .rngCheck | .xaddCheck | .scratchEcc | .tlbCheck | .sluiceCheck | .engineTimeout | .headgateCheck
  | .machineCheck | .quiesceTimeout | .doubleTrap | .watchdog => true
  | _ => false

/-- The causes that concern an address, which BADVA holds; it is 0 for every other cause (R346). -/
def Cause.hasVa : Cause → Bool
  | .pageNotPresent | .pageProtect | .pteMalformed | .levee | .addrRange | .misaligned | .sealed | .owner | .scratchRange
  | .formatMismatch | .typedRange | .mapRange | .sealRange | .atomTarget | .x128Desc | .hbmEcc | .cisternEcc | .hostAbort
  | .iommuFault | .peerWindow | .peerFail | .walkEcc | .tlbCheck | .poolTag | .linkDown | .spillwayFault => true
  | _ => false

/-- The cause is recoverable (precision R of R357, R46). -/
def Cause.recoverable : Cause → Bool
  | .pageNotPresent | .quota | .spillwayFault => true
  | _ => false

end Sys2Proof.Machine
end

