-- ==== Sys2Proof/Machine/Float.lean ====
section
/-!
DEFINITION. The element formats and their exact arithmetic (spec/04_numbers.md R78 to R80, R82, R87 to R92): a value is
decoded to an exact number, the operation is exact, and one rounding writes the result. Correctly rounded functions are
computed as integer enclosures between which no rounding boundary lies.
-/
namespace Sys2Proof.Machine

/-! ### Flags -/

/-- The exception flags, in FSTAT's order: bit 0 NV, 1 DZ, 2 OF, 3 UF, 4 NX (R93). -/
abbrev FFlags := BitVec 5
/-- NV. -/
def fNV : FFlags := 1
/-- DZ. -/
def fDZ : FFlags := 2
/-- OF. -/
def fOF : FFlags := 4
/-- UF. -/
def fUF : FFlags := 8
/-- NX. -/
def fNX : FFlags := 16
/-- A flag when a condition holds. -/
def flagIf (c : Bool) (f : FFlags) : FFlags := if c then f else 0

/-! ### Values and formats (R78) -/

/-- The value of a float encoding: a finite value (−1)^neg × m × 2^e, an infinity or a NaN. -/
inductive FVal where
  | fin (neg : Bool) (m : Nat) (e : Int)
  | inf (neg : Bool)
  | nan (signalling : Bool)
  deriving DecidableEq, Repr

/-- Width of a format in bits (R78, R182). -/
def fmtBits : NumFmt → Nat
  | .f32 | .i32 | .ui32 => 32
  | .f16 | .bf16 => 16
  | .f8a | .f8b | .i8 => 8
  | .i4 => 4

/-- Mantissa width m (R78). -/
def manBits : NumFmt → Nat
  | .f32 => 23 | .f16 => 10 | .bf16 => 7 | .f8a => 3 | .f8b => 2
  | _ => 0

/-- Exponent bias (R78). -/
def fmtBias : NumFmt → Int
  | .f32 => 127 | .f16 => 15 | .bf16 => 127 | .f8a => 7 | .f8b => 15
  | _ => 0

/-- The magnitude bits of the largest finite value (R78). -/
def maxFinite : NumFmt → Nat
  | .f32 => 0x7F7FFFFF | .f16 => 0x7BFF | .bf16 => 0x7F7F | .f8a => 0x7F | .f8b => 0x7B
  | _ => 0

/-- The canonical NaN (R78, R79). -/
def canonNaN : NumFmt → Nat
  | .f32 => 0x7FC00000 | .f16 => 0x7E00 | .bf16 => 0x7FC0 | .f8a => 0x80 | .f8b => 0x7E
  | _ => 0

/-- The sign bit's weight. -/
def signBit (f : NumFmt) : Nat := 2 ^ (fmtBits f - 1)

/-- The exponent of the subnormal grid: 1 − bias − m (R78). -/
def gridMin (f : NumFmt) : Int := 1 - fmtBias f - manBits f

/-- The encoding of an infinity; F8A has none and gives its NaN (R80). -/
def infBits (f : NumFmt) (neg : Bool) : Nat :=
  if f = .f8a then 0x80 else (if neg then signBit f else 0) + maxFinite f + 1

/-- The encoding of ± a magnitude; F8A has no −0 (R79). -/
def withSign (f : NumFmt) (neg : Bool) (mag : Nat) : Nat :=
  if f = .f8a ∧ mag = 0 then 0 else (if neg then signBit f else 0) + mag

/-- The value of a float encoding (R78). -/
def decodeFloat (f : NumFmt) (x : Nat) : FVal :=
  let neg := signBit f ≤ x
  let mag := x % signBit f
  if f = .f8a ∧ x = 0x80 then .nan false
  else if f ≠ .f8a ∧ mag = maxFinite f + 1 then .inf neg
  else if f ≠ .f8a ∧ maxFinite f + 1 < mag then .nan (!x.testBit (manBits f - 1))
  else
    let ex := mag / 2 ^ manBits f
    let man := mag % 2 ^ manBits f
    if ex = 0 then .fin neg man (gridMin f) else .fin neg (2 ^ manBits f + man) (gridMin f + ex - 1)

/-- The value of an F32 register. -/
def f32Val (x : Word) : FVal := decodeFloat .f32 x.toNat

/-! ### One rounding (R80) -/

/-- A positive exact number n / d × 2^e. -/
structure Exact where
  n : Nat
  d : Nat
  e : Int
  deriving DecidableEq, Repr

/-- x / 2^g as a fraction. -/
def Exact.over (x : Exact) (g : Int) : Nat × Nat :=
  if g ≤ x.e then (x.n * 2 ^ (x.e - g).toNat, x.d) else (x.n, x.d * 2 ^ (g - x.e).toNat)

/-- floor(log2 x) of a positive number. -/
def Exact.log2 (x : Exact) : Int :=
  let l : Int := (Nat.log2 x.n : Int) - (Nat.log2 x.d : Int) + x.e
  let (p, q) := x.over l
  if p < q then l - 1 else l

/-- Round a nonnegative fraction to an integer in a mode, for a value of a sign; whether that was inexact. -/
def roundInt (rm : RMode) (neg : Bool) (p q : Nat) : Nat × Bool :=
  let k := p / q
  let r := p % q
  if r = 0 then (k, false)
  else
    let up :=
      match rm with
      | .rne => decide (q < 2 * r) || (2 * r == q && k % 2 == 1)
      | .rtz => false
      | .rup => !neg
      | .rdn => neg
    (if up then k + 1 else k, true)

/-- Narrow a nonzero finite value to a float format, rounding once (R80). -/
def narrowExact (f : NumFmt) (rm : RMode) (sat neg : Bool) (x : Exact) : Nat × FFlags :=
  let free := x.log2 - manBits f
  let g := max free (gridMin f)
  let (p, q) := x.over g
  let (k, inex) := roundInt rm neg p q
  let mag := ((g - gridMin f).toNat) * 2 ^ manBits f + k
  if maxFinite f < mag then
    let big := sat || (match rm with | .rne => false | .rtz => true | .rup => neg | .rdn => !neg)
    (if big then withSign f neg (maxFinite f) else infBits f neg, fOF ||| fNX)
  else
    let (pf, qf) := x.over free
    let (kf, _) := roundInt rm neg pf qf
    -- tiny: kf × 2^free < 2^(1 − bias) (R80)
    let tiny := decide (free < gridMin f) && decide (kf < 2 ^ (gridMin f - free).toNat * 2 ^ manBits f)
    (withSign f neg mag, flagIf inex fNX ||| flagIf (inex && tiny) fUF)

/-- Narrow any value to a float format (R80). -/
def narrow (f : NumFmt) (rm : RMode) (sat : Bool) (v : FVal) : Nat × FFlags :=
  match v with
  | .nan s => (canonNaN f, flagIf s fNV)
  | .inf neg =>
    if sat then (withSign f neg (maxFinite f), 0)
    else (infBits f neg, flagIf (f = .f8a) fNV)
  | .fin neg m e =>
    if m = 0 then (withSign f neg 0, 0) else narrowExact f rm sat neg { n := m, d := 1, e := e }

/-- Convert any value to an integer in a range: rounded, saturated; a NaN gives 0 (R80, R183). -/
def toIntRange (lo hi : Int) (rm : RMode) (v : FVal) : Int × FFlags :=
  match v with
  | .nan _ => (0, fNV)
  | .inf neg => (if neg then lo else hi, fNV)
  | .fin neg m e =>
    let (p, q) := Exact.over { n := m, d := 1, e := e } 0
    let (k, inex) := roundInt rm neg p q
    let x : Int := if neg then -(k : Int) else k
    if x < lo then (lo, fNV) else if hi < x then (hi, fNV) else (x, flagIf inex fNX)

/-- An integer's value. -/
def intVal (x : Int) : FVal := .fin (decide (x < 0)) x.natAbs 0

/-- Range of an integer format (R78, R182). -/
def intRange : NumFmt → Int × Int
  | .i8 => (-128, 127)
  | .i4 => (-8, 7)
  | .i32 => (-2147483648, 2147483647)
  | _ => (0, 4294967295)

/-- The value of an element in any format (R183). -/
def decodeElem (f : NumFmt) (x : Nat) : FVal :=
  if f.isFloat then decodeFloat f x
  else if f = .ui32 then intVal x else intVal (signedOf (fmtBits f) x)

/-- An element narrowed to any format: its bits and the flags (R80, R183). -/
def encodeElem (f : NumFmt) (rm : RMode) (sat : Bool) (v : FVal) : Nat × FFlags :=
  if f.isFloat then narrow f rm sat v
  else
    let (lo, hi) := intRange f
    let (x, fl) := toIntRange lo hi rm v
    (modPow x (fmtBits f), fl)

/-- A value multiplied by 2^s (R82). -/
def FVal.scale (v : FVal) (s : Int) : FVal :=
  match v with
  | .fin neg m e => .fin neg m (e + s)
  | v => v

/-- Negation. -/
def FVal.neg (v : FVal) : FVal :=
  match v with
  | .fin s m e => .fin (!s) m e
  | .inf s => .inf (!s)
  | v => v

/-- The value is a signalling NaN. -/
def FVal.isSnan (v : FVal) : Bool := v == .nan true
/-- The value is a NaN. -/
def FVal.isNan (v : FVal) : Bool :=
  match v with
  | .nan _ => true
  | _ => false
/-- The value is infinite. -/
def FVal.isInf (v : FVal) : Bool :=
  match v with
  | .inf _ => true
  | _ => false
/-- The value is a zero of either sign. -/
def FVal.isZero (v : FVal) : Bool :=
  match v with
  | .fin _ m _ => m == 0
  | _ => false
/-- The sign of a value; a NaN counts as positive. -/
def FVal.isNeg (v : FVal) : Bool :=
  match v with
  | .fin s _ _ => s
  | .inf s => s
  | .nan _ => false

/-! ### Sums and products (R174, R181) -/

/-- An exact product with its sign; none for 0 × ∞. NaNs are for the caller. -/
def mulVal (a b : FVal) : Option FVal :=
  let s := a.isNeg != b.isNeg
  match a, b with
  | .fin _ m e, .fin _ n f => some (.fin s (m * n) (e + f))
  | .inf _, .fin _ n _ => if n = 0 then none else some (.inf s)
  | .fin _ m _, .inf _ => if m = 0 then none else some (.inf s)
  | .inf _, .inf _ => some (.inf s)
  | x, _ => some x

/-- The least exponent of finite terms. -/
def minExp : List FVal → Int → Int
  | [], a => a
  | .fin _ _ e :: vs, a => minExp vs (min e a)
  | _ :: vs, a => minExp vs a

/-- The sum of finite terms in units of 2^g. -/
def sumAt (g : Int) : List FVal → Int
  | [] => 0
  | .fin s m e :: vs => (if s then -(m * 2 ^ (e - g).toNat : Int) else (m * 2 ^ (e - g).toNat : Int)) + sumAt g vs
  | _ :: vs => sumAt g vs

/-- The exact sum of terms of which none is a NaN, with the sign of a zero sum (R174, R181); none for ∞ − ∞. -/
def sumVals (rm : RMode) (vs : List FVal) : Option FVal :=
  let pos := vs.contains (.inf false)
  let neg := vs.contains (.inf true)
  if pos && neg then none
  else if pos then some (.inf false)
  else if neg then some (.inf true)
  else
    let g := minExp vs 0
    let x := sumAt g vs
    if x = 0 then
      let allZero := vs.all FVal.isZero
      if allZero && vs.all FVal.isNeg then some (.fin true 0 0)
      else if allZero && vs.all (fun v => !v.isNeg) then some (.fin false 0 0)
      else some (.fin (rm == .rdn) 0 0)
    else some (.fin (decide (x < 0)) x.natAbs g)

/-- NV when an input is a signalling NaN. -/
def snanFlags (vs : List FVal) : FFlags := flagIf (vs.any FVal.isSnan) fNV

/-- The canonical NaN with flags. -/
def nanRes (f : NumFmt) (fl : FFlags) : Nat × FFlags := (canonNaN f, fl)

/-- A result rounded to a format, or the invalid case (R174). -/
def finish (f : NumFmt) (rm : RMode) (v : Option FVal) : Nat × FFlags :=
  match v with
  | some v => narrow f rm false v
  | none => nanRes f fNV

/-- a + b in a format (R174). -/
def fAdd (f : NumFmt) (rm : RMode) (a b : Nat) : Nat × FFlags :=
  let x := decodeFloat f a
  let y := decodeFloat f b
  if x.isNan || y.isNan then nanRes f (snanFlags [x, y]) else finish f rm (sumVals rm [x, y])

/-- a − b (R174). -/
def fSub (f : NumFmt) (rm : RMode) (a b : Nat) : Nat × FFlags :=
  let x := decodeFloat f a
  let y := decodeFloat f b
  if x.isNan || y.isNan then nanRes f (snanFlags [x, y]) else finish f rm (sumVals rm [x, y.neg])

/-- a × b (R174). -/
def fMul (f : NumFmt) (rm : RMode) (a b : Nat) : Nat × FFlags :=
  let x := decodeFloat f a
  let y := decodeFloat f b
  if x.isNan || y.isNan then nanRes f (snanFlags [x, y]) else finish f rm (mulVal x y)

/-- a × b + c with one rounding; 0 × ∞ is invalid even when c is a NaN (R174). -/
def fFma (f : NumFmt) (rm : RMode) (a b c : Nat) : Nat × FFlags :=
  let x := decodeFloat f a
  let y := decodeFloat f b
  let z := decodeFloat f c
  if x.isNan || y.isNan then nanRes f (snanFlags [x, y, z])
  else
    match mulVal x y with
    | none => nanRes f fNV
    | some p => if z.isNan then nanRes f (snanFlags [z]) else finish f rm (sumVals rm [p, z])

/-- Compare two values that are not NaN: −1, 0 or 1; −0 equals +0. -/
def cmpVal (a b : FVal) : Int :=
  match a, b with
  | .inf s, .inf t => if s = t then 0 else if s then -1 else 1
  | .inf s, _ => if s then -1 else 1
  | _, .inf t => if t then 1 else -1
  | a, b =>
    let g := minExp [a, b] 0
    let x := sumAt g [a]
    let y := sumAt g [b]
    if x < y then -1 else if x = y then 0 else 1

/-- a is below b in the order of FMIN and FMAX: −0 is less than +0 (R175). -/
def lessVal (a b : FVal) : Bool :=
  if a.isZero && b.isZero then a.isNeg && !b.isNeg else cmpVal a b == -1

/-- FMIN, or FMAX with `big` (R175). -/
def fMinMax (big : Bool) (a b : Nat) : Nat × FFlags :=
  let x := decodeFloat .f32 a
  let y := decodeFloat .f32 b
  if x.isSnan || y.isSnan then (canonNaN .f32, fNV)
  else if x.isNan && y.isNan then (canonNaN .f32, 0)
  else if x.isNan then (b, 0)
  else if y.isNan then (a, 0)
  else if big then (if lessVal x y then b else a, 0)
  else (if lessVal y x then b else a, 0)

/-- FSETP's comparison and its flags (R171). -/
def fCompare (c : Cmp) (a b : Nat) : Bool × FFlags :=
  let x := decodeFloat .f32 a
  let y := decodeFloat .f32 b
  let un := x.isNan || y.isNan
  let quiet := snanFlags [x, y]
  let loud := flagIf un fNV
  let o := cmpVal x y
  match c with
  | .eq => (!un && o == 0, quiet)
  | .ne => (un || o != 0, quiet)
  | .lt => (!un && o == -1, loud)
  | .le => (!un && o != 1, loud)
  | .gt => (!un && o == 1, loud)
  | .ge => (!un && o != -1, loud)
  | .unord => (un, quiet)
  | .ord => (!un, quiet)

/-- FRND: a rounded to an integral value, without NX (R174). -/
def fRound (rm : RMode) (a : Nat) : Nat × FFlags :=
  match decodeFloat .f32 a with
  | .nan s => nanRes .f32 (flagIf s fNV)
  | .inf _ => (a, 0)
  | .fin neg m e =>
    let (p, q) := Exact.over { n := m, d := 1, e := e } 0
    let (k, _) := roundInt rm neg p q
    ((narrow .f32 .rne false (.fin neg k 0)).1, 0)

/-- FCLASS (R176). -/
def fClass (a : Nat) : Nat :=
  match decodeFloat .f32 a with
  | .inf true => 0x001
  | .inf false => 0x080
  | .nan true => 0x100
  | .nan false => 0x200
  | .fin neg m _ =>
    if m = 0 then (if neg then 0x008 else 0x010)
    else if m < 2 ^ 23 then (if neg then 0x004 else 0x020)
    else if neg then 0x002 else 0x040

/-- a / b (R177). -/
def fDiv (rm : RMode) (a b : Nat) : Nat × FFlags :=
  let x := decodeFloat .f32 a
  let y := decodeFloat .f32 b
  let s := x.isNeg != y.isNeg
  match x, y with
  | .nan _, _ => nanRes .f32 (snanFlags [x, y])
  | _, .nan _ => nanRes .f32 (snanFlags [x, y])
  | .inf _, .inf _ => nanRes .f32 fNV
  | .inf _, .fin _ _ _ => (infBits .f32 s, 0)
  | .fin _ _ _, .inf _ => (withSign .f32 s 0, 0)
  | .fin _ m e, .fin _ n f =>
    if n = 0 then (if m = 0 then nanRes .f32 fNV else (infBits .f32 s, fDZ))
    else if m = 0 then (withSign .f32 s 0, 0)
    else narrowExact .f32 rm false s { n := m, d := n, e := e - f }

/-! ### Correctly rounded functions (R95, R177) -/

/-- floor(√x) bit by bit: `k` more bits below the root found so far. -/
def isqrtBits (x : Nat) : Nat → Nat → Nat
  | 0, r => r
  | k + 1, r => isqrtBits x k (if (r + 2 ^ k) * (r + 2 ^ k) ≤ x then r + 2 ^ k else r)

/-- floor(√x). -/
def isqrt (x : Nat) : Nat := isqrtBits x (Nat.log2 x / 2 + 1) 0

/-- A number known as a whole count of 2^e and whether something is left below it: enough for one rounding when the
count has more bits than any format keeps. -/
def sticky (k : Nat) (left : Bool) (e : Int) : Exact :=
  if left then { n := 2 * k + 1, d := 1, e := e - 1 } else { n := k, d := 1, e := e }

/-- √(m × 2^e) with 64 bits and more. -/
def sqrtExact (m : Nat) (e : Int) : Exact :=
  let sh : Nat := 128 + (e % 2).toNat
  let x := m * 2 ^ sh
  let r := isqrt x
  sticky r (decide (r * r ≠ x)) ((e - sh) / 2)

/-- 1 / √(m × 2^e) with 64 bits and more. -/
def rsqrtExact (m : Nat) (e : Int) : Exact :=
  -- 2^(2j) / (m 2^t) with e = t − 2u, t ∈ (0, 1): the root is 2^j / √(m 2^t) × 2^u
  let t : Nat := (e % 2).toNat
  let d := m * 2 ^ t
  let num := 2 ^ 256
  let r := isqrt (num / d)
  sticky r (decide (r * r * d ≠ num)) (-128 - (e - t) / 2)

/-- atanh(n / d) × 2^P = Σ (n/d)^(2i+1) / (2i+1), cut after `k` terms and rounded down term by term: `p` is
(n/d)^(2i+1) × 2^P. -/
def atanhSum (n d : Nat) : Nat → Nat → Nat → Nat
  | 0, _, _ => 0
  | k + 1, i, p => p / (2 * i + 1) + atanhSum n d k (i + 1) (p * n * n / (d * d))

/-- ln 2 × 2^P, below the true value by less than 2 × P units: 2 × atanh(1/3). -/
def ln2Fixed (P : Nat) : Nat := 2 * atanhSum 1 3 (P / 3 + 2) 0 (2 ^ P / 3)

/-- e^x × 2^P for a fixed-point x in [0, 1) by its series, rounded down term by term. -/
def expSum (P x : Nat) : Nat → Nat → Nat → Nat
  | 0, _, p => p
  | k + 1, i, p => p + expSum P x k (i + 1) (p * x / 2 ^ P / (i + 1))

/-- An enclosure: the number lies between lo × 2^e and hi × 2^e. -/
structure Encl where
  lo : Nat
  hi : Nat
  e  : Int

/-- Round a number that is known to lie strictly inside an enclosure and to be no rounding boundary: both ends round
alike, or the next enclosure is taken. -/
def roundEncl (rm : RMode) (neg : Bool) (f : Nat → Encl) : List Nat → Nat × FFlags
  | [] => nanRes .f32 0
  | [P] => narrowExact .f32 rm false neg (sticky (f P).lo true (f P).e)
  | P :: Ps =>
    let c := f P
    let a := narrowExact .f32 rm false neg (sticky c.lo true c.e)
    let b := narrowExact .f32 rm false neg (sticky c.hi true c.e)
    if a = b then a else roundEncl rm neg f Ps

/-- The precisions tried, in bits. -/
def precisions : List Nat := [320, 640, 1280]

/-- 2^f for a fraction f = m / 2^q in (0, 1), at precision P. -/
def exp2Encl (m q : Nat) (i : Int) (P : Nat) : Encl :=
  let x := ln2Fixed P * m / 2 ^ q
  let y := expSum P x P 0 (2 ^ P)
  { lo := y, hi := y + 16 * P, e := i - P }

/-- EXP2 (R177). -/
def fExp2 (rm : RMode) (a : Nat) : Nat × FFlags :=
  match decodeFloat .f32 a with
  | .nan s => nanRes .f32 (flagIf s fNV)
  | .inf neg => (if neg then 0 else infBits .f32 false, 0)
  | .fin neg m e =>
    if m = 0 then (0x3F800000, 0)
    else
      -- x = i + r / 2^q with 0 ≤ r < 2^q
      let q := (-e).toNat
      let x : Int := (if neg then -(m : Int) else m) * 2 ^ e.toNat
      -- beyond this range every result rounds alike
      if (400 : Int) * 2 ^ q < x then narrowExact .f32 rm false false { n := 3, d := 2, e := 400 }
      else if x < -((400 : Int) * 2 ^ q) then narrowExact .f32 rm false false { n := 3, d := 2, e := -400 }
      else
        let i := x / (2 ^ q : Nat)
        let r := (x % (2 ^ q : Nat)).toNat
        if r = 0 then narrowExact .f32 rm false false { n := 1, d := 1, e := i }
        else roundEncl rm false (exp2Encl r q i) precisions

/-- |log2(m × 2^e)| for a value that is no power of two, at precision P: m / 2^l lies in (1, 2). -/
def log2Encl (m : Nat) (e : Int) (P : Nat) : Encl :=
  let l := Nat.log2 m
  let n := m - 2 ^ l
  let d := m + 2 ^ l
  let y := 2 * atanhSum n d (P / 3 + 2) 0 (2 ^ P * n / d)
  -- log2 of the significand × 2^P, rounded down
  let z := y * 2 ^ P / (ln2Fixed P + 4 * P)
  let i : Int := e + l
  if 0 ≤ i then { lo := z + i.toNat * 2 ^ P, hi := z + i.toNat * 2 ^ P + 64 * P, e := -(P : Int) }
  else
    let w := (-i).toNat * 2 ^ P - z
    { lo := w - 64 * P, hi := w, e := -(P : Int) }

/-- LOG2 (R177). -/
def fLog2 (rm : RMode) (a : Nat) : Nat × FFlags :=
  match decodeFloat .f32 a with
  | .nan s => nanRes .f32 (flagIf s fNV)
  | .inf neg => if neg then nanRes .f32 fNV else (infBits .f32 false, 0)
  | .fin neg m e =>
    if m = 0 then (infBits .f32 true, fDZ)
    else if neg then nanRes .f32 fNV
    else
      let l := Nat.log2 m
      if m = 2 ^ l then narrow .f32 rm false (intVal (e + l))
      else roundEncl rm (decide (e + l < 0)) (log2Encl m e) precisions

/-- ln s for a whole number s > 1, at precision P. -/
def lnEncl (s : Nat) (P : Nat) : Encl :=
  let l := Nat.log2 s
  let n := s - 2 ^ l
  let d := s + 2 ^ l
  let y := 2 * atanhSum n d (P / 3 + 2) 0 (2 ^ P * n / d) + l * ln2Fixed P
  { lo := y, hi := y + 64 * P, e := -(P : Int) }

/-- SZB: ln s of an unsigned number (R309). -/
def fLnSize (rm : RMode) (s : Nat) : Nat × FFlags :=
  if s = 0 then (infBits .f32 true, fDZ)
  else if s = 1 then (0, 0)
  else roundEncl rm false (lnEncl s) precisions

/-- arctan(1 / d) × 2^P by its alternating series: terms added and terms subtracted. -/
def atanInv (d : Nat) : Nat → Nat → Nat → Int
  | 0, _, _ => 0
  | k + 1, i, p => (if i % 2 = 0 then (p / (2 * i + 1) : Int) else -(p / (2 * i + 1) : Int)) + atanInv d k (i + 1) (p / (d * d))

/-- π × 2^P, within 64 × P units: 16 arctan(1/5) − 4 arctan(1/239). -/
def piFixed (P : Nat) : Nat :=
  (16 * atanInv 5 (P / 4 + 4) 0 (2 ^ P / 5) - 4 * atanInv 239 (P / 15 + 4) 0 (2 ^ P / 239)).toNat

/-- Σ (−1)^i x^(2i+b) / (2i+b)! × 2^P: the sine (b = 1) or cosine (b = 0) series; `n` is the power of the term `p`. -/
def trigSum (P x : Nat) : Nat → Nat → Bool → Nat → Int
  | 0, _, _, _ => 0
  | k + 1, n, neg, p =>
    (if neg then -(p : Int) else p) +
      trigSum P x k (n + 2) (!neg) (p * x / 2 ^ P * x / 2 ^ P / ((n + 1) * (n + 2)))

/-- sin or cos of 2π × n / 2^q for an angle of at most one eighth turn, n > 0. The precision grows with q, so that
small sines keep theirs. -/
def trigEncl (cosine : Bool) (n q : Nat) (P0 : Nat) : Encl :=
  let P := P0 + 2 * q
  let x := 2 * piFixed P * n / 2 ^ q
  let y := (if cosine then trigSum P x P0 0 false (2 ^ P) else trigSum P x P0 1 false x).toNat
  { lo := y - 512 * P, hi := y + 512 * P, e := -(P : Int) }

/-- sin or cos of 2π × n / 2^q with 0 < n < 2^q / 4: the angle is reflected at one eighth. -/
def quarter (rm : RMode) (neg cosine : Bool) (n q : Nat) : Nat × FFlags :=
  if 8 * n ≤ 2 ^ q then roundEncl rm neg (trigEncl cosine n q) precisions
  else roundEncl rm neg (trigEncl (!cosine) (2 ^ q - 4 * n) (q + 2)) precisions

/-- sin 2πx for x = n / 2^q in [0, 1) and a sign; 2x is no integer. -/
def sinTurns (rm : RMode) (neg : Bool) (n q : Nat) : Nat × FFlags :=
  let one := 2 ^ q
  let neg' := if one < 2 * n then !neg else neg
  let m := if one < 2 * n then 2 * n - one else 2 * n
  -- the half turn, in units of 2^−(q+1): m in (0, 2^q)
  if 2 * m = one then (withSign .f32 neg' 0x3F800000, 0)
  else quarter rm neg' false (if one < 2 * m then one - m else m) (q + 1)

/-- SINT (R177). -/
def fSinT (rm : RMode) (a : Nat) : Nat × FFlags :=
  match decodeFloat .f32 a with
  | .nan s => nanRes .f32 (flagIf s fNV)
  | .inf _ => nanRes .f32 fNV
  | .fin neg m e =>
    let q := (-e).toNat
    let n := m * 2 ^ e.toNat % 2 ^ q
    if 2 * n % 2 ^ q = 0 then (withSign .f32 neg 0, 0) else sinTurns rm neg n q

/-- COST (R177): cos 2πx = sin 2π(|x| + 1/4). -/
def fCosT (rm : RMode) (a : Nat) : Nat × FFlags :=
  match decodeFloat .f32 a with
  | .nan s => nanRes .f32 (flagIf s fNV)
  | .inf _ => nanRes .f32 fNV
  | .fin _ m e =>
    let q := (-e).toNat + 2
    let n := (4 * m * 2 ^ e.toNat + 2 ^ q / 4) % 2 ^ q
    if 2 * n % 2 ^ q = 0 then (0, 0) else sinTurns rm false n q

/-- RCP (R177). -/
def fRcp (rm : RMode) (a : Nat) : Nat × FFlags := fDiv rm 0x3F800000 a

/-- SQRT (R177). -/
def fSqrt (rm : RMode) (a : Nat) : Nat × FFlags :=
  match decodeFloat .f32 a with
  | .nan s => nanRes .f32 (flagIf s fNV)
  | .inf neg => if neg then nanRes .f32 fNV else (a, 0)
  | .fin neg m e =>
    if m = 0 then (a, 0) else if neg then nanRes .f32 fNV else narrowExact .f32 rm false false (sqrtExact m e)

/-- RSQ (R177). -/
def fRsq (rm : RMode) (a : Nat) : Nat × FFlags :=
  match decodeFloat .f32 a with
  | .nan s => nanRes .f32 (flagIf s fNV)
  | .inf neg => if neg then nanRes .f32 fNV else (0, 0)
  | .fin neg m e =>
    if m = 0 then (infBits .f32 neg, fDZ)
    else if neg then nanRes .f32 fNV else narrowExact .f32 rm false false (rsqrtExact m e)

/-! ### Error feedback, quantisation (R91, R92) -/

/-- R91: the narrowed value, the new residue and the flags. -/
def narrowEf (f : NumFmt) (a e : Nat) : Nat × Nat × FFlags :=
  let (s, f1) := fAdd .f32 .rne a e
  let sv := decodeFloat .f32 s
  let (d, f2) := narrow f .rne true sv
  match sv with
  | .fin _ _ _ =>
    let w := (narrow .f32 .rne false (decodeFloat f d)).1
    let (e', f3) := fSub .f32 .rne s w
    (d, e', f1 ||| f2 ||| f3)
  | _ => (d, 0, f1 ||| f2)

/-- The element format of QNT (R184). -/
def qntNum : QntFmt → NumFmt
  | .i8 => .i8
  | .i4 => .i4
  | .f8a => .f8a
  | .f8b => .f8b

/-- EMAX (R92). -/
def qntEmax : QntFmt → Int
  | .i8 => 6
  | .i4 => 2
  | .f8a => 8
  | .f8b => 15

/-- floor(log2 |x|) of a finite nonzero value. -/
def FVal.ilog (v : FVal) : Option Int :=
  match v with
  | .fin _ m e => if m = 0 then none else some ((Nat.log2 m : Int) + e)
  | _ => none

/-- The greatest of a list of integers, if it has one. -/
def maxInt? : List Int → Option Int
  | [] => none
  | x :: xs =>
    match maxInt? xs with
    | none => some x
    | some y => some (max x y)

/-- One lane of a block that is not all zero (R92): q's bits, the new residue and the flags. -/
def qntLane (f : QntFmt) (ef : Bool) (s : Int) (x : Nat) (res : Nat) (f1 : FFlags) : Nat × Nat × FFlags :=
  let nf := qntNum f
  match decodeFloat .f32 x with
  | .nan _ => (canonNaN nf, if ef then 0 else res, f1 ||| fNV)
  | .inf neg =>
    ((match f with
      | .f8b => infBits .f8b neg
      | .f8a => withSign .f8a neg (maxFinite .f8a)
      | .i8 => if neg then 0x80 else 0x7F
      | .i4 => if neg then 0x8 else 0x7), if ef then 0 else res, f1 ||| fOF)
  | v =>
    let (q, f2) := encodeElem nf .rne true (v.scale (-s))
    if ef then
      let w := (decodeElem nf q).scale s
      let (e', f3) :=
        match sumVals .rne [v, w.neg] with
        | some d => narrow .f32 .rne false d
        | none => (0, 0)
      (q, e', f1 ||| f2 ||| f3)
    else (q, res, f1 ||| f2)

/-- R92 over a block: inputs as (x, residue); per lane q, the residue and the flags, and the shared scale. -/
def quantise (f : QntFmt) (ef : Bool) (xs : List (Nat × Nat)) : Int × List (Nat × Nat × FFlags) :=
  let ys := xs.map fun (x, e) => if ef then fAdd .f32 .rne x e else (x, (0 : FFlags))
  let logs := ys.filterMap fun y => (decodeFloat .f32 y.1).ilog
  if logs.isEmpty && xs.all (fun x => (decodeFloat .f32 x.1).isZero) then
    (-128, xs.map fun x => (0, x.2, 0))
  else
    let s : Int :=
      match maxInt? logs with
      | none => -128
      | some l => max (-128) (min 127 (l - qntEmax f))
    (s, (ys.zip xs).map fun (y, x) => qntLane f ef s y.1 x.2 y.2)

/-! ### Accumulators (R87, R88, R90) -/

/-- RNE of an exact value m × 2^e onto the grid of 2^g, as a signed integer. -/
def onGrid (neg : Bool) (m : Nat) (e g : Int) : Int :=
  let (p, q) := Exact.over { n := m, d := 1, e := e } g
  let k := (roundInt .rne neg p q).1
  if neg then -(k : Int) else k

/-- The flag bits of an accumulator element: INFP 1, INFN 2, NAN 4, OVF 8 (R86, R89). -/
def accINFP : BitVec 4 := 1
/-- INFN. -/
def accINFN : BitVec 4 := 2
/-- NAN. -/
def accNAN : BitVec 4 := 4
/-- OVF. -/
def accOVF : BitVec 4 := 8

/-- A contribution in the limits, or 0 with OVF (R87, R90). -/
def limit100 (x : Int) : Int × BitVec 4 := if 2 ^ 100 ≤ x.natAbs then (0, accOVF) else (x, 0)

/-- R87: the contribution of a product a × b × 2^s at an anchor, and the flags it sets. -/
def contribution (a b : FVal) (s anchor : Int) : Int × BitVec 4 :=
  if a.isNan || b.isNan then (0, accNAN)
  else
    match mulVal a b with
    | none => (0, accNAN)
    | some (.inf neg) => (0, if neg then accINFN else accINFP)
    | some (.fin neg m e) => limit100 (onGrid neg m (e + s) anchor)
    | some (.nan _) => (0, accNAN)

/-- An element with a contribution added (R87). -/
def Elem.add (x : Elem) (c : Int × BitVec 4) : Elem := { s := x.s + BitVec.ofInt 128 c.1, fl := x.fl ||| c.2 }

/-- R90: a contribution C at anchor a on the grid of anchor d: the addend and whether OVF is set. -/
def exactAddend (c : Int) (a d : Int) : Int × BitVec 4 :=
  if d ≤ a then limit100 (c * 2 ^ (a - d).toNat) else limit100 (onGrid (decide (c < 0)) c.natAbs a d)

/-- R88: an accumulator element rounded to a format. -/
def roundAcc (f : NumFmt) (rm : RMode) (sat : Bool) (x : Elem) (anchor : Int) : Nat × FFlags :=
  if x.fl &&& (accNAN ||| accOVF) ≠ 0 ∨ x.fl &&& 3 = 3 then (canonNaN f, 0)
  else if x.fl &&& accINFP ≠ 0 then
    (if f = .f8a ∧ sat then maxFinite f else infBits f false, flagIf (f = .f8a && !sat) fNV)
  else if x.fl &&& accINFN ≠ 0 then
    (if f = .f8a ∧ sat then withSign f true (maxFinite f) else infBits f true, flagIf (f = .f8a && !sat) fNV)
  else if x.s = 0 then (0, 0)
  else narrow f rm sat (.fin (decide (x.s.toInt < 0)) x.s.toInt.natAbs anchor)

end Sys2Proof.Machine
end

