-- ==== Sys2Proof/Machine/GlobalMem.lean ====
section
/-!
DEFINITION. Global memory by physical address, and the way of a store to the agents (spec/06_consistency.md).
A store that is not yet visible to every agent is a flight; the list of flights, oldest first, over the base memory is
the coherence order of R122. Agents are numbered: c the threads of core c, 144 + c the sluice of core c, 288 + d the
Weir of die d, 292 the Headgate, 293 the select unit, 294 the Siphon, 295 the host, 296 the peer devices.
Physical addresses: a device HBM address itself; 2^44 + a in Cistern; 2^60 + VF × 2^52 + IOVA in host memory;
2^64 + (peer × 16 + partition) × 2^56 + PPA on a peer.
-/
namespace Sys2Proof.Machine

/-- The agent of the sluice of a core. -/
def agSluice (core : Nat) : Nat := 144 + core
/-- The agent of the Weir of a die. -/
def agWeir (die : Nat) : Nat := 288 + die
/-- The Headgate. -/
def agHeadgate : Nat := 292
/-- The select unit. -/
def agSelect : Nat := 293
/-- The Siphon. -/
def agSiphon : Nat := 294
/-- The host. -/
def agHost : Nat := 295
/-- The peer devices. -/
def agPeer : Nat := 296

/-- Every agent. -/
def maskSys : Nat := 2 ^ 297 - 1
/-- Every agent of the device. -/
def maskDev : Nat := 2 ^ 295 - 1

/-- The agents of a core: its threads and its sluice; its matrix engine reads no global memory (R254). -/
def maskCore (core : Nat) : Nat := 2 ^ core ||| 2 ^ (144 + core)

/-- The agents of a die (R120): for a compute die its cores, their sluices and its Weir; for the hub the steward cores
and the hub engines. -/
def maskDie (core : Nat) : Nat :=
  if isSteward core then (2 ^ 16 - 1) * 2 ^ 128 ||| (2 ^ 16 - 1) * 2 ^ 272 ||| 7 * 2 ^ 292
  else (2 ^ 32 - 1) * 2 ^ (core / 32 * 32) ||| (2 ^ 32 - 1) * 2 ^ (144 + core / 32 * 32) ||| 2 ^ (288 + core / 32)

/-- The agents that a scope contains, seen from a thread of a core (R120). -/
def scopeMask (sc : Scope) (core : Nat) : Nat :=
  match sc with
  | .crew => 2 ^ core
  | .core => maskCore core
  | .die => maskDie core
  | .dev => maskDev
  | .sys => maskSys

/-- The byte of a store at a physical address: where the store names an address twice, its later byte. -/
def cellAt (bs : List Host.Cell) (p : Nat) : Option Byte :=
  match bs with
  | [] => none
  | (a, b) :: cs => (cellAt cs p).or (if a = p then some b else none)

/-- The byte at a physical address as an agent sees it: the latest store in coherence order that it sees (R121). -/
def flightByte (o p : Nat) (old : Byte) : List Flight → Byte
  | [] => old
  | f :: fs =>
    flightByte o p (if f.seen.testBit o then (match cellAt f.bytes p with | some b => b | none => old) else old) fs

/-- Read one byte as an agent. -/
def State.readByte (s : State) (o p : Nat) : Byte := flightByte o p (s.mem.read p) s.flights

/-- Read `n` bytes as an agent. -/
def State.readBytes (s : State) (o p : Nat) : Nat → List Byte
  | 0 => []
  | n + 1 => s.readByte o p :: s.readBytes o (p + 1) n

/-- What one backward pass carries: the masks owed to a writer's earlier flights and to named flights. -/
structure Owed where
  byWriter : List (Writer × Nat)
  byId     : List (Nat × Nat)

/-- The mask owed under a key. -/
def owedTo {κ : Type} [DecidableEq κ] (l : List (κ × Nat)) (k : κ) : Nat :=
  match l with
  | [] => 0
  | (a, m) :: r => (if a = k then m else 0) ||| owedTo r k

/-- Make flights visible: a flight becomes visible only with the earlier flights of its writer (R47, R125) and with the
stores its release names (R127). The pass goes from the latest flight to the oldest. -/
def showFlights (owed : Owed) : List Flight → List Flight × Owed
  | [] => ([], owed)
  | f :: fs =>
    let (fs', o) := showFlights owed fs
    let m := owedTo o.byWriter f.writer ||| owedTo o.byId f.id
    ({ f with seen := f.seen ||| m } :: fs',
     { byWriter := (f.writer, m) :: o.byWriter
       byId := (f.need.map fun n => (n.1, m &&& n.2)) ++ o.byId })

/-- Apply a store's bytes to the base memory. -/
def Memory.apply (m : Memory) (bs : List Host.Cell) : Memory := m.writeAll bs

/-- The oldest flights that every agent sees leave for the base memory. -/
def settle : List Flight → Memory → List Flight × Memory
  | [], m => ([], m)
  | f :: fs, m => if f.seen = maskSys then settle fs (m.apply f.bytes) else (f :: fs, m)

/-- The fields of a partition descriptor (R358). -/
def Part.field (p : Part) (hi lo : Nat) : Nat := bits p.desc.toNat hi lo
/-- QUADS, STEWS, SPRIV, HBASE, HSIZE, CBASE, CSIZE, QUOTA, RSTRIDE of the descriptor (R358). -/
def Part.quads (p : Part) : Nat := p.field 31 0
/-- STEWS (R358). -/
def Part.stews (p : Part) : Nat := p.field 47 32
/-- SPRIV (R358). -/
def Part.spriv (p : Part) : Nat := p.field 63 48
/-- HBASE, in GiB (R358). -/
def Part.hbase (p : Part) : Nat := p.field 72 64
/-- HSIZE, in GiB (R358). -/
def Part.hsize (p : Part) : Nat := p.field 81 73
/-- CBASE, in GiB (R358). -/
def Part.cbase (p : Part) : Nat := p.field 93 82
/-- CSIZE, in GiB (R358). -/
def Part.csize (p : Part) : Nat := p.field 105 94
/-- QUOTA, in pool blocks (R358). -/
def Part.quota (p : Part) : Nat := p.field 159 128
/-- RSTRIDE, in GiB (R358). -/
def Part.rstride (p : Part) : Nat := p.field 168 160

/-- One GiB. -/
def gib : Nat := 2 ^ 30
/-- Where Cistern's physical addresses begin. -/
def cisternBase : Nat := 2 ^ 44
/-- The physical address of a host IOVA of a VF. -/
def hostAddr (vf off : Nat) : Nat := 2 ^ 60 + vf * 2 ^ 52 + off
/-- The physical address of a PPA in a partition of a peer. -/
def peerAddr (peer rvf off : Nat) : Nat := 2 ^ 64 + (peer * 16 + rvf) * 2 ^ 56 + off

/-- The partition of a VF. -/
def State.part (s : State) (vf : Nat) : Part := s.parts.getD vf Part.reset
/-- The state with a partition replaced. -/
def State.setPart (s : State) (vf : Nat) (p : Part) : State := { s with parts := s.parts.set vf p }
/-- The state with a partition changed. -/
def State.modPart (s : State) (vf : Nat) (f : Part → Part) : State := s.setPart vf (f (s.part vf))

/-- Pool block size P = 2^PBSZ (R272, R394). -/
def State.poolBlock (s : State) : Nat := 2 ^ (s.host.poolcfg.extractLsb' 32 5).toNat
/-- The pool's block count (R394). -/
def State.poolCount (s : State) : Nat := (s.host.poolcfg.extractLsb' 0 32).toNat
/-- The pool's base as a device address (R394). -/
def State.poolBase (s : State) : Nat := (s.host.poolcfg.extractLsb' 40 24).toNat * 65536
/-- A pool block's tag (R366). -/
def State.poolTag (s : State) (i : Nat) : PoolTag := s.pool.getD i { owner := 0, sealed := false }
/-- USED: the blocks a partition owns (R366). -/
def State.poolUsed (s : State) (vf : Nat) : Nat := (s.pool.filter fun x => x.2.owner = vf + 1).length

/-- The size of a VF's dirty bitmap (R379). -/
def State.dirtyBits (s : State) (vf : Nat) : Nat :=
  16384 * ((s.part vf).hsize + (s.part vf).csize) + s.poolCount

/-- The dirty bit of a physical address in a VF's bitmap, if it has one (R379). -/
def State.dirtyBit (s : State) (vf p : Nat) : Option Nat :=
  let q := s.part vf
  if q.hbase * gib ≤ p ∧ p < (q.hbase + q.hsize) * gib then some ((p - q.hbase * gib) / 65536)
  else if cisternBase + q.cbase * gib ≤ p ∧ p < cisternBase + (q.cbase + q.csize) * gib then
    some (16384 * q.hsize + (p - cisternBase - q.cbase * gib) / 65536)
  else if s.poolBase ≤ p ∧ p < s.poolBase + s.poolCount * s.poolBlock ∧
      (s.poolTag ((p - s.poolBase) / s.poolBlock)).owner = vf + 1 then
    some (16384 * (q.hsize + q.csize) + (p - s.poolBase) / s.poolBlock)
  else none

/-- The VF is enabled (R394). -/
def State.vfEnabled (s : State) (vf : Nat) : Bool := s.host.vfen.getLsbD vf

/-- Mark a physical address in the dirty bitmap of the partition it belongs to (R380). -/
def State.markDirty (s : State) (p : Nat) : State :=
  (upTo 0 16).foldl (fun st vf =>
    if st.vfEnabled vf then
      match st.dirtyBit vf p with
      | some b => st.modPart vf fun q => { q with dirty := insertNat b q.dirty }
      | none => st
    else st) s

/-- Mark every byte of a store. -/
def State.markCells (s : State) (bs : List Host.Cell) : State := bs.foldl (fun st c => st.markDirty c.1) s

/-- Every agent of the device sees the flight: it is performed at dev scope (R121). -/
def Flight.atDev (f : Flight) : Bool := f.seen &&& maskDev == maskDev

/-- Make flights visible to the agents of masks, with what must go first; stores that are now performed at dev scope
mark the dirty bitmap, and those that every agent sees join the base memory. -/
def State.showAll (s : State) (byId : List (Nat × Nat)) : State :=
  let fl := (showFlights { byWriter := [], byId := byId } s.flights).1
  let newDev := fl.filter fun f => f.atDev && (s.flights.any fun g => g.id == f.id && !g.atDev)
  let (fl', m) := settle fl s.mem
  newDev.foldl (fun st f => st.markCells f.bytes) { s with flights := fl', mem := m }

/-- A new flight at the end of the coherence order, seen by no agent yet. -/
def State.addFlight (s : State) (writer : Writer) (bs : List Host.Cell) (need : List (Nat × Nat)) (atom : Option (Nat × Nat))
    (vf : Nat) : State :=
  { s with flights := s.flights ++ [{ id := s.nextId, writer := writer, bytes := bs, seen := 0, need := need
                                      atom := atom, vf := vf }]
           nextId := s.nextId + 1 }

/-- Perform a store: it takes its place in the coherence order and becomes visible to the agents of a mask. -/
def State.storeAt (s : State) (writer : Writer) (mask : Nat) (bs : List Host.Cell) (need : List (Nat × Nat) := [])
    (atom : Option (Nat × Nat) := none) (vf : Nat := 0) : State :=
  (s.addFlight writer bs need atom vf).showAll [(s.nextId, mask)]

/-- The flights an agent sees. -/
def State.visibleTo (s : State) (o : Nat) : List Nat := (s.flights.filter fun f => f.seen.testBit o).map (·.id)

/-- Make named flights visible to the agents of a mask. -/
def State.showIds (s : State) (ids : List Nat) (mask : Nat) : State :=
  if ids.isEmpty then s else s.showAll (ids.map fun i => (i, mask))

/-- The flights of a writer. -/
def State.flightsOf (s : State) (writer : Writer) : List Nat := (s.flights.filter fun f => f.writer == writer).map (·.id)

/-- Make every flight of a writer visible to the agents of a mask. -/
def State.showWriter (s : State) (writer : Writer) (mask : Nat) : State := s.showIds (s.flightsOf writer) mask

/-- Make named flights visible, each to the agents of its mask. -/
def State.showNeed (s : State) (need : List (Nat × Nat)) : State := if need.isEmpty then s else s.showAll need

/-- Bytes of a value at consecutive physical addresses. -/
def cellsAt (p : Nat) (bs : List Byte) : List Host.Cell :=
  match bs with
  | [] => []
  | b :: r => (p, b) :: cellsAt (p + 1) r

end Sys2Proof.Machine
end

