-- ==== Sys2Proof/Machine/Translate.lean ====
section
/-!
DEFINITION. Translation of virtual addresses: the four-level walk (R361, R362), the levee check and the targets
(R364), the KV pool's tags (R366), the seal and the permissions in the order of R402, cached translations (R119), and
formatted pages (R83, R84).
-/
namespace Sys2Proof.Machine

/-- What an access wants of a leaf (R362). -/
inductive Access where
  | read | write | fetch
  deriving DecidableEq, Repr

/-- Where a physical address lies (R364): its key, its target code, whether its pool block is sealed, and the ports of
a peer window. -/
structure Place where
  key  : Nat
  tgt  : Nat
  poolSealed : Bool
  ports : BitVec 12
  deriving DecidableEq, Repr

/-- A translated access: where it goes, the leaf's format codes, whether the memory is sealed, and the translation to
cache. -/
structure Loc where
  key  : Nat
  tgt  : Nat
  sealed : Bool
  elem : Nat
  geom : Nat
  ports : BitVec 12
  ent  : TlbEnt
  deriving DecidableEq, Repr

/-- A Prejor window of a VF (R396). -/
def HostRegs.window (h : HostRegs) (vf w : Nat) : BitVec 128 := h.pwin.getD (vf * 64 + w) 0

/-- The KV pool as an access meets it (R366): its block size, its block count, its base, and the tag of a block. -/
structure PoolView where
  block : Nat
  count : Nat
  base  : Nat
  tags  : NMap PoolTag

/-- The place of a pool offset for a partition (R366). A pool that POOLCFG places past the 384 GiB of HBM, or in a VF's
carve-out, is taken as it stands: the spec gives no check of it (the model's choice, notes/assumptions/45.md). -/
def PoolView.place (q : PoolView) (vf off : Nat) : Except Cause Place :=
  let tag := q.tags.getD (off / q.block) { owner := 0, sealed := false }
  if ¬ off / q.block < q.count then .error .levee
  else if tag.owner ≠ vf + 1 then .error .poolTag
  else .ok { key := q.base + off, tgt := 2, poolSealed := tag.sealed, ports := 0 }

/-- The place of an offset in a peer window (R396). -/
def windowPlace (w : BitVec 128) (o : Nat) : Except Cause Place :=
  if w.getLsbD 24 ∧ o < (w.extractLsb' 32 32).toNat * 65536 then
    .ok { key := peerAddr (w.extractLsb' 0 8).toNat (w.extractLsb' 20 4).toNat (((w.extractLsb' 64 56).toNat + o) % 2 ^ 56)
          tgt := 4, poolSealed := false, ports := w.extractLsb' 8 12 }
  else .error .peerWindow

/-- The target and the checks of a PPA of a partition (R364, R366, R396). -/
def placeIn (p : Part) (q : PoolView) (h : HostRegs) (vf ppa : Nat) : Except Cause Place :=
  let off := ppa % 2 ^ 52
  match ppa / 2 ^ 52 % 16 with
  | 0 => if off < p.hsize * gib then .ok { key := p.hbase * gib + off, tgt := 0, poolSealed := false, ports := 0 }
         else .error .levee
  | 1 => if off < p.csize * gib then
           .ok { key := cisternBase + p.cbase * gib + off, tgt := 1, poolSealed := false, ports := 0 }
         else .error .levee
  | 2 => q.place vf off
  | 3 => .ok { key := hostAddr vf off, tgt := 3, poolSealed := false, ports := 0 }
  | 4 => windowPlace (h.window vf (off / 2 ^ 46)) (off % 2 ^ 46)
  | _ => .error .pteMalformed

/-- The pool as the state holds it. -/
def State.poolView (s : State) : PoolView :=
  { block := s.poolBlock, count := s.poolCount, base := s.poolBase, tags := s.pool }

/-- The target and the checks of a PPA (R364, R366, R396). -/
def State.place (s : State) (vf ppa : Nat) : Except Cause Place := placeIn (s.part vf) s.poolView s.host vf ppa

/-- A level of the page tables (R361): the lowest VA bit it indexes, how many bits, and the alignment of the table at
the next level. -/
structure Level where
  sh    : Nat
  width : Nat
  leafOk : Bool
  tableOk : Bool
  nextAlign : Nat

/-- The four levels (R361). -/
def levels : List Level :=
  [{ sh := 43, width := 13, leafOk := false, tableOk := true, nextAlign := 65536 },
   { sh := 30, width := 13, leafOk := true, tableOk := true, nextAlign := 4096 },
   { sh := 21, width := 9, leafOk := true, tableOk := true, nextAlign := 256 },
   { sh := 16, width := 5, leafOk := true, tableOk := false, nextAlign := 1 }]

/-- A reserved or malformed format code (R83). -/
def formatBad (elem geom : Nat) : Bool := 6 ≤ elem || (geom == 0 && elem != 0)

/-- A leaf entry is malformed (R362). -/
def leafBad (l : Level) (e : Nat) : Bool :=
  !l.leafOk || bits e 15 13 != 0 || bits e 63 56 != 0 || (bits e 55 16 * 65536) % 2 ^ l.sh != 0 ||
  formatBad (bits e 8 6) (bits e 10 9) || (bits e 12 11 != 0 && !e.testBit 5) || 5 ≤ bits e 55 52

/-- A table entry is malformed (R362). -/
def tableBad (l : Level) (e : Nat) : Bool :=
  !l.tableOk || bits e 7 2 != 0 || bits e 63 56 != 0 || (bits e 55 8 * 256) % l.nextAlign != 0 || 5 ≤ bits e 55 52

/-- A table address that fails its check takes LEVEE, whatever the check (R402, step 2). -/
def tableCause : Cause → Cause
  | .poolTag | .peerWindow => .levee
  | c => c

/-- The host's IOMMU refuses an access (R364, R393). -/
def State.iommuRefuses (s : State) (vf tgt key : Nat) : Bool :=
  tgt == 3 && s.host.iommu.contains (vf, (key - hostAddr vf 0) / 4096)

/-- What only the target of an access reports, once it has been sent (R402, step 7): an IOMMU refusal, and a window whose ports
are all lost. -/
def State.sentCause (s : State) (vf tgt key : Nat) (ports : BitVec 12) : Option Cause :=
  if s.iommuRefuses vf tgt key then some .iommuFault
  else if tgt == 4 && (ports &&& ~~~s.host.portsDown) == 0 then some .linkDown
  else none

/-- The walk (R361, R362): the leaf, the size of its page, and the physical address of its entry. Each table access meets the
checks of R364. -/
def State.walk (s : State) (o vf va : Nat) : List Level → Nat → Except Cause (Nat × Nat × Nat)
  | [], _ => .error .pteMalformed
  | l :: ls, table =>
    match s.place vf (table + 8 * (va / 2 ^ l.sh % 2 ^ l.width)) with
    | .error c => .error (tableCause c)
    | .ok p =>
      match s.sentCause vf p.tgt p.key p.ports with
      | some c => .error c
      | none =>
        let e := natOf (s.readBytes o p.key 8)
        if !e.testBit 0 then .error .pageNotPresent
        else if e.testBit 1 then
          if leafBad l e then .error .pteMalformed else .ok (e, 2 ^ l.sh, p.key)
        else if tableBad l e then .error .pteMalformed
        else State.walk s o vf va ls (bits e 55 8 * 256)

/-- The port that carries an access to a window: VA bits 12:8 choose among the given ports (R396; notes/assumptions/12.md); 12 for
none. -/
def portOf (ports : BitVec 12) (va : DWord) : Nat :=
  let ps := (upTo 0 12).filter fun i => ports.getLsbD i
  ps.getD (bits va.toNat 12 8 % max 1 ps.length) 12

/-- The port that an access takes at its issue: one of the window's ports that are not lost (R396). -/
def State.portFor (s : State) (l : Loc) (va : DWord) : Nat := portOf (l.ports &&& ~~~s.host.portsDown) va

/-- Who looks a translation up (R119): a thread through the L1 TLB of its lane group, core and lane group in one number; an
engine, which has no L1, by its core alone. -/
def tlbPort (k : Nat) : Nat := (lgrpOf k + 1) * 1024 + coreOf k

/-- The caches that a port looks in, in order, with their entries (R14, R119): the lane group's L1, the core's L2, the compute
die's walk cache. -/
def tlbLevels (port : Nat) : List (Nat × Nat) :=
  let core := port % 1024
  (if 1024 ≤ port then [(port, 64)] else []) ++ [(core, 1024)] ++ (if isSteward core then [] else [(65536 + core / 32, 16384)])

/-- The translation covers a VA of a partition. -/
def TlbEnt.covers (t : TlbEnt) (vf va : Nat) : Bool := t.vf == vf && decide (t.va ≤ va) && decide (va < t.va + t.size)

/-- The cached translation of a VA at a port, if there is one (R119). -/
def State.cached? (s : State) (vf port va : Nat) : Option TlbEnt :=
  (tlbLevels port).findSome? fun x => s.tlb.find? fun t => t.core == x.1 && t.covers vf va

/-- The leaf that translates a VA at a port: cached, or walked (R119, R361). -/
def State.leafFor (s : State) (o vf port va : Nat) : Except Cause TlbEnt :=
  match s.cached? vf port va with
  | some t => .ok { t with core := port }
  | none =>
    match s.walk o vf va levels ((s.part vf).ptroot.toNat / 65536 % 2 ^ 40 * 65536) with
    | .error c => .error c
    | .ok (e, size, pte) =>
      .ok { vf := vf, core := port, va := va / size * size, size := size, leaf := BitVec.ofNat 64 e, pte := pte }

/-- The replicas of a sealed leaf all are HBM targets that pass the levee check (R363). -/
def Part.replicasOk (p : Part) (ppa r : Nat) : Bool :=
  (upTo 1 r).all fun k =>
    let q := ppa + k * p.rstride * gib
    q / 2 ^ 52 == 0 && decide (q < p.hsize * gib)

/-- The copy that serves a read: the first in the order primary, 1, 2, 3 on the reader's die, else the primary
(R363). -/
def Part.replicaKey (p : Part) (core ppa r primary : Nat) : Nat :=
  if r = 0 ∨ isSteward core then primary
  else
    match (upTo 0 (r + 1)).find? fun k =>
        (p.hbase * gib + (ppa + k * p.rstride * gib)) / (96 * gib) == core / 32 &&
        (k != 0 || ppa / 2 ^ 52 == 0) with
    | some 0 => primary
    | some k => p.hbase * gib + (ppa + k * p.rstride * gib)
    | none => primary

/-- RCNT of a leaf, while SEAL is 1 (R363). -/
def leafCopies (e : Nat) : Nat := if e.testBit 5 then bits e 12 11 else 0

/-- What a leaf and the place of its address make of an access (R402, steps 4 and 5): the seal, the permissions, in that order; a
read goes to the replica that serves it (R363). -/
def leafAccess (q : Part) (core : Nat) (t : TlbEnt) (ppa : Nat) (p : Place) (acc : Access) : Except Cause Loc :=
  let e := t.leaf.toNat
  let sl := e.testBit 5 || p.poolSealed
  let rc := leafCopies e
  if acc == .write && sl then .error .sealed
  else if (match acc with
           | .read => !e.testBit 2
           | .write => !e.testBit 3
           | .fetch => !e.testBit 4 || !e.testBit 5) then .error .pageProtect
  else
    let key := if acc == .write then p.key else q.replicaKey core ppa rc p.key
    .ok { key := key, tgt := p.tgt, sealed := sl, elem := bits e 8 6, geom := bits e 10 9, ports := p.ports, ent := t }

/-- Translate one access at a port (R402, steps 2 to 5). A replica outside the levee fails the walk (R363), so it comes before what
the leaf's own address meets. -/
def State.xlate (s : State) (o vf port va : Nat) (acc : Access) : Except Cause Loc :=
  match s.leafFor o vf port va with
  | .error c => .error c
  | .ok t =>
    let ppa := bits t.leaf.toNat 55 16 * 65536 + (va - t.va)
    if leafCopies t.leaf.toNat ≠ 0 ∧ ¬ (s.part vf).replicasOk ppa (leafCopies t.leaf.toNat) then .error .levee
    else
      match s.place vf ppa with
      | .error c => .error c
      | .ok p => leafAccess (s.part vf) (port % 1024) t ppa p acc

/-- The newest n translations of a cache stay; those of the other caches are not touched. -/
def keepNewest (store : Nat) : Nat → List TlbEnt → List TlbEnt
  | _, [] => []
  | n, t :: ts =>
    if t.core = store then
      match n with
      | 0 => keepNewest store 0 ts
      | n + 1 => t :: keepNewest store n ts
    else t :: keepNewest store n ts

/-- A cache takes a translation that it does not hold; when it is full, its oldest one goes (notes/assumptions/15.md). -/
def cacheIn (ts : List TlbEnt) (t : TlbEnt) (level : Nat × Nat) : List TlbEnt :=
  if ts.any fun u => u.core == level.1 && u.vf == t.vf && u.va == t.va && u.size == t.size then ts
  else { t with core := level.1 } :: keepNewest level.1 (level.2 - 1) ts

/-- Keep a translation in the caches of the port that has used it (R119). -/
def State.keep (s : State) (t : TlbEnt) : State :=
  { s with tlb := (tlbLevels t.core).foldl (fun ts l => cacheIn ts t l) s.tlb }

/-- Data bytes b per block of a formatted page (R83). -/
def blockLen (geom : Nat) : Nat := if geom = 1 then 16 else if geom = 2 then 32 else 64

/-- Blocks per formatted 64 KiB page (R84). -/
def blocksPerPage (b : Nat) : Nat := 65536 / (b + 1) / 16 * 16

/-- The address lies in the reserved tail of a page of the given geometry (R84). -/
def tailAt (geom va : Nat) : Bool :=
  geom != 0 && decide (blocksPerPage (blockLen geom) * (blockLen geom + 1) ≤ va % 65536)

/-- The address lies in the reserved tail of a formatted page (R84). -/
def inTail (l : Loc) (va : Nat) : Bool := tailAt l.geom va

/-- The cells that a store of bytes at an address of a page writes: those of its reserved tail are discarded (R84). -/
def Loc.cells (l : Loc) (va : Nat) (bs : List Byte) : List Host.Cell :=
  ((cellsAt l.key bs).zip (upTo va bs.length)).filterMap fun (x, a) => if inTail l a then none else some x

/-- The bytes that an agent reads at an address of a page: those of its reserved tail are 0 (R84). -/
def State.readLoc (s : State) (o : Nat) (l : Loc) (va n : Nat) : List Byte :=
  (upTo 0 n).map fun i => if inTail l (va + i) then 0 else s.readByte o (l.key + i)

/-- An access that has passed steps 1 to 6 of R402 is sent to its target, which may refuse it (step 7); one to a reserved tail is
not sent (R84). -/
def State.sendTo (s : State) (vf va : Nat) (l : Loc) : Except Cause Loc :=
  if inTail l va then .ok l
  else
    match s.sentCause vf l.tgt l.key l.ports with
    | some c => .error c
    | none => .ok l

/-- Translate and then meet the causes that only the target reports (R402, step 7). -/
def State.access (s : State) (o vf port va : Nat) (acc : Access) : Except Cause Loc :=
  match s.xlate o vf port va acc with
  | .error c => .error c
  | .ok l => s.sendTo vf va l

end Sys2Proof.Machine
end

