-- ==== Sys2Proof/Machine/Ops.lean ====
section
/-!
DEFINITION. The named operations over threads, registers, bundles, scratchpad and signals; parking and filing
(R24 to R33); register grants (R43); taking a trap and returning from one (R348, R349); the halt line (R351); the operand
log and imprecise causes (R45, R46, R350).
-/
namespace Sys2Proof.Machine

/-! ### Threads and their registers -/

/-- The thread of a key. -/
def State.thread? (s : State) (k : Nat) : Option Thread := s.threads.find? k
/-- The state with a thread replaced. -/
def State.setThread (s : State) (k : Nat) (t : Thread) : State := { s with threads := s.threads.set k t }
/-- The state with a thread changed. -/
def State.modThread (s : State) (k : Nat) (f : Thread → Thread) : State :=
  { s with threads := s.threads.modify k f }

/-- The thread whose part of the word is performed now. -/
def State.cur? (s : State) : Option Nat :=
  match s.issue with
  | some b => b.todo.head?
  | none => none

/-- General register n. -/
def Thread.reg (t : Thread) (n : Nat) : Word := t.regs.getD n 0
/-- General register of an operand field. -/
def Thread.r (t : Thread) (r : Reg) : Word := t.reg r.toNat
/-- A pair, the even register the less significant half (R10). -/
def Thread.pair (t : Thread) (r : Reg) : DWord := pairOf (t.reg r.toNat) (t.reg (r.toNat + 1))
/-- `n` consecutive registers. -/
def Thread.rs (t : Thread) (r : Reg) (n : Nat) : List Word := (upTo r.toNat n).map t.reg
/-- Write one register. -/
def Thread.setReg (t : Thread) (n : Nat) (v : Word) : Thread := { t with regs := t.regs.set n v }
/-- Write consecutive registers. -/
def Thread.setRegs (t : Thread) (n : Nat) : List Word → Thread
  | [] => t
  | v :: vs => Thread.setRegs (t.setReg n v) (n + 1) vs
/-- Write a pair. -/
def Thread.setPair (t : Thread) (r : Reg) (v : DWord) : Thread := t.setRegs r.toNat [loWord v, hiWord v]
/-- A predicate; p7 is always true (R22). -/
def Thread.pred (t : Thread) (p : Pred) : Bool := p == 7 || t.preds.getLsbD p.toNat
/-- Write a predicate; a write to p7 is discarded (R22). -/
def Thread.setPred (t : Thread) (p : Pred) (v : Bool) : Thread :=
  if p == 7 then t
  else { t with preds := (t.preds &&& ~~~(1#7 <<< p.toNat)) ||| ((BitVec.ofBool v).setWidth 7 <<< p.toNat) }
/-- The guard is true (R148). -/
def Thread.guard (t : Thread) (g : Guard) : Bool := t.pred g.ps != g.pn
/-- The thread runs privileged: SSTAT.PRIV (R346). -/
def Thread.priv (t : Thread) : Bool := t.tr.sstat.getLsbD 0
/-- The thread runs a trap handler: SSTAT.INTRAP (R346). -/
def Thread.inTrap (t : Thread) : Bool := t.tr.sstat.getLsbD 2
/-- The thread's crew's key. -/
def Thread.crewKey (t : Thread) (k : Nat) : Nat := coreOf k * 64 + t.crew
/-- The thread's lane in its gang: sv.lane (R23); 0 on a steward core. -/
def laneInGang (k : Nat) : Nat := laneOf k % 32
/-- The thread as the writer of its stores: one restored in another slot is the same writer (R123, R372). -/
def Thread.writer (t : Thread) (k : Nat) : Writer := .thread (t.crewKey k) t.gang (laneInGang k)

/-- A write of a register of a thread. -/
def State.setReg (s : State) (k : Nat) (r : Reg) (v : Word) : State := s.modThread k fun t => t.setReg r.toNat v
/-- A write of a pair of a thread. -/
def State.setPair (s : State) (k : Nat) (r : Reg) (v : DWord) : State := s.modThread k fun t => t.setPair r v
/-- A write of a predicate of a thread. -/
def State.setPred (s : State) (k : Nat) (p : Pred) (v : Bool) : State := s.modThread k fun t => t.setPred p v

/-! ### Crews, cores, queues -/

/-- The crew of a key. -/
def State.crew? (s : State) (c : Nat) : Option Crew := s.crews.find? c
/-- The state with a crew changed. -/
def State.modCrew (s : State) (c : Nat) (f : Crew → Crew) : State := { s with crews := s.crews.modify c f }
/-- A core's registers. -/
def State.coreRegs (s : State) (c : Nat) : CoreRegs := s.cores.getD c CoreRegs.reset
/-- A lane group. -/
def State.lg (s : State) (n : Nat) : LaneGroup := s.lgs.getD n LaneGroup.reset
/-- The state with a lane group changed. -/
def State.modLg (s : State) (n : Nat) (f : LaneGroup → LaneGroup) : State :=
  { s with lgs := s.lgs.set n (f (s.lg n)) }
/-- A queue. -/
def State.queue (s : State) (q : Nat) : Queue := s.queues.getD q Queue.reset
/-- The state with a queue changed. -/
def State.modQueue (s : State) (q : Nat) (f : Queue → Queue) : State :=
  { s with queues := s.queues.set q (f (s.queue q)) }
/-- The task of a crew. -/
def State.task? (s : State) (c : Nat) : Option Task := (s.crew? c).bind (·.task)
/-- The state with a crew's task changed. -/
def State.modTask (s : State) (c : Nat) (f : Task → Task) : State :=
  s.modCrew c fun cr => { cr with task := cr.task.map f }
/-- The threads of a crew: keys and threads, in order of key. -/
def State.crewThreads (s : State) (c : Nat) : NMap Thread :=
  s.threads.filter fun x => coreOf x.1 == c / 64 && x.2.crew == c % 64
/-- The state with every thread of a crew changed. -/
def State.modCrewThreads (s : State) (c : Nat) (f : Nat → Thread → Thread) : State :=
  { s with threads := s.threads.mapKV fun k t => if coreOf k == c / 64 && t.crew == c % 64 then f k t else t }
/-- The evicted threads of a crew. -/
def State.crewEvicted (s : State) (c : Nat) : List Evicted :=
  s.evicted.filter fun e => coreOf e.key == c / 64 && e.t.crew == c % 64

/-! ### Bundles: retiring, leaving, stalling -/

/-- The lookahead windows once the thread is past its word (R150): those of its clause that cover the next one, and those of
a clause that a trap has interrupted. -/
def Thread.tickWins (t : Thread) : List Window := t.wins.filter fun w => w.cb != t.cb || decide (t.pc.toNat < w.last.toNat)

/-- The windows of a thread that has just issued a word with lookahead LA: the next LA words of the clause (R150). -/
def Thread.openWin (t : Thread) (la : Nat) (dests : List Nat) (isFloat : Bool) : List Window :=
  if la = 0 then t.wins
  else t.wins ++ [{ cb := t.cb, last := t.pc + BitVec.ofNat 64 (8 * la) - 8, dests := dests, isFloat := isFloat }]

/-- The lookahead windows when the thread's clause ends (R150). -/
def Thread.endWins (t : Thread) : List Window := t.wins.filter fun w => w.cb != t.cb

/-- The thread has issued its word: the next PC, one more word issued, the windows one word shorter; a hold of R66 on it is over. -/
def Thread.next (t : Thread) : Thread :=
  { t with pc := t.pc + 8, issued := t.issued + 1, wins := t.tickWins, passed := false, rsHold := false }

/-- The thread has issued a word that has not retired: it is in the operand log (R46, R350), or it has met an imprecise cause. -/
def Thread.skip (t : Thread) : Thread := { t.next with unret := (t.issued + 1) :: t.unret }

/-- The thread has taken a transfer to a clause header (R160). -/
def Thread.jump (t : Thread) (target : DWord) : Thread :=
  { t with pc := target, cb := target, issued := t.issued + 1, wins := t.endWins, passed := false, rsHold := false }

/-- A word of the thread that had not retired has retired. -/
def Thread.retires (t : Thread) (n : Nat) : Thread := { t with unret := t.unret.erase n }

/-- The words that have retired since the nth word was issued: SKID of its cause (R45, R350). -/
def Thread.skidFrom (t : Thread) (n : Nat) : Nat := t.issued - n - (t.unret.filter fun u => decide (n < u)).length

/-- The bundle that is issuing no longer waits for a thread's part of the word. -/
def State.popTodo (s : State) (k : Nat) : State :=
  { s with issue := s.issue.map fun b => { b with todo := b.todo.erase k, begun := true } }

/-- The issue is the replay of a log entry. -/
def State.replaying (s : State) : Bool :=
  match s.issue with
  | some b => b.replay.isSome
  | none => false

/-- The number of the word that a thread issues, or of the logged one that it replays (R45, R350). -/
def State.wordNo (s : State) (t : Thread) : Nat :=
  if s.replaying then (t.log.head?.map (·.at_)).getD t.issued else t.issued + 1

/-- The bundle that issues the word, or that issued the logged word of a replay, by the cycle after its formation (R113). -/
def State.wordBundle (s : State) (t : Thread) : Nat :=
  match s.issue with
  | some b => if b.replay.isSome then (t.log.head?.map (·.bundle)).getD 0 else b.formed + 1
  | none => 0

/-- The thread retires its word. In a replay only the entry is done; the PC stays. -/
def State.retire (s : State) (k : Nat) : State :=
  if s.replaying then s.popTodo k else (s.modThread k Thread.next).popTodo k

/-- The thread retires a transfer to a target. -/
def State.retireTo (s : State) (k : Nat) (target : DWord) : State :=
  (s.modThread k fun t => t.jump target).popTodo k

/-- The thread leaves the bundle it belongs to, which is then a reform point (R26). -/
def State.leave (s : State) (k : Nat) : State :=
  { s with issue := s.issue.map fun b =>
      if b.members.contains k then
        { b with members := b.members.erase k, todo := b.todo.erase k, dissolve := true, begun := true }
      else b }

/-- The thread that has ended leaves its bundle, which stays together: an EXIT is no reform point (R26). -/
def State.drop (s : State) (k : Nat) : State :=
  { s with issue := s.issue.map fun b =>
      { b with members := b.members.erase k, todo := b.todo.erase k, begun := true } }

/-- The bundle is not ready: it is passed over (R30). -/
def State.stall (s : State) : State := { s with issue := s.issue.map fun b => { b with stalled := true } }

/-! ### Furrows and parking -/

/-- The threads of a lane group. -/
def State.lgThreads (s : State) (core lg : Nat) : NMap Thread :=
  s.threads.filter fun x => coreOf x.1 == core && lgrpOf x.1 == lg

/-- The filing time of a thread that is filed in this cycle. -/
def State.fileTime (s : State) : Nat := s.now + 4096

/-- The furrow of a filed thread. -/
def Thread.filed? (t : Thread) : Option Nat :=
  match t.phase with
  | .filed f => some f
  | _ => none

/-- The furrow that takes a thread (R27): the one with its crew and next PC, else the lowest free one of 0 to 30, else
the catch furrow 31. -/
def State.furrowFor (s : State) (core lg crew : Nat) (pc : DWord) : Nat :=
  let fs := (s.lgThreads core lg).filterMap fun x => x.2.filed?.map fun f => (f, x.2.crew, x.2.pc)
  match fs.find? fun f => decide (f.1 < 31) && f.2.1 == crew && f.2.2 == pc with
  | some f => f.1
  | none => ((upTo 0 31).find? fun n => !(fs.any fun f => f.1 == n)).getD 31

/-- The threads of a lane group that are filed in this cycle, in order of core lane. -/
def State.filedNow (s : State) (core lg : Nat) : List Nat :=
  ((s.lgThreads core lg).filter fun x => x.2.filed?.isSome && x.2.since == s.now).map (·.1)

/-- A thread takes its place in a furrow (R27). -/
def State.placeFiled (s : State) (k : Nat) : State :=
  s.modThread k fun t => { t with phase := .filed (s.furrowFor (coreOf k) (lgrpOf k) t.crew t.pc) }

/-- The threads that a lane group files in one cycle take their places in order of core lane, whatever the order in which
the model's steps file them (R27). -/
def State.refile (s : State) (core lg : Nat) : State :=
  let ks := s.filedNow core lg
  let s := ks.foldl (fun (st : State) k => st.modThread k fun t => { t with phase := .active }) s
  ks.foldl (fun (st : State) k => st.placeFiled k) s

/-- File a thread by its next PC, with a filing time (R27). -/
def State.file (s : State) (time : Nat) (k : Nat) : State :=
  (s.modThread k fun t => { t with phase := .filed 31, ftime := time, since := s.now }).refile (coreOf k) (lgrpOf k)

/-- File threads in order of core lane (R27). -/
def State.fileAll (s : State) (time : Nat) (ks : List Nat) : State := ks.foldl (fun st k => st.file time k) s

/-- Park the thread at its instruction (R33). -/
def State.park (s : State) (k : Nat) (why : Park) : State :=
  let s := s.modThread k fun t => { t with phase := .parked why s.nextId, since := s.now }
  { s.leave k with nextId := s.nextId + 1 }

/-- A bundle of one thread, at the back of its lane group's rotation. The spec does not say whether a handler's bundle is
the one that R29 lets a lane group form in a cycle: it is counted (DESIGN CHOICE, notes/assumptions/8.md). -/
def State.soloBundle (s : State) (k : Nat) : State :=
  s.modLg (coreOf k * 4 + lgrpOf k) fun l =>
    { l with rotation := l.rotation ++
        [{ core := coreOf k, lgrp := lgrpOf k, members := [k], todo := [k], formed := s.now, dissolve := false
           stalled := false, replay := none, uniform := false }] }

/-! ### Register blocks (R42, R43) -/

/-- The free blocks of a lane, lowest first. -/
def State.freeBlocks (s : State) (core lane : Nat) : List Nat :=
  let used := (s.threads.filter fun x => coreOf x.1 == core && laneOf x.1 == lane).flatMap fun x => x.2.blocks
  (upTo 0 128).filter fun b => !used.contains b

/-- The key of a physical register in the store of unowned registers. -/
def physKey (core lane n : Nat) : Nat := core * 131072 + lane * 1024 + n

/-- Blocks given up by a thread keep their bytes in the physical store (R107). -/
def State.dropBlocks (s : State) (core lane : Nat) (blocks : List Nat) (vals : List Word) : State :=
  (blocks.zip (upTo 0 blocks.length)).foldl (fun st (b, i) =>
    (upTo 0 8).foldl (fun st j =>
      let v := vals.getD (8 * i + j) 0
      let key := physKey core lane (8 * b + j)
      { st with phys := if v = 0 then st.phys.erase key else st.phys.set key v }) st) s

/-- Give a thread blocks until it holds `want`: new registers read 0 (R43). -/
def State.growTo (s : State) (k want : Nat) : State :=
  match s.thread? k with
  | none => s
  | some t =>
    let take := (s.freeBlocks (coreOf k) (laneOf k)).take (want - t.alloc)
    s.setThread k { t with alloc := want, blocks := t.blocks ++ take
                           regs := t.regs ++ List.replicate (8 * (want - t.alloc)) 0 }

/-- Reduce a thread's allocation: the registers above it are discarded (R43). -/
def State.shrinkTo (s : State) (k want : Nat) : State :=
  match s.thread? k with
  | none => s
  | some t =>
    (s.dropBlocks (coreOf k) (laneOf k) (t.blocks.drop want) (t.regs.drop (8 * want))).setThread k
      { t with alloc := want, blocks := t.blocks.take want, regs := t.regs.take (8 * want) }

/-- The blocks a thread parked on GRANT still waits for, with its place in the queue. -/
def Thread.waits? (t : Thread) : Option (Nat × Nat) :=
  match t.phase with
  | .parked (.grant b) order => if t.alloc < b then some (b, order) else none
  | _ => none

/-- The grant queue of a lane: (thread, blocks asked, place), oldest request first (R43). -/
def State.grantQueue (s : State) (core lane : Nat) : List (Nat × Nat × Nat) :=
  sortBy (fun a b => decide (a.2.2 ≤ b.2.2))
    ((s.threads.filter fun x => coreOf x.1 == core && laneOf x.1 == lane).filterMap fun x =>
      x.2.waits?.map fun w => (x.1, w.1, w.2))

/-- Serve the head of a lane's grant queue while its blocks are there (R43), for at most `fuel` requests. -/
def State.serveGrants (s : State) (core lane : Nat) : Nat → State
  | 0 => s
  | fuel + 1 =>
    match s.grantQueue core lane with
    | [] => s
    | (k, b, _) :: _ =>
      match s.thread? k with
      | none => s
      | some t =>
        if b - t.alloc ≤ (s.freeBlocks core lane).length then (s.growTo k b).serveGrants core lane fuel else s

/-! ### Scratchpad and sectors (R15, R105, R109) -/

/-- The on-chip map address of a core's scratchpad byte (R107). -/
def mapAddr (core off : Nat) : Nat := core * 2 ^ 24 + off
/-- The map address of a crew-relative address (R105). -/
def crewAddr (core : Nat) (c : Crew) (a : Nat) : Nat := mapAddr core (c.base * 2048 + a)
/-- A sector's state, by the map address divided by 32 (R109). -/
def State.sector (s : State) (n : Nat) : Sector := s.sectors.getD n .ready
/-- The state with a sector's state set; READY is what an unlisted sector is. -/
def State.setSector (s : State) (n : Nat) (v : Sector) : State :=
  { s with sectors := if v = .ready then s.sectors.erase n else s.sectors.set n v }
/-- Set many sectors. -/
def State.setSectors (s : State) (ns : List Nat) (v : Sector) : State := ns.foldl (fun st n => st.setSector n v) s
/-- Read scratchpad bytes by map address. -/
def State.readScr (s : State) (a : Nat) : Nat → List Byte
  | 0 => []
  | n + 1 => s.scratch.read a :: s.readScr (a + 1) n
/-- Write scratchpad bytes by map address. -/
def State.writeScr (s : State) (a : Nat) (bs : List Byte) : State :=
  { s with scratch := s.scratch.writeAll (cellsAt a bs) }
/-- The presence bit of a sector (R109). -/
def Sector.present : Sector → Bool
  | .ready => true
  | .draining => true
  | _ => false
/-- An address lies in one of the crew's live regions of the task with this handle, or in any live region (R64, R205). -/
def Crew.inRegion (c : Crew) (task : Option Word) (a n : Nat) : Bool :=
  c.regions.any fun r => r.row * 2048 ≤ a && a + n ≤ (r.row + r.rows) * 2048 && r.task == task && task.isSome
/-- The handle of the crew's map table entry n (R304). -/
def Crew.mapHandle (c : Crew) (n : Nat) (m : MapEntry) : Word := BitVec.ofNat 32 (n + c.gen % 256 * 256 + m.serial % 65536 * 65536)
/-- The entries of the crew's map table with their numbers. -/
def Crew.mapSlots (c : Crew) : List (MapEntry × Nat) := c.maps.zip (upTo 0 c.maps.length)
/-- The entry that a map handle names, with its number, when the handle is valid (R304). -/
def Crew.mapOf (c : Crew) (h : Word) : Option (MapEntry × Nat) := c.mapSlots.find? fun x => x.1.live && c.mapHandle x.2 x.1 == h
/-- Maps end, named by entry and slot: their entries are released and the child-live bits of their parents cleared (R304,
R305). -/
def Crew.dropMaps (c : Crew) (p : MapEntry → Nat → Bool) : Crew :=
  let gone := (c.mapSlots.filter fun x => x.1.live && p x.1 x.2).map (·.1)
  { c with maps := c.mapSlots.map fun (m, n) =>
      if m.live && p m n then { m with live := false, child := false }
      else if gone.any fun x => x.parent == c.mapHandle n m then { m with child := false }
      else m }
/-- The bytes [a, a + n) lie in the crew's allocation and outside its write buffer (R105, R106). -/
def Crew.inAlloc (c : Crew) (a n : Nat) : Bool := decide (a + n ≤ (c.rows - c.wbuf) * 2048)

/-! ### The halt line (R351) and traps (R348, R349) -/

/-- HALTREC's image (R351). -/
def haltrecOf (c : Cause) (soft : Bool) (core lane slot code : Nat) : DWord :=
  BitVec.ofNat 64 (c.code + (if soft then 128 else 0) + core % 256 * 256 + lane % 128 * 65536 + slot % 16 * 8388608 +
    code % 2 ^ 32 * 2 ^ 32)

/-- The number of an agent that stops with its partition: a thread has its key, a matrix engine this. -/
def agentMatrix (core : Nat) : Nat := 400000 + core
/-- A unit as an agent, by its number in the list of fenced units. -/
def agentUnit (code : Nat) : Nat := 500000 + code
/-- The agent that stands for the SMC in the record of a halt (R399). -/
def agentSmc : Nat := 600000

/-- Raise the partition halt line: the first event latches HALTREC, and every one is recorded with its agent's record (R351,
R352). -/
def State.haltLine (s : State) (vf agent : Nat) (c : Cause) (soft : Bool) (core lane slot code : Nat) : State :=
  s.modPart vf fun p =>
    let p := { p with events := (agent, c.code) :: p.events }
    match p.line with
    | .running =>
      { p with haltrec := haltrecOf c soft core lane slot code, line := .stopping true s.now none, stopped := [] }
    | .stopping false since _ =>
      { p with haltrec := haltrecOf c soft core lane slot code, line := .stopping true since none, stopped := [] }
    | .quiesced _ => { p with haltrec := haltrecOf c soft core lane slot code, line := .stopping true s.now none, stopped := [] }
    | _ => p

/-- A quiesce leaves out the crew's core: the steward core of the thread that asked for it (R373). -/
def leftOut (excl : Option Nat) (ck : Nat) : Bool :=
  match excl with
  | some e => e / 64 == ck / 64
  | none => false

/-- A crew's threads may issue and its engines may run: its partition runs, or the quiesce leaves it out (R351, R374); the SMC
does not hold it (R399). -/
def State.mayRun (s : State) (vf ck : Nat) : Bool :=
  !s.smc.held && match (s.part vf).line with
  | .running => true
  | .stopping _ _ excl => leftOut excl ck
  | .halted => false
  | .quiesced excl => leftOut excl ck

/-- MSI-X vectors of a VF (R394). -/
def State.vectors (s : State) (vf : Nat) : Nat :=
  (if vf < 8 then (s.host.veccfg.extractLsb' (8 * vf) 8).toNat
   else (s.host.veccfg2.extractLsb' (8 * (vf - 8)) 8).toNat) * 16

/-- Report an event on the partition's error vector, vector 0; a VF without vectors sends nothing (R393). -/
def State.errVector (s : State) (vf : Nat) (code : Nat) (a : DWord) : State :=
  let s := s.modPart vf fun p => { p with errs := (code, a) :: p.errs }
  if s.vectors vf = 0 then s else { s with host := { s.host with msix := (vf, 0) :: s.host.msix } }

/-- The word at a virtual address as a clause fetch would read it (R142). -/
def State.codeWord (s : State) (vf core : Nat) (va : DWord) : Except Cause (DWord × TlbEnt) :=
  if 2 ^ 56 ≤ va.toNat then .error .addrRange
  else if va.toNat % 8 ≠ 0 then .error .misaligned
  else match s.access core vf core va.toNat .fetch with
    | .error c => .error c
    | .ok l => .ok (BitVec.ofNat 64 (natOf (s.readBytes core l.key 8)), l.ent)

/-- The word at an address is not a clause header; a fetch that faults decides nothing (R151). -/
def State.notHeader (s : State) (vf core : Nat) (va : DWord) : Bool :=
  match s.codeWord vf core va with
  | .ok (w, _) => !isHeader w
  | .error _ => false

/-- What a trap records (R348). -/
structure TrapInfo where
  cause : Cause
  imp   : Bool
  logged : Bool
  icode : Nat
  epc   : DWord
  ecb   : DWord
  npc   : DWord
  ncb   : DWord
  skid  : Nat
  badva : DWord

/-- CAUSE's image (R346). -/
def TrapInfo.word (x : TrapInfo) : Word :=
  BitVec.ofNat 32 (x.cause.code + (if x.imp then 128 else 0) + (if x.logged then 256 else 0) + x.icode % 65536 * 65536)

/-- SSTAT after trap entry: PPRIV takes PRIV, PRIV and INTRAP become 1 (R348). -/
def sstatEnter (x : Word) : Word := if x.getLsbD 0 then 7 else 5

/-- The thread as trap entry leaves it (R348): the saved registers, the level, and the PC at TVEC. -/
def Thread.enterTrap (t : Thread) (tvec : DWord) (x : TrapInfo) (now : Nat) : Thread :=
  { t with
    pc := tvec, cb := tvec, phase := .active, passed := false, arrival := none, rsHold := false
    privSince := now
    tr := { t.tr with cause := x.word, epc := x.epc, ecb := x.ecb, npc := x.npc, ncb := x.ncb
                      skid := BitVec.ofNat 32 (min x.skid (2 ^ 32 - 1))
                      badva := if x.cause.hasVa then x.badva else 0
                      sstat := sstatEnter t.tr.sstat } }

/-- A thread stops at a fatal event; a parked one stays parked, with its reason (R33). -/
def Thread.halt (t : Thread) : Thread :=
  match t.phase with
  | .parked _ _ => t
  | _ => { t with phase := .stopped }

/-- A cause of a thread cannot be delivered: it is fatal, there is no handler, or the thread is in one (R348). -/
def State.undelivered (s : State) (t : Thread) (core : Nat) (c : Cause) : Bool :=
  let tvec := (s.part t.vf).tvec
  c.fatal || tvec == 0 || t.inTrap || s.notHeader t.vf core tvec

/-- The cause with which such a thread raises the halt line (R348). -/
def State.haltCause (s : State) (t : Thread) (c : Cause) : Cause :=
  if t.inTrap then .doubleTrap else if c.fatal || (s.part t.vf).tvec == 0 then c else .badTarget

/-- TAKING AN EXCEPTION (R348): a thread takes a cause that is not recoverable. It enters its handler, alone, or raises
the halt line and stops. -/
def State.raise (s : State) (k : Nat) (x : TrapInfo) : State :=
  match s.thread? k with
  | none => s
  | some t =>
    let tvec := (s.part t.vf).tvec
    if s.undelivered t (coreOf k) x.cause then
      let c := s.haltCause t x.cause
      ((s.modThread k Thread.halt).leave k).haltLine t.vf k c false (coreOf k) (laneOf k) (slotOf k) x.icode
    else ((s.setThread k (t.enterTrap tvec x s.now)).leave k).soloBundle k

/-- A precise trap at the thread's instruction (R348): EPC and NPC name it, SKID is 0. -/
def State.trap (s : State) (k : Nat) (c : Cause) (badva : DWord := 0) (icode : Nat := 0) : State :=
  match s.thread? k with
  | none => s
  | some t =>
    s.raise k { cause := c, imp := false, logged := false, icode := icode, epc := t.pc, ecb := t.cb, npc := t.pc, ncb := t.cb
                skid := 0, badva := badva }

/-- A precise trap of a clause fetch (R142): EPC names the word that could not be fetched. -/
def State.fetchTrap (s : State) (k : Nat) (cb : DWord) (c : Cause) (va : DWord) : State :=
  s.raise k { cause := c, imp := false, logged := false, icode := 0, epc := va, ecb := cb, npc := va, ncb := cb, skid := 0, badva := va }

/-- SSTAT after RETT: PRIV takes PPRIV, INTRAP becomes 0 (R349). -/
def sstatLeave (x : Word) : Word := if x.getLsbD 1 then 3 else 0

/-- RETURN FROM AN EXCEPTION (R349): the level from PPRIV, INTRAP 0, and the PC given. The windows of the clause that goes on
go on with it (R150). -/
def Thread.leaveTrap (t : Thread) (pc cb : DWord) : Thread :=
  { t with pc := pc, cb := cb, issued := t.issued + 1, grainTrap := false, passed := false, rsHold := false
           wins := if pc = cb then [] else t.endWins.filter fun w => w.cb == cb
           tr := { t.tr with sstat := sstatLeave t.tr.sstat } }

/-- An imprecise cause of an instruction of the thread, delivered at the next instruction it would issue (R45). -/
def Thread.addImp (t : Thread) (c : Cause) (pc cb va : DWord) (at_ : Nat) : Thread :=
  { t with imps := t.imps ++ [{ cause := c, pc := pc, cb := cb, va := va, at_ := at_ }] }

/-- The thread is parked. -/
def Thread.isParked (t : Thread) : Bool :=
  match t.phase with
  | .parked _ _ => true
  | _ => false

/-- The thread is parked on FAULT. -/
def Thread.onFault (t : Thread) : Bool :=
  match t.phase with
  | .parked .fault _ => true
  | _ => false

/-- Deliver the thread's oldest imprecise cause (R348): NPC names the first instruction not yet issued. -/
def State.deliverImp (s : State) (k : Nat) : State :=
  match s.thread? k with
  | none => s
  | some t =>
    match t.imps with
    | [] => s
    | i :: is =>
      (s.setThread k { t with imps := is }).raise k
        { cause := i.cause, imp := true, logged := false, icode := 0, epc := i.pc, ecb := i.cb, npc := t.pc, ncb := t.cb
          skid := t.skidFrom i.at_, badva := i.va }

/-! ### Recoverable faults: the fault table and the operand log (R46, R350, R367) -/

/-- FQCFG.EN: the partition has a fault queue (R368). -/
def Part.fqOn (p : Part) : Bool := p.fqcfg.getLsbD 8

/-- Where a fault comes from, as TSTAMP of its report (R367). -/
def faultStamp (k : Nat) (engine : Bool) : Word :=
  BitVec.ofNat 32 (coreOf k + laneOf k * 256 + slotOf k * 32768 + (if engine then 524288 else 0))

/-- Enter a fault into the partition's fault table: faults with one cause and one 64 KiB page share an id (R367). The
answer is the id, or none when the table is full. With no fault queue the fault is declined at once: it takes an id and no
place in the table. -/
def State.fileFault (s : State) (vf : Nat) (c : Cause) (va : DWord) (stamp : Word) : State × Option Nat :=
  let p := s.part vf
  if !p.fqOn then (s.setPart vf { p with nextFid := p.nextFid + 1 }, some (p.nextFid % 2 ^ 24))
  else
  match p.faults.find? fun f => !f.event && f.user == c.code && f.va.toNat / 65536 == va.toNat / 65536 with
  | some f => (s, some f.id)
  | none =>
    if 1024 ≤ (p.faults.filter fun f => !f.event).length then (s, none)
    else
      let id := p.nextFid % 2 ^ 24
      (s.setPart vf { p with
          faults := p.faults ++ [{ id := id, user := c.code, event := false, lohi := BitVec.ofNat 32 id, va := va
                                   tstamp := stamp, pushed := false, resp := 0 }]
          nextFid := p.nextFid + 1 }, some id)

/-- Report an event for system software on the fault queue (R367): 0x80 task records exhausted, 0x81 the end of a
crew. -/
def State.fileEvent (s : State) (vf user : Nat) (lohi stamp : Word) : State :=
  s.modPart vf fun p => { p with
    faults := p.faults ++ [{ id := 0, user := user, event := true, lohi := lohi, va := 0, tstamp := stamp, pushed := false
                             resp := 0 }] }

/-- The values of a list of registers of a thread, with their numbers. -/
def Thread.capture (t : Thread) (ns : List Nat) : List (Nat × Word) := ns.map fun n => (n, t.reg n)

/-- Where a thread stands once its instruction is in the operand log. -/
inductive Logged where
  /-- it goes on with the next word, whose lookahead window is that of the logged one (R46, R150) -/
  | goesOn
  /-- it parks on FAULT at the next word -/
  | parksNext
  /-- it parks on FAULT at the instruction itself (R188) -/
  | parksHere
  deriving DecidableEq, Repr

/-- The lookahead of an instruction word that has the field (R147). -/
def laOf (la : Nat) (dests : List Nat) (isFloat : Bool) (t : Thread) : Thread := { t with wins := t.openWin la dests isFloat }

/-- A recoverable fault of the thread's instruction (R46): it enters the operand log with its sources, its destinations
are pending, and its lookahead window opens. With no fault queue the fault is declined at once and takes no place in the
fault table (R367). In a replay the entry is logged again in its place. -/
def State.logFault (s : State) (k : Nat) (word : DWord) (srcs dests : List Nat) (c : Cause) (va : DWord) (how : Logged)
    (la : Nat := 0) (isFloat : Bool := false) : State :=
  match s.thread? k with
  | none => s
  | some t =>
    match s.fileFault t.vf c va (faultStamp k false) with
    | (s, none) => s.stall
    | (s, some id) =>
      let v := if (s.part t.vf).fqOn then 0 else 2
      if s.replaying then
        (s.modThread k fun t => { t with log :=
          match t.log with
          | e :: es => { e with cause := c, va := va, fid := id, verdict := v, met := if e.cause = c then e.met else s.now } :: es
          | [] => [] }).leave k
      else
        let e : LogEntry :=
          { word := word, pc := t.pc, cb := t.cb, srcs := t.capture srcs, dests := dests, cause := c, va := va, fid := id
            verdict := v, cmd := none, at_ := t.issued + 1, commit := false, met := s.now, bundle := s.wordBundle t }
        match how with
        | .goesOn => (s.modThread k fun t => laOf la dests isFloat { t.skip with log := t.log ++ [e] }).popTodo k
        | .parksNext => (s.modThread k fun t => laOf la dests isFloat { t.skip with log := t.log ++ [e] }).park k .fault
        | .parksHere =>
          (s.modThread k fun t => { t with log := t.log ++ [{ e with at_ := t.issued }], passed := false, rsHold := false }).park k
            .fault

/-- LOGS (R350): the count, and each entry's cause. -/
def logsOf (l : List LogEntry) : DWord :=
  BitVec.ofNat 64 ((l.zip (upTo 0 4)).foldl (fun acc (e, n) => acc + e.cause.code * 2 ^ (8 * n + 8)) l.length)

/-- Four places of a list, zero where it is shorter. -/
def four (l : List DWord) : List DWord := [l.getD 0 0, l.getD 1 0, l.getD 2 0, l.getD 3 0]

/-- Deliver a declined oldest entry (R350): an imprecise trap with LOGGED; the whole log is copied and emptied. The
commands of engine entries are for the caller to abandon. -/
def State.deliverLog (s : State) (k : Nat) : State :=
  match s.thread? k with
  | none => s
  | some t =>
    match t.log with
    | [] => s
    | e :: _ =>
      let tr := { t.tr with logs := logsOf t.log, logw := four (t.log.map (·.word)), logva := four (t.log.map (·.va)) }
      let npc := if e.commit then e.pc else t.pc
      let ncb := if e.commit then e.cb else t.cb
      (s.setThread k { t with log := [], tr := tr, acqFault := false }).raise k
        { cause := e.cause, imp := true, logged := true, icode := 0, epc := e.pc, ecb := e.cb, npc := npc, ncb := ncb
          skid := t.skidFrom e.at_, badva := e.va }

/-! ### The store queue (R124, R125) -/

/-- The agents that see a store as it leaves its queue: its core (R124); a store to a peer, which the peer performs, acts at sys
scope (R396). -/
def leaveMask (core : Nat) (bs : List Host.Cell) : Nat := if bs.any fun c => decide (2 ^ 64 ≤ c.1) then maskSys else maskCore core

/-- The oldest store of a thread's queue leaves it: it takes its place in the coherence order and is visible to its
core (R124). -/
def State.drainStore (s : State) (k : Nat) : State :=
  match s.thread? k with
  | none => s
  | some t =>
    match t.storeq with
    | [] => s
    | q :: qs =>
      (s.setThread k { t with storeq := qs }).storeAt (t.writer k) (leaveMask (coreOf k) q.bytes) q.bytes q.need none t.vf

/-- The stores of a thread that have left its queue become visible to the agents of a mask. -/
def State.showThread (s : State) (k mask : Nat) : State :=
  match s.thread? k with
  | none => s
  | some t => s.showWriter (t.writer k) mask

/-- Every store of a thread's queue leaves it, in order. -/
def State.drainAll (s : State) (k : Nat) : State :=
  match s.thread? k with
  | none => s
  | some t => t.storeq.foldl (fun st _ => st.drainStore k) s

/-! ### Atomic reads and signals (R130, R135, R62) -/

/-- The atomic that made a flight is indivisible against an atomic of agent `o` with scope mask `m` (R130). -/
def Flight.mutual (f : Flight) (o m : Nat) : Bool :=
  match f.atom with
  | some (m', o') => m'.testBit o && m.testBit o'
  | none => false

/-- The atomics on bytes in a range become visible to agent `o`, whose own atomic at scope mask `m` is indivisible against them;
the released set of each goes first (R122, R127, R130). -/
def State.seeAtoms (s : State) (o m p n : Nat) : State :=
  s.showIds ((s.flights.filter fun f => f.mutual o m && (f.bytes.any fun c => decide (p ≤ c.1) && decide (c.1 < p + n))).map (·.id))
    (2 ^ o)

/-- Read bytes as an atomic: once the atomics against which it is indivisible are visible to its agent. -/
def State.readAtom (s : State) (o m p n : Nat) : List Byte := (s.seeAtoms o m p n).readBytes o p n

/-- Perform the write of an atomic: the atomics it is ordered after become visible to its agent, and its own store takes
its place, behind the stores of `need`. -/
def State.writeAtom (s : State) (writer : Writer) (o m : Nat) (bs : List Host.Cell) (need : List (Nat × Nat)) (vf : Nat) : State :=
  let prior := (s.flights.filter fun f => f.mutual o m && (f.bytes.any fun c => bs.any fun d => c.1 == d.1)).map (·.id)
  (s.showIds prior (2 ^ o)).storeAt writer (2 ^ o) bs need (some (m, o)) vf

/-- Does a signal's VALUE satisfy a wait (R247)? Both are signed. -/
def sigHolds (c : SigCond) (value operand : DWord) : Bool :=
  match c with
  | .eq => value == operand
  | .le => decide (value.toInt ≤ operand.toInt)
  | .ne => value != operand

/-- Threads parked on a signal at this physical address re-read VALUE after a device agent's change; a condition that
holds ends the park (R248). -/
def State.wakeSignal (s : State) (key : Nat) (value : DWord) : State :=
  { s with threads := s.threads.mapKV fun k t =>
      match t.phase with
      | .parked (.signal va c x) _ =>
        if !s.mayRun t.vf (t.crewKey k) then t
        else
          (match s.xlate (coreOf k) t.vf (tlbPort k) va.toNat .read with
           | .ok l => if l.key == key && sigHolds c value x then { t with passed := true } else t
           | .error _ => t)
      | _ => t }

/-- The condition of a thread parked on a signal holds as its core's re-read finds VALUE (R247, R248); a signal in the
reserved tail of a formatted page reads as zero (R84). A re-read that meets a fault finds no condition: R248 gives it no outcome,
and the thread stays parked with no cause (the model's choice, notes/assumptions/49.md). -/
def State.signalHolds (s : State) (k : Nat) (t : Thread) (va : DWord) (c : SigCond) (x : DWord) : Bool :=
  match s.access (coreOf k) t.vf (tlbPort k) va.toNat .read with
  | .ok l =>
    sigHolds c (if inTail l va.toNat then 0 else BitVec.ofNat 64 (natOf (s.readAtom (coreOf k) maskSys l.key 8))) x
  | .error _ => false

/-- Change a signal's VALUE by an addend, as an atomic at sys scope and a release of the given stores, each to the agents of
the release's scope, and of the sets that `need` names (R62, R127, R135). A decrement that makes VALUE 0 with EN set sends the
signal's vector to the host. A signal in the reserved tail of a formatted page reads as zero and keeps nothing (R84). -/
def State.changeSignal (s : State) (writer : Writer) (o : Nat) (vf : Nat) (l : Loc) (va : Nat) (add : DWord) (notify : Bool)
    (rel : List Nat) (need : List (Nat × Nat) := []) : State :=
  if inTail l va then s.showIds rel (if 3 ≤ l.tgt then maskSys else maskDev)
  else
    let old := BitVec.ofNat 64 (natOf (s.readAtom o maskSys l.key 8))
    let word := natOf (s.readAtom o maskSys (l.key + 8) 8)
    let new := old + add
    let send := notify && new == 0 && word.testBit 63 && decide (bits word 10 0 < s.vectors vf)
    let s := s.showIds rel (if send || 3 ≤ l.tgt then maskSys else maskDev)
    let s := s.writeAtom writer o maskSys (cellsAt l.key (bytesOf new.toNat 8)) need vf
    let s := s.wakeSignal l.key new
    if send then { s with host := { s.host with msix := (vf, bits word 10 0) :: s.host.msix } } else s

end Sys2Proof.Machine
end

