-- ==== Sys2Proof/Machine/Operands.lean ====
section
/-!
DEFINITION. Operand forms: which general registers each instruction reads and writes (R146), its guard and lookahead,
where it may run (R155, R156), and what the scoreboard, the operand log and the lookahead windows make of it (R30, R46,
R150, R159, R178). `word` is the frame of every instruction's meaning: the checks of R149 in their order, then the
instruction's own effect.
-/
namespace Sys2Proof.Machine

/-- `n` register numbers from an operand field. -/
def regNums (r : Reg) (n : Nat) : List Nat := upTo r.toNat n

/-- What the machine must know of an instruction before it issues. -/
structure Info where
  g      : Guard
  la     : Nat := 0
  reads  : List Nat := []
  writes : List Nat := []
  /-- a privileged instruction or form (R156) -/
  priv   : Bool := false
  /-- not available on a steward core (R155) -/
  noSteward : Bool := false
  /-- a global store, atomic, FENCE or engine command: it does not pass a logged fault (R46) -/
  ordered : Bool := false
  /-- it can take a recoverable cause (R46) -/
  recov  : Bool := false
  /-- it reads FSTAT, or writes FSTAT or FCTL (R178) -/
  fdep   : Bool := false
  deriving DecidableEq, Repr

/-- The guard that an event carries: none, so always. -/
def always : Guard := { pn := false, ps := 7 }

/-- An instruction with its reads and writes. -/
def regular (g : Guard) (reads writes : List Nat) : Info := { g := g, reads := reads, writes := writes }

/-- The system register is FSTAT (0) or FCTL (1). -/
def isFloatReg (r : BitVec 12) : Bool := r == 0 || r == 1

/-- The operands of every instruction (each instruction's entry; R146). An event has none. -/
def infoOf : Instr → Info
  | .nop g => { g := g }
  | .bra g _ _ => { g := g }
  | .jmp g _ => { g := g }
  | .jmpi g a => regular g (regNums a 2) []
  | .call g d _ => regular g [] (regNums d 2)
  | .calli g d a => regular g (regNums a 2) (regNums d 2)
  | .ret g a => regular g (regNums a 2) []
  | .exit g => { g := g, ordered := true }
  | .enter g _ => { g := g }
  | .grow g _ => { g := g }
  | .shrink g _ => { g := g }
  | .join g a => regular g (regNums a 1) []
  | .yield g => { g := g }
  | .bkpt g _ => { g := g }
  | .trap g _ => { g := g }
  | .sys g _ => { g := g }
  | .rett g => { g := g, priv := true }
  | .rettTgt g a => { g := g, reads := regNums a 2, priv := true }
  | .iadd g d a b => regular g [a.toNat, b.toNat] [d.toNat]
  | .isub g d a b => regular g [a.toNat, b.toNat] [d.toNat]
  | .imul g d a b => regular g [a.toNat, b.toNat] [d.toNat]
  | .imin g _ d a b => regular g [a.toNat, b.toNat] [d.toNat]
  | .imax g _ d a b => regular g [a.toNat, b.toNat] [d.toNat]
  | .and g d a b => regular g [a.toNat, b.toNat] [d.toNat]
  | .or g d a b => regular g [a.toNat, b.toNat] [d.toNat]
  | .xor g d a b => regular g [a.toNat, b.toNat] [d.toNat]
  | .andn g d a b => regular g [a.toNat, b.toNat] [d.toNat]
  | .shl g d a b => regular g [a.toNat, b.toNat] [d.toNat]
  | .shr g d a b => regular g [a.toNat, b.toNat] [d.toNat]
  | .sar g d a b => regular g [a.toNat, b.toNat] [d.toNat]
  | .rot g d a b => regular g [a.toNat, b.toNat] [d.toNat]
  | .iadd64 g d a b => regular g (regNums a 2 ++ regNums b 2) (regNums d 2)
  | .iaddI g d a _ => regular g [a.toNat] [d.toNat]
  | .isubI g d a _ => regular g [a.toNat] [d.toNat]
  | .imulI g d a _ => regular g [a.toNat] [d.toNat]
  | .iminI g d a _ => regular g [a.toNat] [d.toNat]
  | .imaxI g d a _ => regular g [a.toNat] [d.toNat]
  | .andI g d a _ => regular g [a.toNat] [d.toNat]
  | .orI g d a _ => regular g [a.toNat] [d.toNat]
  | .xorI g d a _ => regular g [a.toNat] [d.toNat]
  | .andnI g d a _ => regular g [a.toNat] [d.toNat]
  | .shlI g d a _ => regular g [a.toNat] [d.toNat]
  | .shrI g d a _ => regular g [a.toNat] [d.toNat]
  | .sarI g d a _ => regular g [a.toNat] [d.toNat]
  | .rotI g d a _ => regular g [a.toNat] [d.toNat]
  | .iadd64I g d a _ => regular g (regNums a 2) (regNums d 2)
  | .iaddc g _ d a b _ => regular g [a.toNat, b.toNat] [d.toNat]
  | .imulh g _ d a b => regular g [a.toNat, b.toNat] [d.toNat]
  | .imad g d a b c => regular g [a.toNat, b.toNat, c.toNat] [d.toNat]
  | .iabs g d a => regular g [a.toNat] [d.toNat]
  | .ineg g d a => regular g [a.toNat] [d.toNat]
  | .not g d a => regular g [a.toNat] [d.toNat]
  | .shf g _ d a b c => regular g [a.toNat, b.toNat, c.toNat] [d.toNat]
  | .bfx g _ d a b => regular g [a.toNat, b.toNat] [d.toNat]
  | .bfi g d a b c => regular g [a.toNat, b.toNat, c.toNat] [d.toNat]
  | .popc g d a => regular g [a.toNat] [d.toNat]
  | .clz g d a => regular g [a.toNat] [d.toNat]
  | .ctz g d a => regular g [a.toNat] [d.toNat]
  | .brev g d a => regular g [a.toNat] [d.toNat]
  | .prmt g d a b c => regular g [a.toNat, b.toNat, c.toNat] [d.toNat]
  | .sel g d a b _ => regular g [a.toNat, b.toNat] [d.toNat]
  | .isetp g _ _ _ _ a b _ => regular g [a.toNat, b.toNat] []
  | .plop g _ _ _ _ _ => { g := g }
  | .mov g d a => regular g [a.toNat] [d.toNat]
  | .movi g d _ => regular g [] [d.toNat]
  | .movsv g d _ => regular g [] [d.toNat]
  | .lea g _ _ d a b => regular g (regNums a 2 ++ [b.toNat]) (regNums d 2)
  | .imul64 g _ d a b => regular g [a.toNat, b.toNat] (regNums d 2)
  | .fadd g _ d a b => regular g [a.toNat, b.toNat] [d.toNat]
  | .fsub g _ d a b => regular g [a.toNat, b.toNat] [d.toNat]
  | .fmul g _ d a b => regular g [a.toNat, b.toNat] [d.toNat]
  | .ffma g _ d a b c => regular g [a.toNat, b.toNat, c.toNat] [d.toNat]
  | .fmin g d a b => regular g [a.toNat, b.toNat] [d.toNat]
  | .fmax g d a b => regular g [a.toNat, b.toNat] [d.toNat]
  | .faddI g d a _ => regular g [a.toNat] [d.toNat]
  | .fsubI g d a _ => regular g [a.toNat] [d.toNat]
  | .fmulI g d a _ => regular g [a.toNat] [d.toNat]
  | .fminI g d a _ => regular g [a.toNat] [d.toNat]
  | .fmaxI g d a _ => regular g [a.toNat] [d.toNat]
  | .fsetp g _ _ _ a b _ => regular g [a.toNat, b.toNat] []
  | .fclass g d a => regular g [a.toNat] [d.toNat]
  | .frnd g _ d a => regular g [a.toNat] [d.toNat]
  | .fdiv g la _ d a b => { g := g, la := la.toNat, reads := [a.toNat, b.toNat], writes := [d.toNat] }
  | .rcp g la _ d a => { g := g, la := la.toNat, reads := [a.toNat], writes := [d.toNat] }
  | .rsq g la _ d a => { g := g, la := la.toNat, reads := [a.toNat], writes := [d.toNat] }
  | .sqrt g la _ d a => { g := g, la := la.toNat, reads := [a.toNat], writes := [d.toNat] }
  | .exp2 g la _ d a => { g := g, la := la.toNat, reads := [a.toNat], writes := [d.toNat] }
  | .log2 g la _ d a => { g := g, la := la.toNat, reads := [a.toNat], writes := [d.toNat] }
  | .sint g la _ d a => { g := g, la := la.toNat, reads := [a.toNat], writes := [d.toNat] }
  | .cost g la _ d a => { g := g, la := la.toNat, reads := [a.toNat], writes := [d.toNat] }
  | .hadd2 g _ _ d a b => regular g [a.toNat, b.toNat] [d.toNat]
  | .hmul2 g _ _ d a b => regular g [a.toNat, b.toNat] [d.toNat]
  | .hfma2 g _ _ d a b c => regular g [a.toNat, b.toNat, c.toNat] [d.toNat]
  | .dp4 g _ _ _ d a b c => regular g [a.toNat, b.toNat, c.toNat] [d.toNat]
  | .dp8 g _ _ _ d a b c => regular g [a.toNat, b.toNat, c.toNat] [d.toNat]
  | .dpf8 g _ _ _ d a b c => regular g [a.toNat, b.toNat, c.toNat] [d.toNat]
  | .cvt g _ _ dst _ ef _ _ d a c =>
      regular g ([a.toNat] ++ (if dst.count = 1 then [] else [d.toNat]) ++ (if ef then [c.toNat] else []))
        ([d.toNat] ++ (if ef then [c.toNat] else []))
  | .qnt g _ ef d a m e =>
      regular g ([a.toNat, m.toNat] ++ (if ef then [e.toNat] else [])) ([d.toNat] ++ (if ef then [e.toNat] else []))
  | .ld g la w _ _ d a _ =>
      { g := g, la := la.toNat, reads := regNums a 2, writes := regNums d w.regs, recov := true }
  | .st g w _ _ d a _ => { g := g, reads := regNums d w.regs ++ regNums a 2, ordered := true, recov := true }
  | .ldMap g la w d a _ =>
      { g := g, la := la.toNat, reads := regNums a 2, writes := regNums d w.regs, priv := true }
  | .stMap g w d a _ => { g := g, reads := regNums a 2 ++ regNums d w.regs, priv := true }
  | .lds g la w d a _ => { g := g, la := la.toNat, reads := [a.toNat], writes := regNums d w.regs }
  | .sts g w d a _ => regular g ([a.toNat] ++ regNums d w.regs) []
  | .ldt g la d a _ => { g := g, la := la.toNat, reads := regNums a 3, writes := [d.toNat], recov := true }
  | .pref g a _ => regular g (regNums a 2) []
  | .atom g la _ w64 _ _ d a b =>
      { g := g, la := la.toNat, reads := regNums a 2 ++ regNums b (if w64 then 2 else 1)
        writes := regNums d (if w64 then 2 else 1), ordered := true, recov := true }
  | .atoms g la op w64 d a b c =>
      { g := g, la := la.toNat
        reads := [a.toNat] ++ regNums b (if w64 then 2 else 1) ++
          (if op == .cas then regNums c (if w64 then 2 else 1) else [])
        writes := regNums d (if w64 then 2 else 1), ordered := true }
  | .red g _ w64 _ _ a b =>
      { g := g, reads := regNums a 2 ++ regNums b (if w64 then 2 else 1), ordered := true, recov := true }
  | .xadd g la _ _ rt d a b c =>
      { g := g, la := la.toNat, reads := regNums a 2 ++ regNums b 4 ++ regNums c 2
        writes := if rt then regNums d 4 else [], ordered := true, recov := true }
  | .cas g la w64 _ _ d a b c =>
      { g := g, la := la.toNat
        reads := regNums a 2 ++ regNums b (if w64 then 2 else 1) ++ regNums c (if w64 then 2 else 1)
        writes := regNums d (if w64 then 2 else 1), ordered := true, recov := true }
  | .fence g _ _ => { g := g, ordered := true }
  | .seal g a b => { g := g, reads := regNums a 2 ++ regNums b 2, ordered := true, recov := true }
  | .unseal g d a b =>
      { g := g, reads := regNums a 2 ++ regNums b 2, writes := [d.toNat], ordered := true, recov := true }
  | .spalloc g d a => regular g [a.toNat] [d.toNat]
  | .spfree g a => regular g [a.toNat] []
  | .sectQuery g d a => regular g [a.toNat] [d.toNat]
  | .sectClr g a => regular g [a.toNat] []
  | .sectSet g a => regular g [a.toNat] []
  | .tlbinvPage g a => { g := g, reads := regNums a 2, priv := true }
  | .tlbinvRange g a b => { g := g, reads := regNums a 2 ++ regNums b 2, priv := true }
  | .tlbinvAll g => { g := g, priv := true }
  | .dlog g d a => { g := g, reads := [a.toNat], writes := regNums d 2, priv := true }
  | .shfl g _ w64 d a b m =>
      regular g (regNums a (if w64 then 2 else 1) ++ [b.toNat, m.toNat]) (regNums d (if w64 then 2 else 1))
  | .vote g mode d _ m => regular g [m.toNat] (if mode == .ballot then [d.toNat] else [])
  | .scan g _ _ _ d a m => regular g [a.toNat, m.toNat] [d.toNat]
  | .redx g _ _ d a m => regular g [a.toNat, m.toNat] [d.toNat]
  | .matchx g w64 d a m => regular g (regNums a (if w64 then 2 else 1) ++ [m.toNat]) [d.toNat]
  | .elect g _ m => regular g [m.toNat] []
  | .cbarArm g _ a b => regular g [a.toNat, b.toNat] []
  | .cbar g _ _ => { g := g }
  | .rand g d a => regular g (regNums a 4) [d.toNat, a.toNat + 3]
  | .randf g d a => regular g (regNums a 4) [d.toNat, a.toNat + 3]
  | .acpL g _ _ _ vreg d a b =>
      { g := g, reads := [d.toNat] ++ regNums a 2 ++ (if vreg then [b.toNat] else []), ordered := true, recov := true }
  | .acpS g _ _ _ vreg d a b =>
      { g := g, reads := [d.toNat] ++ regNums a 2 ++ (if vreg then [b.toNat] else []), ordered := true, recov := true }
  | .await g _ => { g := g }
  | .kcnt g d _ => regular g [] [d.toNat]
  | .bcp g _ _ nosig _ d a b c =>
      { g := g, reads := [d.toNat] ++ regNums a 2 ++ regNums b 5 ++ (if nosig then [] else regNums c 2)
        ordered := true, recov := true }
  | .mcast g _ _ nosig d a b c =>
      { g := g, reads := [d.toNat] ++ regNums a 2 ++ regNums b 4 ++ (if nosig then [] else regNums c 2)
        ordered := true, recov := true }
  | .kvg g _ _ _ _ _ d a m p =>
      { g := g, reads := [a.toNat, m.toNat] ++ regNums p 4, writes := [d.toNat], ordered := true, recov := true }
  | .kva g _ _ nosig a b c =>
      { g := g, reads := regNums a 2 ++ regNums b 2 ++ (if nosig then [] else regNums c 2), ordered := true, recov := true }
  | .drain g _ _ nosig _ _ a b c =>
      { g := g, reads := regNums a 2 ++ regNums b 5 ++ (if nosig then [] else regNums c 2), noSteward := true
        ordered := true, recov := true }
  | .job g a => { g := g, reads := regNums a 2, ordered := true, recov := true }
  | .sigdec g a => { g := g, reads := regNums a 2, ordered := true, recov := true }
  | .sigadd g a b => { g := g, reads := regNums a 2 ++ regNums b 2, ordered := true, recov := true }
  | .sigwait g _ a b => { g := g, reads := regNums a 2 ++ regNums b 2, recov := true }
  | .sigread g la d a => { g := g, la := la.toNat, reads := regNums a 2, writes := regNums d 2, recov := true }
  | .conv g _ _ => { g := g, noSteward := true }
  | .mma g _ _ _ _ _ s sr _ a b _ =>
      { g := g, reads := [a.toNat, b.toNat] ++ (if s then [sr.toNat] else []), noSteward := true }
  | .mmas g _ _ _ _ _ s sr _ a b _ =>
      { g := g, reads := [a.toNat, b.toNat] ++ (if s then [sr.toNat] else []), noSteward := true }
  | .aclr g _ _ => { g := g, noSteward := true }
  | .anch g _ _ => { g := g, noSteward := true }
  | .aget g la _ _ w4 _ a b =>
      { g := g, la := la.toNat, reads := [b.toNat], writes := regNums a (if w4 then 4 else 1), noSteward := true }
  | .aput g _ a b => { g := g, reads := regNums a 4 ++ [b.toNat], noSteward := true }
  | .aflag g an _ a b => { g := g, reads := if an then [] else [b.toNat], writes := [a.toNat], noSteward := true }
  | .segnew g d a b =>
      { g := g, reads := regNums a 4 ++ regNums b 2, writes := [d.toNat], ordered := true, recov := true }
  | .segnewDel g d a => { g := g, reads := [a.toNat], writes := [d.toNat], ordered := true, recov := true }
  | .segseal g a => { g := g, reads := [a.toNat], ordered := true, recov := true }
  | .segsum g nosig a c =>
      { g := g, reads := [a.toNat] ++ (if nosig then [] else regNums c 2), ordered := true, recov := true }
  | .link g _ d a b =>
      { g := g, reads := regNums a 2 ++ regNums b 4, writes := [d.toNat], ordered := true, recov := true }
  | .unlink g d a b =>
      { g := g, reads := regNums a 2 ++ [b.toNat], writes := [d.toNat], ordered := true, recov := true }
  | .kvr g a b c => { g := g, reads := regNums a 2 ++ regNums b 2 ++ [c.toNat], ordered := true, recov := true }
  | .rstat g sl d a b =>
      { g := g, reads := regNums a 2 ++ (if sl == .tail then [] else [b.toNat])
        writes := regNums d (if sl == .ready || sl == .pending then 2 else 1), recov := true }
  | .rotq g bf d a b c =>
      regular g (regNums a (if bf then 1 else 2) ++ [b.toNat, c.toNat]) (regNums d (if bf then 1 else 2))
  | .anc g _ a b c => regular g ([a.toNat, c.toNat] ++ regNums b 2) []
  | .psel g d a b =>
      { g := g, reads := [d.toNat] ++ regNums a 4 ++ regNums b 2, noSteward := true, ordered := true, recov := true }
  | .topk g _ spin d a b =>
      { g := g, reads := [d.toNat] ++ regNums a (if spin then 1 else 2) ++ regNums b 3, ordered := true, recov := true }
  | .topp g draw spin d a b =>
      { g := g, reads := [d.toNat] ++ regNums a (if spin then 1 else 2) ++ regNums b (if draw then 3 else 2), ordered := true, recov := true }
  | .tmrg g d a b =>
      { g := g, reads := regNums a 4 ++ regNums b 4, writes := [d.toNat], noSteward := true, ordered := true }
  | .tunm g a b c => { g := g, reads := [a.toNat, c.toNat] ++ regNums b 2, noSteward := true, ordered := true }
  | .tmapInfo g d a => { g := g, reads := [a.toNat], writes := regNums d 2, noSteward := true }
  | .tmapFree g a => { g := g, reads := [a.toNat], noSteward := true }
  | .tmapParent g d a => { g := g, reads := [a.toNat], writes := [d.toNat], noSteward := true }
  | .szb g _ d a => { g := g, reads := [a.toNat], writes := [d.toNat], noSteward := true }
  | .tpop g _ _ d _ _ => { g := g, writes := regNums d 8 }
  | .tspawn g a _ => { g := g, reads := regNums a 8, ordered := true, recov := true }
  | .tdone g _ => { g := g, recov := true }
  | .tsplit g => { g := g }
  | .tabort g => { g := g }
  | .tabortRq g => { g := g }
  | .tstat g _ d _ => regular g [] [d.toNat]
  | .mfx g w64 r d =>
      { g := g, writes := regNums d (if w64 then 2 else 1), priv := !isFloatReg r, fdep := r == 0 }
  | .mtx g w64 r a =>
      { g := g, reads := regNums a (if w64 then 2 else 1), priv := !isFloatReg r, fdep := isFloatReg r }
  | .quiesceStop g => { g := g, priv := true }
  | .quiesceSave g d a b =>
      { g := g, reads := regNums a 2 ++ regNums b 2, writes := regNums d 2, priv := true }
  | .resumeRun g => { g := g, priv := true }
  | .resumeLoad g a => { g := g, reads := regNums a 2, priv := true }
  | .resumeThreads g d a c =>
      { g := g, reads := [a.toNat] ++ regNums c 2, writes := regNums d 2, priv := true, recov := true }
  | .evict g d a b c =>
      { g := g, reads := [a.toNat, b.toNat] ++ regNums c 2, writes := regNums d 2, priv := true
        recov := true }
  | .halt g _ => { g := g, priv := true }
  | .smcallSensor g a c => { g := g, reads := regNums a 2 ++ regNums c 2, priv := true, recov := true }
  | .smcallLogput g a c => { g := g, reads := regNums a 2 ++ regNums c 2, priv := true, recov := true }
  | .smcallLogget g a c => { g := g, reads := regNums a 2 ++ regNums c 2, priv := true, recov := true }
  | .smcallQuote g a c => { g := g, reads := regNums a 2 ++ regNums c 2, priv := true, recov := true }
  | .smcallPowercap g a c => { g := g, reads := regNums a 2 ++ regNums c 2, priv := true, recov := true }
  | .furcfgWrite g a => { g := g, reads := [a.toNat], priv := true }
  | .uniformMissRead g d => { g := g, writes := [d.toNat], priv := true }
  | .haltrecRead g d => { g := g, writes := regNums d 2, priv := true }
  | .trareaWrite g count a => { g := g, reads := regNums a (if count then 1 else 2), priv := true }
  | .fqcfgWrite g a => { g := g, reads := regNums a 2, priv := true }
  | .poolfree g a => { g := g, reads := [a.toNat], priv := true }
  | .poolstatRead g d => { g := g, writes := regNums d 2, priv := true }
  | .qcfgrWrite g a => { g := g, reads := regNums a 2, priv := true }
  | .qspillrWrite g a => { g := g, reads := regNums a 2, priv := true }
  | .qstatWrite g a => { g := g, reads := [a.toNat], priv := true }
  | _ => { g := always }

/-- Some number is in both lists. -/
def meets (a b : List Nat) : Bool := a.any fun x => b.contains x

/-- The registers the instruction names. -/
def Info.names (n : Info) : List Nat := n.reads ++ n.writes

/-- A register the instruction names lies beyond the thread's allocation (R42, R146). -/
def Info.beyond (n : Info) (t : Thread) : Bool := n.names.any fun r => decide (8 * t.alloc ≤ r)

/-- A logged LDT: it is outstanding, and writes FSTAT when its replay completes (R178). -/
def LogEntry.isFloat (e : LogEntry) : Bool :=
  match decode e.word with
  | .instr (.ldt ..) => true
  | _ => false

/-- An enable bit of FCTL is set (R93). -/
def Thread.floatTraps (t : Thread) : Bool := t.fctl.setWidth 5 != (0 : BitVec 5)

/-- The instruction may not pass the thread's operand log (R46): it depends on a pending destination, or on the flags of a
logged LDT; it is a store, atomic, FENCE or engine command; it could be a fifth entry; or a logged LDT may still take an
enabled trap, which is precise (R178). -/
def Info.stopsAtLog (n : Info) (t : Thread) : Bool :=
  !t.log.isEmpty &&
    (n.ordered || (n.recov && decide (4 ≤ t.log.length)) || (t.log.any fun e => meets n.names e.dests) ||
      (t.log.any LogEntry.isFloat && (n.fdep || t.floatTraps)))

/-- The instruction breaks the promise of a lookahead window (R150, R178). -/
def Info.breaksWindow (n : Info) (t : Thread) : Bool :=
  t.wins.any fun w => w.cb == t.cb && decide (t.pc.toNat ≤ w.last.toNat) && (meets n.names w.dests || (n.fdep && w.isFloat))

/-- The scoreboard holds the instruction back: it depends on an outstanding result (R150, R178). The destination of an AGET
or an AFLAG holds back only the words that read it (R253). -/
def Info.busy (n : Info) (t : Thread) : Bool :=
  t.outs.any fun o => meets (if o.mat.isSome then n.reads else n.names) o.dests || (n.fdep && o.isFloat)

/-- A younger word has written registers: the first n results, where they are of a pending AGET or AFLAG, no longer write them
(R47, R253). -/
def overwrite (rs : List Nat) : Nat → List Outst → List Outst
  | _, [] => []
  | 0, os => os
  | n + 1, o :: os =>
    (if o.mat.isSome then { o with dead := o.dead ++ o.dests.filter rs.contains } else o) :: overwrite rs n os

/-- What the word i leaves of the earlier results of a thread that has retired it, t before and u after (R47, R253). A false guard
writes nothing. -/
def Thread.overwritten (t u : Thread) (i : Instr) : Thread :=
  if u.issued = t.issued + 1 ∧ u.unret = t.unret ∧ t.guard (infoOf i).g = true then
    { u with outs := overwrite (infoOf i).writes t.outs.length u.outs }
  else u

/-- The state u after the word i in the state s: whoever has retired the word has overwritten the earlier results (R253). A replayed
entry is older than every result that is outstanding. -/
def State.overwritten (s u : State) (i : Instr) : State :=
  if s.replaying then u
  else
    { u with threads := u.threads.mapKV fun k v => match s.thread? k with | some t => t.overwritten v i | none => v }

/-- A register it writes is held for a matrix operation (R159). -/
def Info.blocked (n : Info) (t : Thread) : Bool := t.held.any fun h => n.writes.contains h.2

/-- ENTER stands only at the word after its clause's header (R164). The cause is of its own description, so that a false guard
frees the thread from it (R149). -/
def misplaced (i : Instr) (t : Thread) : Bool :=
  match i with
  | .enter _ _ => t.pc != t.cb + 8
  | _ => false

/-- The checks of R149 and what keeps the instruction from issuing: an answer when one of them decides. A replayed
entry has passed its checks when it was logged: it uses the logged operands, whatever younger words have made of its guard or of the
allocation (R46), and it is the thread's own oldest one, so its log, windows and results do not hold it back. -/
def State.gate (s : State) (i : Instr) (k : Nat) (t : Thread) : Option State :=
  let n := infoOf i
  if s.replaying then none
  else if isSteward (coreOf k) && n.noSteward then some (s.trap k .illegalOpcode)
  else if n.priv && !t.priv then some (s.trap k .privileged)
  else if !i.wellFormed then some (s.trap k .illegalModifier)
  else if !t.guard n.g then some (s.retire k)
  else if misplaced i t then some (s.trap k .illegalModifier)
  else if n.beyond t then some (s.trap k .regRange)
  else if n.stopsAtLog t then some (s.park k .fault)
  else if n.breaksWindow t then some (s.trap k .laViolation)
  else if n.busy t || n.blocked t then some s.stall
  else none

/-- What a meaning answers. -/
abbrev Out := Host.Outcome State Fault Refusal

/-- The frame of every instruction's meaning: the thread whose part is performed, the checks, then the instruction's own
effect `body`. -/
def word (i : Instr) (s : State) (body : Nat → Thread → State) : Out :=
  match s.cur? with
  | none => .fault .noThread
  | some k =>
    match s.thread? k with
    | none => .fault .noThread
    | some t =>
      match s.gate i k t with
      | some s' => .next s'
      | none => .next (body k t)

end Sys2Proof.Machine
end

