-- ==== Sys2Proof/Machine/Flags.lean ====
section
/-!
DEFINITION. Flag computations: the FSTAT flags and the traps they enable (R93, R94, R96, R178), the carries of IADDC,
the comparisons of ISETP and the combination of predicates (R170, R171).
-/
namespace Sys2Proof.Machine

/-- The cause of the lowest-numbered enabled exception among the raised ones (R94, R96). -/
def trapCause (fctl : Word) (fl : FFlags) : Option Cause :=
  let x := fctl.setWidth 5 &&& fl
  if x.getLsbD 0 then some .fpInvalid
  else if x.getLsbD 1 then some .fpDivzero
  else if x.getLsbD 2 then some .fpOverflow
  else if x.getLsbD 3 then some .fpUnderflow
  else if x.getLsbD 4 then some .fpInexact
  else none

/-- The flags ORed into FSTAT (R93). -/
def Thread.orFlags (t : Thread) (fl : FFlags) : Thread := { t with fstat := t.fstat ||| fl.setWidth 32 }

/-- R94 for an instruction that completes at its issue: an enabled exception traps and nothing is written; otherwise the
results are written and the flags ORed in. -/
def State.floatDone (s : State) (k : Nat) (t : Thread) (fl : FFlags) (write : Thread → Thread) : State :=
  match trapCause t.fctl fl with
  | some c => s.trap k c
  | none => (s.modThread k fun t => write (t.orFlags fl)).retire k

/-- Issue a long-latency instruction: its values wait for LONG_LATENCY_COMPLETE, its destinations are pending, and its
lookahead window opens after it (R150). -/
def State.issueLong (s : State) (k : Nat) (la : Nat) (o : Outst) : State :=
  let s := s.retire k
  if s.replaying then s.modThread k fun t => (t.orFlags o.flags).setRegs (o.dests.headD 0) o.vals
  else
    s.modThread k fun t =>
      { t with outs := t.outs ++ [o]
               wins := t.openWin la o.dests o.isFloat }

/-- A long-latency float instruction: while an enable bit is set it completes at once, so that its trap is precise
(R178). -/
def State.issueFloat (s : State) (i : Instr) (k : Nat) (t : Thread) (la : Nat) (d : Reg) (r : Nat × FFlags) : State :=
  if t.floatTraps then
    match trapCause t.fctl r.2 with
    | some c => s.trap k c
    | none =>
      let s := (s.modThread k fun t => (t.orFlags r.2).setReg d.toNat (BitVec.ofNat 32 r.1)).retire k
      if la = 0 then s else s.modThread k fun t => { t with wins := t.openWin la [d.toNat] true }
  else
    s.issueLong k la
      { i := i, pc := t.pc, cb := t.cb, dests := [d.toNat], vals := [BitVec.ofNat 32 r.1], flags := r.2, isFloat := true
        isMem := false, target := 0, port := 12, va := 0, mat := none, at_ := t.issued + 1 }

/-- The carry out of a 32-bit sum with a carry in (R170). -/
def carryOut (a b : Word) (c : Bool) : Bool := decide (2 ^ 32 ≤ a.toNat + b.toNat + c.toNat)

/-- ISETP's comparison, signed or unsigned; UNORD and ORD do not exist for integers (R171). -/
def intCompare (c : Cmp) (unsigned : Bool) (a b : Word) : Bool :=
  let lt := if unsigned then a.ult b else a.slt b
  match c with
  | .eq => a == b
  | .ne => a != b
  | .lt => lt
  | .le => lt || a == b
  | .gt => !(lt || a == b)
  | .ge => !lt
  | .unord => false
  | .ord => false

/-- A comparison combined with a predicate (R171). -/
def combine (c : Comb) (x p : Bool) : Bool :=
  match c with
  | .none => x
  | .and => x && p
  | .or => x || p
  | .xor => x != p

end Sys2Proof.Machine
end

