-- ==== Sys2Proof/Machine/Record.lean ====
section
/-!
DEFINITION. The thread record of R385, by which a thread is evicted, saved and restored, and the logical index of a core
(R389).
-/
namespace Sys2Proof.Machine

/-- A core belongs to the partition (R358): its quad, or its steward bit. -/
def Part.hasCore (p : Part) (core : Nat) : Bool :=
  if isSteward core then decide (core < 144) && p.stews.testBit (core - 128) else p.quads.testBit (core / 4)

/-- The partition's compute cores (R358, R389). -/
def Part.ncore (p : Part) : Nat := 4 * popCount p.quads 32
/-- The partition's steward cores. -/
def Part.nstew (p : Part) : Nat := popCount p.stews 16

/-- The logical index of a core (R389). -/
def Part.logical (p : Part) (core : Nat) : Nat :=
  if isSteward core then p.ncore + popCount p.stews (core - 128)
  else 4 * popCount p.quads (core / 4) + core % 4

/-- The cores of a partition, in the order of their logical indices. -/
def Part.cores (p : Part) : List Nat := (upTo 0 144).filter p.hasCore

/-- REASON and WAITARG of R385. -/
def Park.code : Park → Nat × DWord
  | .sector sa => (0, sa.setWidth 64)
  | .tag m => (1, m.setWidth 64)
  | .signal va _ _ => (2, va)
  | .conv c => (3, c.setWidth 64)
  | .arrive m => (4, m.setWidth 64)
  | .grant b => (5, BitVec.ofNat 64 b)
  | .fault => (6, 0)

/-- The park that REASON and WAITARG name; the condition of a SIGWAIT is found again from its word. -/
def parkOf (reason : Nat) (arg : DWord) : Park :=
  match reason with
  | 0 => .sector (loWord arg)
  | 1 => .tag (arg.setWidth 8)
  | 2 => .signal arg .eq 0
  | 3 => .conv (arg.setWidth 4)
  | 4 => .arrive (loWord arg)
  | 5 => .grant arg.toNat
  | _ => .fault

/-- A set of register numbers as a 256-bit mask. -/
def regMask (rs : List Nat) : Nat := (sortBy (fun a b => decide (a ≤ b)) rs).eraseDups.foldl (fun x r => x + 2 ^ r) 0

/-- The registers that are held and that are pending, as HELD and PEND give them (R385). -/
def Thread.heldMask (t : Thread) : Nat := regMask (t.held.map (·.2))
/-- PEND: destinations of logged instructions and of a recorded AGET (R385), without those that a younger word has written. -/
def Thread.pendMask (t : Thread) : Nat :=
  regMask (t.log.flatMap (·.dests) ++
    (t.outs.filter fun o => o.mat.isSome).flatMap fun o => o.dests.filter fun r => !o.dead.contains r)

/-- The convergence register that the thread is parked on. -/
def Thread.waitsConv (t : Thread) : Option Conv :=
  match t.phase with
  | .parked (.conv c) _ => some c
  | _ => none

/-- The signature that SIGC and SIGGEN name (R385), of those whose operations have not issued: the oldest that neither HELD nor the
register of the thread's own wait tells, else the oldest that HELD does not tell, else the oldest (the model's choice,
notes/assumptions/9.md). -/
def Thread.sigShown (t : Thread) : Option (Conv × Nat) :=
  let free := t.sig.filter fun m => !(t.held.any fun h => h.1 == m.1.toNat)
  ((free.find? fun m => t.waitsConv != some m.1).or free.head?).or t.sig.head?

/-- The 256-byte header of a thread record (R385). -/
def Thread.header (t : Thread) (core lane slot : Nat) (valid : Bool) : Nat :=
  let (parked, reason, arg) : Nat × Nat × DWord :=
    match t.phase with
    | .parked why _ => if t.passed then (0, 0, 0) else (1, why.code.1, why.code.2)
    | _ => (0, 0, 0)
  let sig := match t.sigShown with | some (c, g) => (16 + c.toNat, g) | none => (0, 0)
  let kc := (t.kcnt.zip (upTo 0 8)).foldl (fun x (n, i) => x + n % 256 * 2 ^ (8 * i)) 0
  let four (l : List DWord) (p : Nat) := (l.zip (upTo 0 4)).foldl (fun x (w, i) => x + w.toNat * 2 ^ (p + 64 * i)) 0
  t.pc.toNat + t.cb.toNat * 2 ^ 64 + lane * 2 ^ 128 + slot * 2 ^ 135 + t.crew * 2 ^ 139 + t.gang * 2 ^ 145 +
    parked * 2 ^ 150 + reason * 2 ^ 151 + (t.alloc - 1) * 2 ^ 154 + t.preds.toNat * 2 ^ 159 + t.inTask.toNat * 2 ^ 166 +
    t.arrival.isSome.toNat * 2 ^ 167 + sig.1 * 2 ^ 168 + sig.2 % 256 * 2 ^ 173 + valid.toNat * 2 ^ 181 +
    core * 2 ^ 184 + arg.toNat * 2 ^ 192 + kc * 2 ^ 256 + t.fstat.toNat * 2 ^ 320 + t.fctl.toNat * 2 ^ 352 +
    t.tr.sstat.toNat * 2 ^ 384 + t.tr.cause.toNat * 2 ^ 416 + t.tr.epc.toNat * 2 ^ 448 + t.tr.ecb.toNat * 2 ^ 512 +
    t.tr.npc.toNat * 2 ^ 576 + t.tr.ncb.toNat * 2 ^ 640 + t.tr.skid.toNat * 2 ^ 704 + t.tr.badva.toNat * 2 ^ 768 +
    t.tr.tscr0.toNat * 2 ^ 832 + t.tr.tscr1.toNat * 2 ^ 896 + t.tr.logs.toNat * 2 ^ 960 + t.heldMask * 2 ^ 1024 +
    t.pendMask * 2 ^ 1280 + four t.tr.logw 1536 + four t.tr.logva 1792

/-- A thread record (R385): the header and the registers. -/
def Thread.record (t : Thread) (core lane slot : Nat) (valid : Bool) : List Byte :=
  bytesOf (t.header core lane slot valid) 256 ++ bytesOfWords t.regs

/-- A field of a record's header. -/
def hField (h hi lo : Nat) : Nat := bits h hi lo

/-- What a record says of a thread (R385): the thread without blocks and in no furrow, its lane, slot and logical core,
and its HELD and PEND masks. -/
structure Recorded where
  t     : Thread
  lane  : Nat
  slot  : Nat
  core  : Nat
  parked : Bool
  held  : Nat
  pend  : Nat

/-- CAUSE as it can stand (R346, R357): the reserved bits read as zero, and CODE holds no value from 0x60 on. -/
def causeImage (x : Word) : Word :=
  let y := x &&& 0xFFFF01FF
  if 0x60 ≤ bits y.toNat 6 0 then y &&& 0xFFFFFF80 else y

/-- LOGS without its reserved bits (R350). -/
def logsImage (x : DWord) : DWord := x &&& 0x0000007F7F7F7F07

/-- The thread of a record; its VF is the restoring partition's. Reserved bits of its registers read as zero (R5). -/
def readRecord (vf : Nat) (bs : List Byte) : Recorded :=
  let h := natOf (slice bs 0 256)
  let d (p : Nat) : DWord := BitVec.ofNat 64 (hField h (p + 63) p)
  let w (p : Nat) : Word := BitVec.ofNat 32 (hField h (p + 31) p)
  let alloc := hField h 158 154 + 1
  let why := parkOf (hField h 153 151) (d 192)
  let parked := h.testBit 150
  let sig := if h.testBit 172 then [((BitVec.ofNat 4 (hField h 171 168) : Conv), hField h 180 173)] else []
  { lane := hField h 134 128, slot := hField h 138 135, core := hField h 191 184, parked := parked
    held := hField h 1279 1024, pend := hField h 1535 1280
    t :=
      { vf := vf, crew := hField h 144 139, gang := hField h 149 145, pc := d 0, cb := d 64, alloc := alloc
        regs := wordsOf (slice bs 256 (32 * alloc)), blocks := [], preds := BitVec.ofNat 7 (hField h 165 159)
        kcnt := (upTo 0 8).map fun i => hField h (256 + 8 * i + 7) (256 + 8 * i)
        fstat := w 320 &&& 0x1F, fctl := w 352 &&& 0x1F
        tr := { cause := causeImage (w 416), epc := d 448, ecb := d 512, npc := d 576, ncb := d 640, skid := w 704, badva := d 768
                sstat := w 384 &&& 7, tscr0 := d 832, tscr1 := d 896, logs := logsImage (d 960)
                logw := (upTo 0 4).map fun i => d (1536 + 64 * i), logva := (upTo 0 4).map fun i => d (1792 + 64 * i) }
        phase := if parked then .parked why 0 else .active, ftime := 0
        arrival := match parked, why with
          | true, .arrive m => some { pc := d 0, mask := m }
          | _, _ => none
        sig := sig, held := [], outs := [], wins := [], log := [], imps := [], storeq := [], seen := [], relNeed := []
        inTask := h.testBit 166, tpop := (0, 0), issued := 0, unret := [], orphan := false, pendCause := none
        acqFault := false, fetchFault := none, fetchDecl := none, privSince := 0, grainTrap := false, rsHold := false
        passed := false } }

/-- The fields of an evicted thread that its record does not carry, kept by the machine and put back at the restore. -/
def Thread.withKept (t kept : Thread) : Thread :=
  { t with imps := kept.imps, storeq := kept.storeq, seen := kept.seen, relNeed := kept.relNeed
           outs := kept.outs, wins := kept.wins, log := kept.log
           tpop := kept.tpop, issued := kept.issued, unret := kept.unret, orphan := kept.orphan, pendCause := kept.pendCause
           acqFault := kept.acqFault, privSince := kept.privSince, grainTrap := kept.grainTrap }

/-- The physical address of byte i of an evicted thread's record: a record may run into the next page. -/
def Evicted.at (e : Evicted) (i : Nat) : Nat :=
  if e.va.toNat % 65536 + i < 65536 then e.addr + i else e.addr2 + (e.va.toNat % 65536 + i - 65536)

/-- The evicted thread is this one: a slot that EVICT has freed can have held threads of several crews. -/
def Evicted.same (e v : Evicted) : Bool :=
  e.key == v.key && e.va == v.va && e.t.crew == v.t.crew && e.t.gang == v.t.gang

/-- Byte i of the record lies in the reserved tail of a formatted page (R84). -/
def Evicted.tail (e : Evicted) (i : Nat) : Bool :=
  tailAt (if e.va.toNat % 65536 + i < 65536 then e.geom else e.geom2) (e.va.toNat + i)

/-- A byte of an evicted thread's record as the device sees it. -/
def State.evictedByte (s : State) (e : Evicted) (i : Nat) : Byte := if e.tail i then 0 else s.readByte agHeadgate (e.at i)

/-- Read the record of an evicted thread as the device sees it. -/
def State.evictedRecord (s : State) (e : Evicted) : Recorded :=
  let r := readRecord e.t.vf ((upTo 0 1280).map (s.evictedByte e))
  { r with t := r.t.withKept e.t }

/-- A store by the device itself, performed at dev scope as one atomic step (R286, R287, R370). -/
def State.devCells (s : State) (cells : List Host.Cell) : State := s.storeAt .device maskDev cells

/-- The device writes bytes of its own memory, named by their physical address. -/
def State.devStore (s : State) (key : Nat) (bs : List Byte) : State := s.devCells (cellsAt key bs)

/-- The device writes bytes at a virtual address of a page. -/
def State.devPut (s : State) (l : Loc) (va : Nat) (bs : List Byte) : State := (s.keep l.ent).devCells (l.cells va bs)

/-- Write bytes of an evicted thread's record, from byte `off` on. -/
def State.storeEvicted (s : State) (e : Evicted) (off : Nat) (bs : List Byte) : State :=
  s.devCells ((bs.zip (upTo off bs.length)).filterMap fun (b, i) => if e.tail i then none else some (e.at i, b))

end Sys2Proof.Machine
end

