-- ==== Sys2Proof/Machine/Control.lean ====
section
/-!
DEFINITION. The control instructions (spec/08_isa_control_integer_float.md R160 to R168), the arrival of threads at a
JOIN or a collective (R40, R41), signing a convergence register and orphaning it (R37, R38), the end of a thread (R49) and
the return from a trap (R349).
-/
namespace Sys2Proof.Machine

/-! ### Convergence registers (R36 to R38) -/

/-- Convergence register c of a crew. -/
def Crew.conv (cr : Crew) (c : Nat) : ConvReg := cr.convs.getD c ConvReg.reset
/-- The crew with a convergence register replaced. -/
def Crew.setConv (cr : Crew) (c : Nat) (r : ConvReg) : Crew := { cr with convs := cr.convs.set c r }
/-- The threads of one gang (R13, R34). -/
def gangSize (core : Nat) : Nat := if isSteward core then 1 else 32
/-- The live threads of a crew in the gangs of a set: evicted threads are live (R38). -/
def State.liveIn (s : State) (ck : Nat) (members : Word) : Nat :=
  ((s.crewThreads ck).filter fun x => members.getLsbD x.2.gang).length +
    ((s.crewEvicted ck).filter fun e => members.getLsbD e.t.gang).length

/-- The thread without its signature of a convergence register and the registers that it holds for it (R38, R257). -/
def Thread.unsign (t : Thread) (c : Nat) : Thread :=
  { t with sig := t.sig.filter fun m => m.1.toNat != c, held := t.held.filter fun h => h.1 != c }

/-- A convergence register becomes ORPHANED (R38): the threads parked on it take CONV_ORPHAN, every other signer takes it at
its next instruction, signatures and held registers are released, COUNT becomes 0. -/
def State.orphanConv (s : State) (ck c : Nat) : State :=
  let s := s.modCrew ck fun cr => cr.setConv c { cr.conv c with st := .orphaned, count := 0, op := none, rel := [] }
  (s.crewThreads ck).foldl (fun st (k, t) =>
    let signed := t.sig.any fun m => m.1.toNat == c
    let here := match t.phase with | .parked (.conv m) _ => m.toNat == c | _ => false
    let st := st.modThread k fun t => t.unsign c
    if here then st.trap k .convOrphan
    else if signed then st.modThread k fun t => { t with orphan := true }
    else st) s

/-- The operation record of an instruction (R36, R384): opcode, MOD and the operand fields that every signer shares. -/
def opRecord (i : Instr) (d a : BitVec 8) (b : Word) : OpRec :=
  let w := (encode i).getD 0
  { opc := w.extractLsb' 56 8, mod := w.extractLsb' 0 16, d := d, a := a, b := b }

/-- The checks of a signature before the operation is compared (R37): the state that decides, if one does. -/
def State.convCheck (s : State) (k : Nat) (t : Thread) (c : Conv) : Option State :=
  let ck := t.crewKey k
  match s.crew? ck with
  | none => some (s.trap k .convNotArmed)
  | some cr =>
    let r := cr.conv c.toNat
    if r.st = .orphaned then some (s.trap k .convOrphan)
    else if r.st = .idle then some (s.trap k .convNotArmed)
    else if !r.members.getLsbD t.gang then some (s.trap k .convNotMember)
    else if s.liveIn ck r.members < r.expect then some (((s.orphanConv ck c.toNat).modThread k fun t => { t with orphan := false }).trap k .convOrphan)
    else if t.sig.any fun m => m.1 == c then some (s.park k (.conv c))
    else none

/-- The operation differs from the one that the first signer fixed (R37). -/
def ConvReg.mismatch (r : ConvReg) (op : OpRec) : Bool := r.count != 0 && r.op != some op

/-- The thread signs (R37): the record is fixed by the first signer; the answer says whether this was the last signature
of the generation, and the register is then open for the next one. -/
def State.addSignature (s : State) (k : Nat) (t : Thread) (c : Conv) (op : OpRec) : State × Bool :=
  let ck := t.crewKey k
  match s.crew? ck with
  | none => (s, false)
  | some cr =>
    let r := cr.conv c.toNat
    let s := s.modThread k fun t => { t with sig := t.sig ++ [(c, r.gen)] }
    if r.count + 1 = r.expect then
      let s := s.modCrew ck fun cr => cr.setConv c.toNat { r with count := 0, gen := (r.gen + 1) % 256, op := none, rel := [] }
      (s.modCrewThreads ck fun _ t =>
        { t with sig := t.sig.filter fun m => m.1 != c }, true)
    else (s.modCrew ck fun cr => cr.setConv c.toNat { r with count := r.count + 1, op := some op }, false)

/-! ### Arrivals (R40, R41) -/

/-- The resident threads of a thread's gang. -/
def State.gangThreads (s : State) (k : Nat) (t : Thread) : NMap Thread :=
  (s.crewThreads (t.crewKey k)).filter fun x => x.2.gang == t.gang
/-- The evicted threads of a thread's gang. -/
def State.gangEvicted (s : State) (k : Nat) (t : Thread) : List Evicted :=
  (s.crewEvicted (t.crewKey k)).filter fun e => e.t.gang == t.gang

/-- The thread waits at a PC under another mask. -/
def Thread.otherMask (t : Thread) (pc : DWord) (mask : Word) : Bool :=
  match t.arrival with
  | some a => a.pc == pc && a.mask != mask
  | none => false
/-- The thread has arrived at a PC. -/
def Thread.arrivedAt (t : Thread) (pc : DWord) : Bool :=
  match t.arrival with
  | some a => a.pc == pc
  | none => false

/-- Every masked lane of a gang has a resident thread that has arrived at the PC. -/
def allArrived (ts : NMap Thread) (pc : DWord) (mask : Word) : Bool :=
  (bitsSet mask.toNat 32).all fun l => ts.any fun x => laneInGang x.1 == l && x.2.arrivedAt pc

/-- A thread arrives at a JOIN or collective (R40, R41): JOIN_MASK, or a park on ARRIVE, or, when it is the last one,
the operation, which is given the keys of the threads that take part, in order of lane. -/
def State.arrive (s : State) (k : Nat) (t : Thread) (mask : Word) (perform : State → List Nat → State) : State :=
  if !mask.getLsbD (laneInGang k) || (isSteward (coreOf k) && mask != 1) then s.trap k .joinMask
  else if ((s.gangThreads k t).any fun x => x.1 != k && x.2.otherMask t.pc mask) ||
      ((s.gangEvicted k t).any fun e => e.t.otherMask t.pc mask) then s.trap k .joinMask
  else
    let s := s.modThread k fun t => { t with arrival := some { pc := t.pc, mask := mask } }
    let ts := s.gangThreads k t
    if allArrived ts t.pc mask then
      perform s ((ts.filter fun x => mask.getLsbD (laneInGang x.1) && x.2.arrivedAt t.pc).map (·.1))
    else s.park k (.arrive mask)

/-- The threads of a collective go on at the next instruction: the last arriver retires in its bundle, the parked ones
are released (R33, R41). -/
def State.release (s : State) (k : Nat) (ks : List Nat) : State :=
  let s := ks.foldl (fun st j =>
    st.modThread j fun t =>
      if j = k then { t with arrival := none } else { t.next with arrival := none, passed := true }) s
  s.retire k

/-- JOIN's release: every thread is filed at the next word with a filing time that is already aged (R40). -/
def State.joinRelease (s : State) (k : Nat) (ks : List Nat) : State :=
  let age := (s.coreRegs (coreOf k)).furcfg.toNat % 8192
  let s := ks.foldl (fun st j => (st.modThread j fun t => { t.next with arrival := none }).leave j) s
  s.fileAll (s.fileTime - age) ks

/-! ### The end of a thread (R49, R50) -/

/-- An evicted thread waits at a JOIN or a collective for a thread that ends (R40). -/
def Evicted.waitsFor (e : Evicted) (k : Nat) (t : Thread) : Bool :=
  match e.t.arrival with
  | none => false
  | some a => coreOf e.key == coreOf k && e.t.crew == t.crew && e.t.gang == t.gang && a.mask.getLsbD (laneInGang k)

/-- A precise trap of an evicted thread (R348): its record is rewritten as trap entry leaves the thread, so that the restore puts it
into its handler; a cause that cannot be delivered raises the halt line. -/
def State.trapEvicted (s : State) (v : Evicted) (c : Cause) : State :=
  let r := s.evictedRecord v
  let core := coreOf v.key
  if s.undelivered r.t core c then
    s.haltLine r.t.vf v.key (s.haltCause r.t c) false core (laneOf v.key) (slotOf v.key) 0
  else
    let t := r.t.enterTrap (s.part r.t.vf).tvec
      { cause := c, imp := false, logged := false, icode := 0, epc := r.t.pc, ecb := r.t.cb, npc := r.t.pc, ncb := r.t.cb, skid := 0
        badva := 0 } s.now
    let s := s.storeEvicted v 0 (t.record r.core r.lane r.slot true)
    { s with evicted := s.evicted.map fun x => if x.same v then { x with t := t } else x }

/-- A thread ends (R49): its stores leave its queue, its registers orphan where R38 says so, the threads that wait for
it at a JOIN take CONV_ORPHAN, its blocks return to the lane, its slot is free. -/
def State.endThread (s : State) (k : Nat) : State :=
  match s.thread? k with
  | none => s
  | some t =>
    let ck := t.crewKey k
    let s : State := (s.drainAll k).drop k
    let s : State :=
      match s.crew? ck with
      | none => s
      | some cr =>
        (upTo 0 16).foldl (fun (st : State) c =>
          let r : ConvReg := cr.conv c
          if (r.st == .armed && r.count != 0 && r.members.getLsbD t.gang) then st.orphanConv ck c else st) s
    let waiters := (s.gangThreads k t).filter fun x => x.1 != k &&
      (match x.2.phase, x.2.arrival with
       | .parked (.arrive _) _, some a => a.mask.getLsbD (laneInGang k)
       | _, _ => false)
    let s : State := waiters.foldl (fun (st : State) x => (st.modThread x.1 fun t => { t with arrival := none }).trap x.1 .convOrphan) s
    let s := (s.evicted.filter fun e => e.waitsFor k t).foldl (fun (st : State) e => st.trapEvicted e .convOrphan) s
    let s := { s with
      cmds := s.cmds.map fun (c : Cmd) =>
        if c.thr = k ∧ c.crew = ck ∧ c.gang = t.gang then
          { c with fault := c.fault.map fun (f : CmdFault) => { f with logged := false } }
        else c }
    let s : State := s.dropBlocks (coreOf k) (laneOf k) t.blocks t.regs
    let s : State := ({ s with threads := s.threads.erase k }).serveGrants (coreOf k) (laneOf k) 512
    if (s.crewThreads ck).isEmpty && (s.crewEvicted ck).isEmpty then s.modCrew ck fun cr => { cr with ended := true } else s

/-! ### The instructions -/

/-- NOP (R167). -/
def execNop (g : Guard) (s : State) : Out :=
  word (.nop g) s fun k _ => s.retire k

/-- A branch to an immediate target (R151, R160): BAD_TARGET when the word there is no header; the link, if any, is
written first. -/
def State.branchTo (s : State) (k : Nat) (t : Thread) (target : DWord) (link : Option Reg) : State :=
  if s.notHeader t.vf (coreOf k) target then s.trap k .badTarget
  else
    let s := match link with
      | some d => s.setPair k d (t.pc + 8)
      | none => s
    s.retireTo k target

/-- The target of a BR word (R144). -/
def brTarget (t : Thread) (ofs : BitVec 30) : DWord := t.pc + (ofs.signExtend 64) * 8

/-- A branch to a register target (R161). -/
def State.branchReg (s : State) (k : Nat) (t : Thread) (target : DWord) (link : Option Reg) : State :=
  if target.toNat % 8 ≠ 0 ∨ 2 ^ 56 ≤ target.toNat then s.trap k .badTarget else s.branchTo k t target link

/-- The bundle's clause end is a reform point. -/
def State.dissolve (s : State) : State := { s with issue := s.issue.map fun b => { b with dissolve := true } }
/-- The word is a branch hinted UNIFORM (R152). -/
def State.markUniform (s : State) : State := { s with issue := s.issue.map fun b => { b with uniform := true } }

/-- BRA (R160); UNIFORM is noted for the count of R152. -/
def execBra (g : Guard) (hint : Hint) (ofs : BitVec 30) (s : State) : Out :=
  word (.bra g hint ofs) s fun k t =>
    (if hint == .uniform then s.markUniform else s).branchTo k t (brTarget t ofs) none

/-- JMP: a reform point for the whole bundle (R160, R162). -/
def execJmp (g : Guard) (ofs : BitVec 30) (s : State) : Out :=
  word (.jmp g ofs) s fun k t => s.dissolve.branchTo k t (brTarget t ofs) none

/-- JMPI (R161). -/
def execJmpi (g : Guard) (a : Reg) (s : State) : Out :=
  word (.jmpi g a) s fun k t => s.branchReg k t (t.pair a) none

/-- CALL (R160). -/
def execCall (g : Guard) (d : Reg) (ofs : BitVec 30) (s : State) : Out :=
  word (.call g d ofs) s fun k t => s.branchTo k t (brTarget t ofs) (some d)

/-- CALLI: the target is read before the link is written (R161). -/
def execCalli (g : Guard) (d a : Reg) (s : State) : Out :=
  word (.calli g d a) s fun k t => s.branchReg k t (t.pair a) (some d)

/-- RET (R161). -/
def execRet (g : Guard) (a : Reg) (s : State) : Out :=
  word (.ret g a) s fun k t => s.branchReg k t (t.pair a) none

/-- EXIT is not ready while a result of the thread is outstanding or a register is held (R163; notes/assumptions/9.md). -/
def Thread.exitWaits (t : Thread) : Bool := !t.outs.isEmpty || !t.held.isEmpty

/-- SHRINK to b blocks is not ready while a register it discards is pending or held (R43, R165). -/
def Thread.shrinkWaits (t : Thread) (b : Nat) : Bool :=
  (t.outs.any fun o => o.dests.any fun r => decide (8 * b ≤ r)) || t.held.any fun h => decide (8 * b ≤ h.2)

/-- EXIT (R49, R163). -/
def execExit (g : Guard) (s : State) : Out :=
  word (.exit g) s fun k t =>
    if t.inTask then s.trap k .taskState else if t.exitWaits then s.stall else s.endThread k

/-- ENTER and GROW (R43): the registers are granted, or the thread parks on GRANT. -/
def State.grant (s : State) (k : Nat) (t : Thread) (b : Nat) : State :=
  if b ≤ t.alloc then s.retire k
  else if (s.freeBlocks (coreOf k) (laneOf k)).length < b - t.alloc ∨ s.grantQueue (coreOf k) (laneOf k) ≠ [] then
    s.park k (.grant b)
  else (s.growTo k b).retire k

/-- ENTER (R43, R164). -/
def execEnter (g : Guard) (b : BitVec 6) (s : State) : Out :=
  word (.enter g b) s fun k t => s.grant k t b.toNat

/-- GROW (R43, R164). -/
def execGrow (g : Guard) (b : BitVec 6) (s : State) : Out :=
  word (.grow g b) s fun k t => s.grant k t b.toNat

/-- SHRINK: the bundle is not ready while a register it discards is pending or held (R43, R165); the thread parks on FAULT
while one is the destination of a logged instruction (R46). -/
def execShrink (g : Guard) (b : BitVec 6) (s : State) : Out :=
  word (.shrink g b) s fun k t =>
    if t.alloc ≤ b.toNat then s.retire k
    else if t.shrinkWaits b.toNat then s.stall
    else if t.log.any fun e => e.dests.any fun r => decide (8 * b.toNat ≤ r) then s.park k .fault
    else ((s.shrinkTo k b.toNat).serveGrants (coreOf k) (laneOf k) 512).retire k

/-- JOIN (R40, R166). -/
def execJoin (g : Guard) (a : Reg) (s : State) : Out :=
  word (.join g a) s fun k t => s.arrive k t (t.r a) fun s ks => s.joinRelease k ks

/-- YIELD: a bundle that has issued a word stands at the back of its rotation, so nothing is left to do (R30, R167). -/
def execYield (g : Guard) (s : State) : Out :=
  word (.yield g) s fun k _ => s.retire k

/-- BKPT (R168). -/
def execBkpt (g : Guard) (code : BitVec 16) (s : State) : Out :=
  word (.bkpt g code) s fun k _ => s.trap k .breakpoint 0 code.toNat

/-- TRAP (R168). -/
def execTrap (g : Guard) (code : BitVec 16) (s : State) : Out :=
  word (.trap g code) s fun k _ => s.trap k .softTrap 0 code.toNat

/-- SYS (R168). -/
def execSys (g : Guard) (code : BitVec 16) (s : State) : Out :=
  word (.sys g code) s fun k _ => s.trap k .syscall 0 code.toNat

/-- RETT to NPC: a mid-clause resume (R349). -/
def execRett (g : Guard) (s : State) : Out :=
  word (.rett g) s fun k t =>
    if !t.inTrap then s.trap k .sysregBad
    else ((s.modThread k fun t => { t.leaveTrap t.tr.npc t.tr.ncb with privSince := s.now }).popTodo k).dissolve

/-- RETT.TGT (R349). -/
def execRettTgt (g : Guard) (a : Reg) (s : State) : Out :=
  word (.rettTgt g a) s fun k t =>
    let target := t.pair a
    if !t.inTrap then s.trap k .sysregBad
    else if target.toNat % 8 ≠ 0 ∨ 2 ^ 56 ≤ target.toNat ∨ s.notHeader t.vf (coreOf k) target then s.trap k .badTarget
    else ((s.modThread k fun t => { t.leaveTrap target target with privSince := s.now }).popTodo k).dissolve

end Sys2Proof.Machine
end

