-- ==== Sys2Proof/Machine/TaskOps.lean ====
section
/-!
DEFINITION. The shared operations of tasks (spec/03_tasks_queues_split.md): entries and pushes (R51 to R56), task records
(R54, R61), the write buffer (R64), read sets (R66), the abort of a task and what becomes of its entry (R68 to R71).
-/
namespace Sys2Proof.Machine

/-! ### Entries and queues -/

/-- The eight words of an entry (R51). -/
def Entry.words (e : Entry) : List Word :=
  [e.entry, e.flags, e.lo, e.hi, loWord e.arg, hiWord e.arg, e.tstamp, e.parent]

/-- The entry of eight words (R51). -/
def Entry.ofWords (ws : List Word) : Entry :=
  { entry := ws.getD 0 0, flags := ws.getD 1 0, lo := ws.getD 2 0, hi := ws.getD 3 0
    arg := pairOf (ws.getD 4 0) (ws.getD 5 0), tstamp := ws.getD 6 0, parent := ws.getD 7 0 }

/-- DIV, ORD and SIG (R52). -/
def Entry.div (e : Entry) : Bool := e.flags.getLsbD 0
/-- ORD (R52). -/
def Entry.ord (e : Entry) : Bool := e.flags.getLsbD 1
/-- SIG (R52). -/
def Entry.sig (e : Entry) : Bool := e.flags.getLsbD 2
/-- DEPTH (R52). -/
def Entry.depth (e : Entry) : Nat := bits e.flags.toNat 7 4
/-- The smallest grain 2^GRAIN (R52). -/
def Entry.grain (e : Entry) : Nat := 2 ^ bits e.flags.toNat 12 8
/-- The entry with DEPTH and PARENT as a push sets them (R56, R60). -/
def Entry.pushedBy (e : Entry) (depth : Nat) (parent : Word) : Entry :=
  { e with flags := (e.flags &&& ~~~(0xF0#32)) ||| BitVec.ofNat 32 (depth % 16 * 16), parent := parent }

/-- No parent (R54). -/
def noTask : Word := 0xFFFFFFFF

/-- Fields of QCFG (R55). -/
def Queue.en (q : Queue) : Bool := q.qcfg.getLsbD 0
/-- ORD. -/
def Queue.ordered (q : Queue) : Bool := q.qcfg.getLsbD 1
/-- PRIO. -/
def Queue.prio (q : Queue) : Nat := bits q.qcfg.toNat 3 2
/-- WEIGHT. -/
def Queue.weight (q : Queue) : Nat := bits q.qcfg.toNat 7 4
/-- PART. -/
def Queue.vf (q : Queue) : Nat := bits q.qcfg.toNat 11 8
/-- The write buffer in 16-byte units. -/
def Queue.wbufUnits (q : Queue) : Nat := (bits q.qcfg.toNat 17 12 + 1) * 256
/-- TALLOW in cycles; 0 means no limit. -/
def Queue.tallow (q : Queue) : Nat := bits q.qcfg.toNat 33 18 * 4096
/-- Spillway capacity in entries. -/
def Queue.spcap (q : Queue) : Nat := 2 ^ bits q.qcfg.toNat 38 34
/-- The spillway's virtual address. -/
def Queue.spva (q : Queue) : Nat := bits q.qspill.toNat 55 16 * 65536
/-- The queue holds an entry, on chip or in the spillway. -/
def Queue.holds (q : Queue) : Nat := q.ents.length + q.spcnt

/-- R53: an entry that a push rejects; `fresh` says that it is a new push. -/
def Queue.rejects (q : Queue) (e : Entry) (fresh : Bool) : Bool :=
  e.entry == 0 || e.hi.ult e.lo || e.flags &&& 0xFF00E008#32 != 0 || e.ord != q.ordered ||
    (q.ordered && fresh && e.tstamp.ult q.lastTs)

/-- The core by which the hub engines translate. -/
def hubCore : Nat := 144

/-- The address of a spillway place. -/
def Queue.place (q : Queue) (i : Nat) : Nat := q.spva + 32 * (i % q.spcap)

/-- What a push answers. -/
inductive PushRes where
  | pushed (s : State)
  /-- R53 -/
  | badEntry
  /-- R56: SPILLWAY_FAULT, with the address of the spillway place -/
  | spillFault (va : DWord)

/-- A new push into a queue (R53, R56): on chip while the queue's places last and nothing is spilled, else into the
spillway. -/
def State.pushNew (s : State) (n : Nat) (e : Entry) : PushRes :=
  let q := s.queue n
  if q.rejects e true then .badEntry
  else if q.spcnt = 0 ∧ q.ents.length < 64 then
    .pushed (s.modQueue n fun q => { q with ents := q.ents ++ [(e, q.seq)], seq := (q.seq + 1) % 2 ^ 64, lastTs := e.tstamp })
  else
    let va := q.place (q.sphead + q.spcnt)
    if q.spcap ≤ q.spcnt then .spillFault (BitVec.ofNat 64 va)
    else
      match s.access agHeadgate q.vf hubCore va .write with
      | .error _ => .spillFault (BitVec.ofNat 64 va)
      | .ok l =>
        .pushed ((s.devPut l va (bytesOfWords e.words)).modQueue n fun q =>
          { q with spcnt := q.spcnt + 1, spseq := q.spseq ++ [q.seq], seq := (q.seq + 1) % 2 ^ 64, lastTs := e.tstamp })

/-- A task's key is at or below another's (R56): TSTAMP, SEQ, LO. -/
def keyLe (a b : Entry × Nat) : Bool :=
  decide (a.1.tstamp.toNat < b.1.tstamp.toNat) ||
    (a.1.tstamp == b.1.tstamp && (decide (a.2 < b.2) || (a.2 == b.2 && decide (a.1.lo.toNat ≤ b.1.lo.toNat))))

/-- A task's key is below another's. -/
def keyLt (a b : Entry × Nat) : Bool := keyLe a b && !keyLe b a

/-- The spillway entry at a place counted from its front, as the Headgate reads it, with its SEQ; none when the place cannot
be translated. -/
def State.ringEntry (s : State) (n i : Nat) : Option (Entry × Nat) :=
  let q := s.queue n
  match s.access agHeadgate q.vf hubCore (q.place (q.sphead + i)) .read with
  | .ok l => some (Entry.ofWords (wordsOf (s.readLoc agHeadgate l (q.place (q.sphead + i)) 32)), q.spseq.getD i 0)
  | .error _ => none

/-- Write an entry to a place of the spillway. -/
def State.ringWrite (s : State) (n i : Nat) (e : Entry) : Option State :=
  let q := s.queue n
  match s.access agHeadgate q.vf hubCore (q.place i) .write with
  | .ok l => some (s.devPut l (q.place i) (bytesOfWords e.words))
  | .error _ => none

/-- A returned entry joins the spillway (R65): the entries before it, which have lower keys in an ordered queue, move one
place to the front, `j` of them so far. None when the ring is full or a place cannot be translated. -/
def State.ringInsert (s : State) (n : Nat) (x : Entry × Nat) : Nat → Nat → Option State
  | 0, _ => none
  | fuel + 1, j =>
    let q := s.queue n
    let put : Option State :=
      (s.ringWrite n (q.sphead + q.spcap - 1 + j) x.1).map fun s => s.modQueue n fun q =>
        { q with sphead := (q.sphead + q.spcap - 1) % q.spcap, spcnt := q.spcnt + 1
                 spseq := q.spseq.take j ++ x.2 :: q.spseq.drop j }
    if q.spcap ≤ q.spcnt then none
    else if q.ordered = true ∧ j < q.spcnt then
      match s.ringEntry n j with
      | none => none
      | some y =>
        if keyLt y x then (s.ringWrite n (q.sphead + q.spcap - 1 + j) y.1).bind fun s => s.ringInsert n x fuel (j + 1)
        else put
    else put

/-- The last entry on chip goes to the spillway, to make room for a returned one. While the ring is full or a place of it
cannot be translated the entry stays on chip, beyond the 64 places (DESIGN CHOICE, notes/assumptions/24.md). -/
def State.spillLast (s : State) (n : Nat) : State :=
  let q := s.queue n
  match q.ents.getLast? with
  | none => s
  | some x =>
    if q.ents.length ≤ 64 then s
    else
      match s.ringInsert n x (q.spcnt + 1) 0 with
      | some s => s.modQueue n fun q => { q with ents := q.ents.dropLast }
      | none => s

/-- An entry returns to the chip: in an ordered queue it takes its place in key order, on chip or, when the spillway holds
a lower key, in the ring (R65). -/
def State.returnOne (s : State) (n : Nat) (x : Entry × Nat) : State :=
  let q := s.queue n
  let onChip : State := (s.modQueue n fun q => { q with ents := if q.ordered then insertBy keyLe x q.ents else x :: q.ents }).spillLast n
  if q.ordered = true ∧ 0 < q.spcnt then
    match s.ringEntry n 0 with
    | some y => if keyLt y x then (s.ringInsert n x (q.spcnt + 1) 0).getD onChip else onChip
    | none => onChip
  else onChip

/-- Entries return to the head of a queue with the SEQ they had (R65, R71): in an ordered queue in key order, else in the
order given, the first on top. -/
def State.returnEntries (s : State) (n : Nat) (es : List (Entry × Nat)) : State :=
  es.reverse.foldl (fun (st : State) x => st.returnOne n x) s

/-! ### Task records (R54, R61) -/

/-- The lowest free index of a partition's task-record area. -/
def freeIndex : NMap TaskRec → Nat → Nat
  | [], n => n
  | (k, r) :: m, n => if k = n ∧ r.live = true then freeIndex m (n + 1) else n

/-- The record of a handle's index. -/
def State.taskRec (s : State) (vf : Nat) (h : Word) : TaskRec :=
  (s.part vf).tasks.getD (h.toNat % 2 ^ 24)
    { gen := 0, live := false, e := Entry.ofWords [], outstanding := 0, committed := false }

/-- The 32 bytes of a task record in the partition's task-record area (R54): ARG, PARENT, the count of children, FLAGS, the
generation, and whether it is live and committed. The spec gives the record no layout: this one is the model's own (DESIGN
CHOICE, notes/assumptions/27.md). -/
def TaskRec.bytes (r : TaskRec) : List Byte :=
  bytesOf r.e.arg.toNat 8 ++ bytesOf r.e.parent.toNat 4 ++ bytesOf r.outstanding 4 ++ bytesOf r.e.flags.toNat 4 ++
    bytesOf r.gen 1 ++ bytesOf (r.live.toNat + 2 * r.committed.toNat) 1 ++ List.replicate 10 0

/-- The record that 32 bytes of the area hold. -/
def TaskRec.ofBytes (bs : List Byte) : TaskRec :=
  { gen := fieldAt bs 20 1, live := (fieldAt bs 21 1).testBit 0, committed := (fieldAt bs 21 1).testBit 1
    outstanding := fieldAt bs 12 4
    e := { Entry.ofWords [] with arg := BitVec.ofNat 64 (fieldAt bs 0 8), parent := BitVec.ofNat 32 (fieldAt bs 8 4)
                                 flags := BitVec.ofNat 32 (fieldAt bs 16 4) } }

/-- The virtual address of record i of a partition's area (R54, R368). -/
def Part.recVa (p : Part) (i : Nat) : Nat := p.trarea.toNat + 32 * i

/-- Where record i of a partition's area lies, as the Headgate translates it. -/
def State.recPlace (s : State) (vf i : Nat) : Except Cause Loc :=
  if 2 ^ 56 ≤ (s.part vf).recVa i then .error .addrRange
  else s.access agHeadgate vf hubCore ((s.part vf).recVa i) .write

/-- The Headgate writes a record that has changed to the area (R54); a place that can no longer be translated goes to the error
vector. -/
def State.storeRec (s : State) (vf i : Nat) : State :=
  match (s.part vf).tasks.find? i with
  | none => s
  | some r =>
    match s.recPlace vf i with
    | .ok l => s.devPut l ((s.part vf).recVa i) r.bytes
    | .error c => s.errVector vf c.code (BitVec.ofNat 64 ((s.part vf).recVa i))

/-- The Headgate reads the records of a partition's area (R390): those that have been used. -/
def State.loadRecs (s : State) (vf : Nat) : State :=
  let rs := (upTo 0 (s.part vf).trcount.toNat).filterMap fun i =>
    match s.recPlace vf i with
    | .ok l =>
      let bs := s.readLoc agHeadgate l ((s.part vf).recVa i) 32
      if bs.all (· == 0) then none else some (i, TaskRec.ofBytes bs)
    | .error _ => none
  s.modPart vf fun p => { p with tasks := rs }

/-- A handle names a live record. -/
def State.recLive (s : State) (vf : Nat) (h : Word) : Bool :=
  h != noTask && (s.taskRec vf h).live && (s.taskRec vf h).gen == h.toNat / 2 ^ 24

/-- Change the record of a handle. -/
def State.modRec (s : State) (vf : Nat) (h : Word) (f : TaskRec → TaskRec) : State :=
  if s.recLive vf h then
    (s.modPart vf fun p => { p with tasks := p.tasks.modify (h.toNat % 2 ^ 24) f }).storeRec vf (h.toNat % 2 ^ 24)
  else s

/-- A task record is free (R54): none is when the area is full or the place of the lowest free one cannot be translated. -/
def State.recFree (s : State) (vf : Nat) : Bool :=
  let i := freeIndex (s.part vf).tasks 0
  decide (i < (s.part vf).trcount.toNat) && (s.recPlace vf i).isOk

/-- Allocate a task record (R54): the lowest free one. -/
def State.allocRec (s : State) (vf : Nat) (e : Entry) : Option (State × Word) :=
  let p := s.part vf
  let i := freeIndex p.tasks 0
  if s.recFree vf then
    let gen := (p.tasks.getD i { gen := 0, live := false, e := e, outstanding := 0, committed := false }).gen
    some ((s.setPart vf { p with
        tasks := p.tasks.set i { gen := gen, live := true, e := e, outstanding := 0, committed := false } }).storeRec vf i,
      BitVec.ofNat 32 (gen % 256 * 2 ^ 24 + i))
  else none

/-- Free a record: its generation goes on (R54). -/
def State.freeRec (s : State) (vf : Nat) (h : Word) : State :=
  s.modRec vf h fun r => { r with live := false, gen := (r.gen + 1) % 256 }

/-! ### Signals changed by the device (R61, R71) -/

/-- Change a signal by its virtual address as a hub engine (R61, R71): a fault of its translation is reported to the error
vector and nothing is changed. -/
def State.hubSignal (s : State) (vf : Nat) (va add : DWord) (notify : Bool) : State :=
  if va.toNat % 16 ≠ 0 then s.errVector vf Cause.misaligned.code va
  else if 2 ^ 56 ≤ va.toNat then s.errVector vf Cause.addrRange.code va
  else
    match s.access agHeadgate vf hubCore va.toNat .write with
    | .error c => s.errVector vf c.code va
    | .ok l =>
      (s.keep l.ent).changeSignal .device agHeadgate vf l va.toNat add notify (s.visibleTo agHeadgate)

/-- An entry completes (R61): with SIG its signal goes down, then the task record that its PARENT names counts one child less. -/
def State.completeEntry (s : State) (vf : Nat) (e : Entry) : State :=
  (if e.sig then s.hubSignal vf e.arg (0 - 1) true else s).modRec vf e.parent fun p => { p with outstanding := p.outstanding - 1 }

/-! ### The write buffer (R64) -/

/-- Units of a record (R64). -/
def BufRec.units : BufRec → Nat
  | .line _ _ => 9
  | .red _ _ _ _ _ => 2
  | .xadd _ _ _ _ _ => 2
  | .signal _ _ _ => 2
  | .push _ _ => 3
  | .cmd _ => 5

/-- Units in use. -/
def Task.units (t : Task) : Nat := t.buf.foldl (fun n r => n + r.units) 0

/-- Is a byte's line in the buffer already? -/
def Task.hasLine (t : Task) (va : Nat) : Bool :=
  t.buf.any fun r => match r with | .line l _ => l == va / 128 | _ => false

/-- Merge one byte into its line record (R64). -/
def mergeByte (va : Nat) (b : Byte) : List BufRec → List BufRec
  | [] => [.line (va / 128) [(va, b)]]
  | .line l bs :: rs => if l = va / 128 then .line l (NMap.set bs va b) :: rs else .line l bs :: mergeByte va b rs
  | r :: rs => r :: mergeByte va b rs

/-- The lines of bytes that have no record yet. -/
def Task.newLines (t : Task) (bs : List Host.Cell) : List Nat :=
  ((bs.map fun c => c.1 / 128).eraseDups).filter fun l => !t.hasLine (l * 128)

/-- The buffered byte at a virtual address. -/
def bufferedByte (va : Nat) : List BufRec → Option Byte
  | [] => none
  | .line l bs :: rs => if l = va / 128 then NMap.find? bs va else bufferedByte va rs
  | _ :: rs => bufferedByte va rs

/-- Bytes read from memory with the task's buffered bytes over them (R189). -/
def Task.forward (t : Task) (va : Nat) : List Byte → List Byte
  | [] => []
  | b :: bs => (bufferedByte va t.buf).getD b :: Task.forward t (va + 1) bs

/-! ### Read sets (R66) -/

/-- The task's queue is ordered. -/
def State.taskOrdered (s : State) (t : Task) : Bool := (s.queue t.q).ordered

/-- The lines of an access of n bytes. -/
def linesOf (va n : Nat) : List Nat := upTo (va / 128) ((va + n - 1) / 128 + 1 - va / 128)

/-- The running tasks of a queue, with their crews. -/
def State.running (s : State) (q : Nat) : List (Nat × Task) :=
  s.crews.filterMap fun (c, cr) => cr.task.bind fun t => if t.q = q then some (c, t) else none

/-- The task is the oldest uncommitted one of its ordered queue (R65): no running task and no queued entry has a lower key.
The spillway is in key order, so its front entry answers for it; one that cannot be read leaves the task waiting. -/
def State.oldest (s : State) (ck : Nat) (t : Task) : Bool :=
  let key := (t.e, t.seq)
  ((s.running t.q).all fun x => x.1 == ck || !keyLt (x.2.e, x.2.seq) key) &&
    ((s.queue t.q).ents.all fun e => !keyLt e key) &&
    ((s.queue t.q).spcnt == 0 || (match s.ringEntry t.q 0 with | some y => !keyLt y key | none => false))

/-- May an access of these lines be made, or would it be a 65th line held until the task is the oldest (R66)? -/
def State.readHeld (s : State) (ck : Nat) (t : Task) (lines : List Nat) : Bool :=
  s.taskOrdered t && decide (64 < (lines.foldl (fun l x => insertNat x l) t.rset).length) && !s.oldest ck t

/-- A read set with further lines; that of the oldest task, which no conflict aborts, keeps at most 64 (R66, R67, R73). -/
def addLines (oldest : Bool) (rset lines : List Nat) : List Nat :=
  lines.foldl (fun l x => if oldest && decide (64 ≤ l.length) then l else insertNat x l) rset

/-- Enter lines into the read set of a crew's task, when its queue is ordered (R66). -/
def State.noteReads (s : State) (ck : Nat) (lines : List Nat) : State :=
  match s.task? ck with
  | none => s
  | some t =>
    if s.taskOrdered t then s.modTask ck fun t => { t with rset := addLines (s.oldest ck t) t.rset lines } else s

/-! ### Aborting a task (R68 to R71) -/

/-- The entry can be split (R71). -/
def Entry.splits (e : Entry) : Bool := e.div && decide (e.grain < e.hi.toNat - e.lo.toNat)

/-- END of TSTAT.LAST (R73). -/
def AbortKind.endCode (k : AbortKind) (splits : Bool) : Nat :=
  match k with
  | .exhausted _ => if splits then 2 else 3
  | .tsplit => 4
  | .conflict => 7
  | .requeue => 6
  | .cancel => 5

/-- Of two aborts that one cycle asks for, the one that is reported (R69): an exhaustion before TSPLIT and TABORT, of two exhaustions
the lower WHY, else the earlier one. -/
def AbortKind.first (a b : AbortKind) : AbortKind :=
  match a, b with
  | .exhausted v, .exhausted w => if w < v then b else a
  | .exhausted _, _ => a
  | _, .exhausted _ => b
  | _, _ => a

/-- An instruction of the crew's task asks for an abort: the end of the cycle resolves it (R69). -/
def State.askAbort (s : State) (ck : Nat) (kind : AbortKind) : State :=
  s.modTask ck fun t => { t with due := some ((t.due.map fun a => a.first kind).getD kind) }

/-- WHY of TSTAT.LAST (R68). -/
def AbortKind.why : AbortKind → Nat
  | .exhausted w => w
  | _ => 0

/-- A thread as an abort leaves it (R70): restarted at a PC, everything of the task gone; FCTL is kept. -/
def Thread.restart (t : Thread) (regs : Nat) (pc : DWord) (stay : Option Cause) (gd : Nat) (e : Entry) : Thread :=
  let t := { t with
    pc := pc, cb := t.tpop.2, regs := List.replicate (8 * t.alloc) 0, preds := 0, kcnt := List.replicate 8 0, fstat := 0
    tr := { t.tr with sstat := 0 }, arrival := none, sig := [], held := [], outs := [], wins := [], log := [], imps := []
    inTask := stay.isSome, orphan := false, pendCause := stay, acqFault := false, fetchFault := none, fetchDecl := none
    grainTrap := stay.isSome, rsHold := false, passed := false, phase := .active, replayWait := false }
  if stay.isSome ∧ 0 < regs then t.setRegs gd e.words else t

/-- Threads leave every bundle they are in. -/
def State.unbundle (s : State) (ks : List Nat) : State :=
  let drop (b : Bundle) : Bundle :=
    { b with members := b.members.filter (fun k => !ks.contains k), todo := b.todo.filter (fun k => !ks.contains k) }
  let hit (b : Bundle) : Bool := b.members.any fun k => ks.contains k
  { s with
    issue := s.issue.map fun b => if hit b then { drop b with dissolve := true } else b
    lgs := s.lgs.mapKV fun _ l => { l with rotation := (l.rotation.map drop).filter fun b => !b.members.isEmpty } }

/-- A thread's allocation becomes the crew's `.regs` (R70). -/
def State.resetAlloc (s : State) (k regs : Nat) : State :=
  match s.thread? k with
  | none => s
  | some t => if regs ≤ t.alloc then s.shrinkTo k regs else s.growTo k regs

/-- Commands and matrix operations of a crew's task stop; the sectors they took become EMPTY (R70, R109).
Every operation that the crew has queued counts as the task's, also one that it issued before its TPOP: R267 does not say (the model's
choice, notes/assumptions/25.md). -/
def State.stopTaskCommands (s : State) (ck : Nat) (h : Word) : State :=
  let mine (c : Cmd) : Bool := c.crew == ck && c.task == some h
  let cs := s.cmds.filter mine
  let ms := s.mats.filter fun m => m.core * 64 + m.crew == ck
  let held := match s.task? ck with
    | some t => t.buf.filterMap fun r => match r with | .cmd c => some c | _ => none
    | none => []
  let taken := (cs ++ held).flatMap (fun c => c.got.map (·.1)) ++ ms.flatMap (fun m => m.got.map (·.1))
  ({ s with cmds := s.cmds.filter (fun c => !mine c), mats := s.mats.filter fun m => m.core * 64 + m.crew != ck }).setSectors
    taken .empty

/-- The sectors of rows of a crew. -/
def rowSectors (core : Nat) (c : Crew) (row rows : Nat) : List Nat :=
  upTo (crewAddr core c (row * 2048) / 32) (rows * 64)

/-- The crew's tiles cleared (R251, R267). -/
def State.clearTiles (s : State) (ck : Nat) : State :=
  match s.crew? ck with
  | none => s
  | some c => { s with tiles := c.tiles.foldl (fun m t => m.erase (ck / 64 * 16 + t)) s.tiles }

/-- The regions and maps that a task made are released (R64, R70, R305); at an abort their sectors become EMPTY. -/
def State.releaseTaskSpace (s : State) (ck : Nat) (h : Word) (abort : Bool) : State :=
  match s.crew? ck with
  | none => s
  | some c =>
    let mine := c.regions.filter fun r => r.task == some h
    let s := if abort then s.setSectors (mine.flatMap fun r => rowSectors (ck / 64) c r.row r.rows) .empty else s
    s.modCrew ck fun c =>
      ({ c with regions := c.regions.filter fun r => r.task != some h }).dropMaps fun m _ => m.task == some h

/-- The entry of an aborted task, when it splits (R71): the signal and the parent count go up, then both halves return to
the head. -/
def State.splitEntry (s : State) (vf q : Nat) (e : Entry) (sq : Nat) : State :=
  let mid := e.lo + BitVec.ofNat 32 ((e.hi.toNat - e.lo.toNat) / 2)
  let s := if e.sig then s.hubSignal vf e.arg 1 false else s
  let s := s.modRec vf e.parent fun r => { r with outstanding := r.outstanding + 1 }
  s.returnEntries q [({ e with hi := mid }, sq), ({ e with lo := mid }, sq)]

/-- Every convergence register of the crew has COUNT 0 and keeps its arming (R38, R70). -/
def Crew.resetCounts (c : Crew) : Crew :=
  { c with convs := c.convs.map fun r => { r with count := 0, op := none, rel := [] } }

/-- The task's restart for one thread, resident (R70, R71). -/
def State.restartThread (s : State) (k regs gd : Nat) (off : DWord) (stay : Option Cause) (e : Entry) : State :=
  let s := s.resetAlloc k regs
  let s := s.modThread k fun t => t.restart regs (t.tpop.1 + off) stay gd e
  (s.serveGrants (coreOf k) (laneOf k) 512).file s.fileTime k

/-- The same for an evicted thread: its record is rewritten (R371). -/
def State.restartEvicted (s : State) (v : Evicted) (regs gd : Nat) (off : DWord) (stay : Option Cause) (e : Entry) : State :=
  let r := s.evictedRecord v
  let t := ({ r.t with alloc := regs, tpop := v.t.tpop }).restart regs (v.t.tpop.1 + off) stay gd e
  let s := s.storeEvicted v 0 (t.record r.core r.lane r.slot true)
  { s with evicted := s.evicted.map fun x => if x.same v then { x with t := t } else x }

/-- ABORT (R70) and what becomes of the entry (R71). A task that commits is not aborted (R63, R69), and one that has signed
TDONE only by a conflict. -/
def State.abortTask (s : State) (ck : Nat) (kind : AbortKind) : State :=
  match s.crew? ck with
  | none => s
  | some c =>
    match c.task with
    | none => s
    | some t =>
      if t.committing || (t.signer.isSome && kind != .conflict) then s
      else
        let e := t.e
        let sp := e.splits && (match kind with | .exhausted _ => true | .tsplit => true | _ => false)
        let stay : Option Cause :=
          match kind with
          | .exhausted _ => if sp then none else some (if e.div then .smallestGrain else .notDivisible)
          | _ => none
        let ks := (s.crewThreads ck).map (·.1)
        let off : DWord := if stay.isSome then 8 else 0
        let gd := c.popD
        let s := s.unbundle ks
        let s := ((s.stopTaskCommands ck t.handle).releaseTaskSpace ck t.handle true).clearTiles ck
        let s := s.modCrew ck fun c => c.resetCounts
        let s := ks.foldl (fun (st : State) k => st.restartThread k c.regs gd off stay e) s
        let s := (s.crewEvicted ck).foldl (fun (st : State) v => st.restartEvicted v c.regs gd off stay e) s
        let s := s.modCrew ck fun c => { c with
          last := (kind.endCode sp, kind.why, t.q), pop := none
          task := none }
        match kind with
        | .cancel => s.modRec c.vf t.handle fun r => { r with committed := true, outstanding := 0 }
        | .conflict => (s.freeRec c.vf t.handle).returnEntries t.q [(e, t.seq)]
        | .requeue => (s.freeRec c.vf t.handle).returnEntries t.q [(e, t.seq)]
        | _ =>
          let s := s.freeRec c.vf t.handle
          if sp then s.splitEntry c.vf t.q e t.seq
          else
            match s.allocRec c.vf e with
            | none => s
            | some (s, h) =>
              s.modCrew ck fun c => { c with task := some { t with
                handle := h, elapsed := 0, buf := [], rset := [], signer := none, committing := false, nextRec := 0, held := false
                rel := [], due := none } }

/-- A record enters the write buffer of the crew's task; one that would exceed it exhausts the task instead, at the end of the cycle
(R64, R68, R69). -/
def State.bufferRec (s : State) (ck : Nat) (r : BufRec) : State × Bool :=
  match s.task? ck with
  | none => (s, false)
  | some t =>
    if (s.queue t.q).wbufUnits < t.units + r.units then ((s.askAbort ck (.exhausted 3)).stall, false)
    else (s.modTask ck fun t => { t with buf := t.buf ++ [r] }, true)

/-- Stored bytes enter the write buffer by their virtual addresses (R64, R189). -/
def State.bufferBytes (s : State) (ck : Nat) (bs : List Host.Cell) : State × Bool :=
  match s.task? ck with
  | none => (s, false)
  | some t =>
    if (s.queue t.q).wbufUnits < t.units + 9 * (t.newLines bs).length then ((s.askAbort ck (.exhausted 3)).stall, false)
    else (s.modTask ck fun t => { t with buf := bs.foldl (fun l c => mergeByte c.1 c.2 l) t.buf }, true)

end Sys2Proof.Machine
end

