-- ==== Sys2Proof/Machine/Memory.lean ====
section
/-!
DEFINITION. Global loads and stores, typed loads, prefetch, atomics, exact reductions, fences and the on-chip map
(spec/09_isa_memory_lanes.md R186 to R202; spec/05_memory_spaces.md R103, R107, R108, R117; spec/06_consistency.md).
-/
namespace Sys2Proof.Machine

/-! ### Faults of an access -/

/-- The instruction is a LDT. -/
def isLdt : Instr → Bool
  | .ldt .. => true
  | _ => false

/-- An imprecise cause of the thread's instruction i (R45): the thread goes on, its lookahead window open as after any other
issue (R150), and takes it at the next instruction it would issue. SKID counts from the instruction, also when it is met in a
replay. -/
def State.imprecise (s : State) (i : Instr) (k : Nat) (c : Cause) (va : DWord) : State :=
  if s.replaying then (s.modThread k fun t => t.addImp c t.pc t.cb va (s.wordNo t)).popTodo k
  else
    (s.modThread k fun t =>
      laOf (infoOf i).la (infoOf i).writes (isLdt i) (t.skip.addImp c t.pc t.cb va (s.wordNo t))).popTodo k

/-- A fault of a global load (R45, R187): a recoverable one is logged, and an acquire then parks at the next instruction;
every other one is imprecise. -/
def State.loadFault (s : State) (i : Instr) (k : Nat) (c : Cause) (va : DWord) (acq : Bool) : State :=
  if c.recoverable then
    let s := s.logFault k ((encode i).getD 0) (infoOf i).reads (infoOf i).writes c va .goesOn (infoOf i).la (isLdt i)
    if acq && !s.replaying then s.modThread k fun t => { t with acqFault := true } else s
  else s.imprecise i k c va

/-- A fault of a store or atomic (R45, R188): a recoverable one is logged and the thread parks at the instruction itself; one that
R357 gives kind I, of a peer that does not answer, is imprecise; every other one is precise. -/
def State.storeFault (s : State) (i : Instr) (k : Nat) (c : Cause) (va : DWord) : State :=
  if c.recoverable then s.logFault k ((encode i).getD 0) (infoOf i).reads (infoOf i).writes c va .parksHere
  else if c = .linkDown ∨ c = .peerFail then s.imprecise i k c va
  else s.trap k c va

/-- The checks of R103 on a global address. -/
def operandCause (va : DWord) (n : Nat) : Option Cause :=
  if va.toNat % n ≠ 0 then some .misaligned else if 2 ^ 56 ≤ va.toNat then some .addrRange else none

/-- The global address of a MEM instruction (R186). -/
def memVa (t : Thread) (a : Reg) (imm : BitVec 24) : DWord := t.pair a + imm.signExtend 64

/-- Bytes of an access (R145). -/
def widthBytes : Width → Nat
  | .z8 | .s8 => 1
  | .z16 | .s16 => 2
  | .b32 => 4
  | .b64 => 8
  | .b128 => 16

/-- The registers that a load of a width fills (R187). -/
def loadWords (w : Width) (bs : List Byte) : List Word :=
  let x := natOf bs
  match w with
  | .s8 => [(BitVec.ofNat 8 x).signExtend 32]
  | .s16 => [(BitVec.ofNat 16 x).signExtend 32]
  | .b64 => wordsOfNat x 2
  | .b128 => wordsOfNat x 4
  | _ => [BitVec.ofNat 32 x]

/-- The bytes that a store of a width writes (R188). -/
def storeBytes (w : Width) (t : Thread) (d : Reg) : List Byte :=
  bytesOf (natOfWords (t.rs d w.regs)) (widthBytes w)

/-- The thread's own stores in its queue, over bytes read from memory (R123). -/
def queuedByte (p : Nat) (old : Byte) : List StoreQ → Byte
  | [] => old
  | q :: qs => queuedByte p ((cellAt q.bytes p).getD old) qs

/-- Read bytes as a thread (R123, R189): memory as its core sees it, its own queued stores, its task's buffer. -/
def State.threadRead (s : State) (k : Nat) (t : Thread) (l : Loc) (va n : Nat) : List Byte :=
  if inTail l va then List.replicate n 0
  else
    let bs := (upTo l.key n).map fun p => queuedByte p (s.readByte (coreOf k) p) t.storeq
    match if t.inTask then s.task? (t.crewKey k) else none with
    | some task => task.forward va bs
    | none => bs

/-- What serves a place: 0 this device, 1 host memory, 2 a peer. -/
def Loc.server (l : Loc) : Nat := if l.tgt = 3 then 1 else if l.tgt = 4 then 2 else 0

/-- The thread has loaded: what its core sees now is what a later release of the thread covers (R127). Whatever answers a value
counts: a load of the scratchpad or of the on-chip map, an atomic or an exact add (the model's choice, notes/assumptions/13.md). -/
def State.noteSeen (s : State) (k : Nat) : State := s.modThread k fun t => { t with seen := s.visibleTo (coreOf k) }

/-- Note what a load saw, for later releases (R127), and its lines in the read set (R66). -/
def State.sawLoad (s : State) (k : Nat) (t : Thread) (l : Loc) (va n : Nat) : State :=
  let s := (s.keep l.ent).noteSeen k
  if t.inTask && !l.sealed then s.noteReads (t.crewKey k) (linesOf va n) else s

/-- A read that would take an ordered task past 64 lines is held: the bundle is not ready (R66). -/
def State.holdLines (s : State) (k : Nat) (t : Thread) (l : Loc) (lines : List Nat) : Bool :=
  t.inTask && !l.sealed &&
    (match s.task? (t.crewKey k) with
     | some task => s.readHeld (t.crewKey k) task lines
     | none => false)

/-- A read of n bytes that R66 holds. -/
def State.holdRead (s : State) (k : Nat) (t : Thread) (l : Loc) (va n : Nat) : Bool := s.holdLines k t l (linesOf va n)

/-- The thread's read is held by R66. -/
def State.holdThread (s : State) (k : Nat) : State :=
  (s.modThread k fun t => { t with rsHold := true }).stall

/-- A load that is performed: its value waits for LONG_LATENCY_COMPLETE. -/
def State.issueLoad (s : State) (i : Instr) (k : Nat) (t : Thread) (la : Nat) (dests : List Nat) (vals : List Word)
    (flags : FFlags) (isFloat : Bool) (l : Loc) (va : DWord) : State :=
  s.issueLong k la
    { i := i, pc := t.pc, cb := t.cb, dests := dests, vals := vals, flags := flags, isFloat := isFloat, isMem := true
      target := l.server, port := s.portFor l va, va := va, mat := none, at_ := t.issued + 1 }

/-- A store or a reduction has been sent: one to a peer, and an atomic to the host, stays outstanding, with no register to fill,
until its response comes (R393, R396). -/
def State.sent (s : State) (i : Instr) (k : Nat) (t : Thread) (l : Loc) (va : DWord) (atomic : Bool) : State :=
  if l.server = 2 ∨ (l.server = 1 ∧ atomic = true) then
    s.issueLong k 0
      { i := i, pc := t.pc, cb := t.cb, dests := [], vals := [], flags := 0, isFloat := false, isMem := false
        target := l.server, port := s.portFor l va, va := va, mat := none, at_ := t.issued + 1 }
  else s.retire k

/-- A read of a peer window is issued behind the thread's earlier stores: a window keeps the order of issue (R396). -/
def State.forWindow (s : State) (k : Nat) (l : Loc) : State := if l.tgt = 4 then s.drainAll k else s

/-- Where a store or an atomic of a thread goes (R402): ATOM_TARGET, where `ok` refuses the place, comes before what only the
target reports; what a task buffers is not sent yet (R64). -/
def State.storeAccess (s : State) (k : Nat) (t : Thread) (va : DWord) (ok : Loc → Bool) : Except Cause Loc :=
  match s.xlate (coreOf k) t.vf (tlbPort k) va.toNat .write with
  | .error c => .error c
  | .ok l => if !ok l then .error .atomTarget else if t.inTask then .ok l else s.sendTo t.vf va.toNat l

/-- A global load of n bytes whose value is formed by `vals` (R187, R247). -/
def State.globalLoad (s : State) (i : Instr) (k : Nat) (t : Thread) (la : Nat) (va : DWord) (n : Nat) (acq : Bool)
    (dests : List Nat) (vals : List Byte → List Word) : State :=
  match operandCause va n with
  | some c => s.loadFault i k c va acq
  | none =>
    match s.access (coreOf k) t.vf (tlbPort k) va.toNat .read with
    | .error c => s.loadFault i k c va acq
    | .ok l =>
      if s.holdRead k t l va.toNat n then s.holdThread k
      else
        let s := s.forWindow k l
        let vs := vals (s.threadRead k t l va.toNat n)
        (s.sawLoad k t l va.toNat n).issueLoad i k t la dests vs 0 false l va

/-- LD (R187). -/
def execLd (g : Guard) (la : BitVec 4) (w : Width) (acq : Bool) (sc : Scope) (d a : Reg) (imm : BitVec 24) (s : State) :
    Out :=
  word (.ld g la w acq sc d a imm) s fun k t =>
    s.globalLoad (.ld g la w acq sc d a imm) k t la.toNat (memVa t a imm) (widthBytes w) acq (regNums d w.regs)
      (loadWords w)

/-- The released set of a thread's store or atomic (R127): what its loads have seen, for a release at a scope mask, and the
sets of its FENCE.RELs. -/
def Thread.released (t : Thread) (rel : Option Nat) : List (Nat × Nat) :=
  (match rel with | some m => t.seen.map fun n => (n, m) | none => []) ++ t.relNeed

/-- A queue whose latest store loses the bytes at places that a higher lane of the same instruction stores to (R113). -/
def hideLast (bs : List Host.Cell) : List StoreQ → List StoreQ
  | [] => []
  | [q] => [{ q with bytes := q.bytes.filter fun c => (cellAt bs c.1).isNone }]
  | q :: qs => q :: hideLast bs qs

/-- The members of the bundle that have stored in the word that is issuing. -/
def State.wordStores (s : State) : List Nat := match s.issue with | some b => b.stored | none => []

/-- A thread's latest queued store has a byte at one of these places. -/
def State.lastMeets (s : State) (j : Nat) (bs : List Host.Cell) : Bool :=
  match s.thread? j with
  | some u => (u.storeq.getLast?.map fun q => q.bytes.any fun c => (cellAt bs c.1).isSome).getD false
  | none => false

/-- Members of the bundle whose stores of the word meet leave their queues at its end, in order of lane, so that each reads the
highest lane's byte from then on (R113, R122). -/
def State.addClash (s : State) (ks : List Nat) : State :=
  { s with issue := s.issue.map fun b => { b with clash := ks.foldl (fun l k => insertNat k l) b.clash } }

/-- A store's bytes enter the thread's store queue (R124); for a release they wait for its released set (R127). The bytes that
lower lanes have stored at these places in the same instruction are never visible (R113). -/
def State.enqueue (s : State) (k : Nat) (t : Thread) (bs : List Host.Cell) (rel : Option Nat) : State :=
  let js := s.wordStores.filter fun j => s.lastMeets j bs
  let s := js.foldl (fun (st : State) j => st.modThread j fun u => { u with storeq := hideLast bs u.storeq }) s
  let s := s.modThread k fun u => { u with storeq := u.storeq ++ [{ bytes := bs, need := t.released rel }] }
  let s := if js.isEmpty then s else s.addClash (k :: js)
  { s with issue := s.issue.map fun b => { b with stored := k :: b.stored } }

/-- The log entry is of the word that thread k, in the state t, issues or replays, as another lane of its bundle logged it. -/
def LogEntry.ofWord (e : LogEntry) (bundle : Nat) (pc : DWord) : Bool := e.bundle != 0 && e.bundle == bundle && e.pc == pc

/-- Thread j stands on a lower lane of the lane group of thread k. -/
def laneBelow (j k : Nat) : Bool := coreOf j == coreOf k && lgrpOf j == lgrpOf k && decide (laneOf j < laneOf k)

/-- The thread's store covers those that lower lanes of the same word still have in their logs: the highest lane's byte is the final
one (R113), and it leaves the queue at the end of the word. Places are physical, or in a task virtual. -/
def State.coverLower (s : State) (k : Nat) (t : Thread) (bs : List Host.Cell) : State :=
  let w := s.wordBundle t
  let mine (j : Nat) (u : Thread) : Bool := laneBelow j k && u.log.any fun e => e.ofWord w t.pc
  let covered (u : Thread) : Thread :=
    { u with log := u.log.map fun e => if e.ofWord w t.pc then { e with covered := e.covered ++ bs.map (·.1) } else e }
  if s.threads.any fun x => mine x.1 x.2 then
    (({ s with threads := s.threads.mapKV fun j u => if mine j u then covered u else u } : State).addClash [k])
  else s

/-- The bytes of a store that no higher lane has covered: all of them, but in a replay (R113). -/
def State.uncovered (s : State) (t : Thread) (bs : List Host.Cell) : List Host.Cell :=
  if s.replaying then bs.filter fun c => !(((t.log.head?.map (·.covered)).getD []).contains c.1) else bs

/-- ST (R188, R189). -/
def execSt (g : Guard) (w : Width) (rel : Bool) (sc : Scope) (d a : Reg) (imm : BitVec 24) (s : State) : Out :=
  word (.st g w rel sc d a imm) s fun k t =>
    let va := memVa t a imm
    match operandCause va (widthBytes w) with
    | some c => s.trap k c va
    | none =>
      match s.storeAccess k t va fun _ => true with
      | .error c => s.storeFault (.st g w rel sc d a imm) k c va
      | .ok l =>
        let s := s.keep l.ent
        if inTail l va.toNat then s.retire k
        else if t.inTask then
          let bs := s.uncovered t (cellsAt va.toNat (storeBytes w t d))
          match s.bufferBytes (t.crewKey k) bs with
          | (s, true) => (s.coverLower k t bs).retire k
          | (s, false) => s
        else
          let bs := s.uncovered t (cellsAt l.key (storeBytes w t d))
          ((s.coverLower k t bs).enqueue k t bs (if rel then some (scopeMask sc (coreOf k)) else none)).sent
            (.st g w rel sc d a imm) k t l va false

/-! ### The on-chip map (R107, R108, R190) -/

/-- A place of the on-chip map (R107). -/
inductive MapPlace where
  | scratch (a : Nat)
  | tile (core tile elem off : Nat)
  | phys (core lane reg off : Nat)

/-- The place of a map address (R107); n bytes from it lie in it. -/
def mapPlace (a : Nat) : Option MapPlace :=
  let core := a / 2 ^ 24
  let off := a % 2 ^ 24
  if 144 ≤ core then none
  else if off < (if isSteward core then 0x100000 else 0x300000) then some (.scratch a)
  else if 0x400000 ≤ off ∧ off < 0x500000 then
    let o := off - 0x400000
    some (.tile core (o / 65536) (o % 65536 / 16) (o % 16))
  else if 0x800000 ≤ off ∧ off < 0x880000 then
    let o := off - 0x800000
    some (.phys core (o / 4096) (o % 4096 / 4) (o % 4))
  else none

/-- The tile of a key, as its map name is core × 16 + tile. -/
def State.tile (s : State) (n : Nat) : ATile := s.tiles.getD n ATile.clear
/-- A tile's element. -/
def ATile.elem (t : ATile) (n : Nat) : Elem := t.els.getD n { s := 0, fl := 0 }
/-- A tile with an element set; an element that is zero and has no flag is not listed. -/
def ATile.setElem (t : ATile) (n : Nat) (x : Elem) : ATile :=
  { t with els := if x.s = 0 ∧ x.fl = 0 then t.els.erase n else t.els.set n x }
/-- The state with a tile set; a clear tile is not listed. -/
def State.setTile (s : State) (n : Nat) (t : ATile) : State :=
  { s with tiles := if t = ATile.clear then s.tiles.erase n else s.tiles.set n t }

/-- The thread that owns a physical register, and the register's number there (R107). -/
def State.ownerOf (s : State) (core lane n : Nat) : Option (Nat × Nat) :=
  (List.find? (fun (x : Nat × Thread) => coreOf x.1 == core && laneOf x.1 == lane && x.2.blocks.contains (n / 8)) s.threads).map fun x =>
    (x.1, 8 * (x.2.blocks.idxOf (n / 8)) + n % 8)

/-- A physical register's value. -/
def State.physReg (s : State) (core lane n : Nat) : Word :=
  match s.ownerOf core lane n with
  | some (k, r) => (match s.thread? k with | some t => t.reg r | none => 0)
  | none => s.phys.getD (physKey core lane n) 0

/-- The state with a physical register set. -/
def State.setPhys (s : State) (core lane n : Nat) (v : Word) : State :=
  match s.ownerOf core lane n with
  | some (k, r) => s.modThread k fun t => t.setReg r v
  | none =>
    { s with phys := if v = 0 then s.phys.erase (physKey core lane n) else s.phys.set (physKey core lane n) v }

/-- Read one byte of the map, presence and owner bits ignored (R108). The rows of a crew's write buffer read as the scratchpad
holds them: the records that a task holds stand beside them, as the spec gives them no bytes there (the model's choice,
notes/assumptions/36.md). -/
def State.mapByte (s : State) (a : Nat) : Byte :=
  match mapPlace a with
  | some (.scratch a) => s.scratch.read a
  | some (.tile c t e o) => BitVec.ofNat 8 (((s.tile (c * 16 + t)).elem e).s.toNat / 2 ^ (8 * o))
  | some (.phys c l r o) => BitVec.ofNat 8 ((s.physReg c l r).toNat / 2 ^ (8 * o))
  | none => 0

/-- A number with one byte replaced. -/
def putByte (x o : Nat) (b : Byte) : Nat := x - (x / 2 ^ (8 * o) % 256) * 2 ^ (8 * o) + b.toNat * 2 ^ (8 * o)

/-- Write one byte of the map (R108). -/
def State.setMapByte (s : State) (a : Nat) (b : Byte) : State :=
  match mapPlace a with
  | some (.scratch a) => { s with scratch := s.scratch.write a b }
  | some (.tile c t e o) =>
    let x := (s.tile (c * 16 + t)).elem e
    s.setTile (c * 16 + t) ((s.tile (c * 16 + t)).setElem e { x with s := BitVec.ofNat 128 (putByte x.s.toNat o b) })
  | some (.phys c l r o) => s.setPhys c l r (BitVec.ofNat 32 (putByte (s.physReg c l r).toNat o b))
  | none => s

/-- A map access must be aligned (R103) and inside a window (R190). -/
def mapCause (va : DWord) (n : Nat) : Option Cause :=
  if va.toNat % n ≠ 0 then some .misaligned
  else if 2 ^ 32 ≤ va.toNat ∨ (mapPlace va.toNat).isNone then some .mapRange
  else none

/-- LD.MAP (R190): a load of the on-chip map; its faults are imprecise, as a load's (R45, R104). -/
def execLdMap (g : Guard) (la : BitVec 4) (w : Width) (d a : Reg) (imm : BitVec 24) (s : State) : Out :=
  word (.ldMap g la w d a imm) s fun k t =>
    let va := memVa t a imm
    match mapCause va (widthBytes w) with
    | some c => s.imprecise (.ldMap g la w d a imm) k c va
    | none =>
      (s.noteSeen k).issueLong k la.toNat
        { i := .ldMap g la w d a imm, pc := t.pc, cb := t.cb, dests := regNums d w.regs
          vals := loadWords w ((upTo va.toNat (widthBytes w)).map s.mapByte), flags := 0, isFloat := false, isMem := true
          target := 0, port := 12, va := va, mat := none, at_ := t.issued + 1 }

/-- ST.MAP (R190): precise, as a store (R45, R104). -/
def execStMap (g : Guard) (w : Width) (d a : Reg) (imm : BitVec 24) (s : State) : Out :=
  word (.stMap g w d a imm) s fun k t =>
    let va := memVa t a imm
    match mapCause va (widthBytes w) with
    | some c => s.trap k c va
    | none =>
      let bs := storeBytes w t d
      let s' : State := (bs.zip (upTo va.toNat bs.length)).foldl (fun (st : State) (b, p) => st.setMapByte p b) s
      s'.retire k

/-! ### Typed loads and prefetch (R192, R193) -/

/-- Elements per page of a format (R84). -/
def pageElems (elem geom : Nat) : Nat := blocksPerPage (blockLen geom) * (8 * blockLen geom / (if elem = 0 then 4 else if elem ≤ 3 then 8 else 16))

/-- The element format of a page (R83). -/
def pageFmt : Nat → NumFmt
  | 0 => .i4
  | 1 => .i8
  | 2 => .f8a
  | 3 => .f8b
  | 4 => .f16
  | _ => .bf16

/-- Where an element of a page lies: the byte offset of its data, their count, the place in the byte, and the offset of
its scale (R84). -/
def elemPlace (elem geom j : Nat) : Nat × Nat × Nat × Nat :=
  let b := blockLen geom
  let w := fmtBits (pageFmt elem)
  let per := 8 * b / w
  let k := j / per
  let p := j % per
  (b * k + p * w / 8, if w = 16 then 2 else 1, p * w % 8, blocksPerPage b * b + k)

/-- The value of an element from its data bytes and its scale byte (R82, R85). -/
def elemValue (elem : Nat) (bs : List Byte) (sh : Nat) (scale : Byte) : FVal :=
  let f := pageFmt elem
  (decodeElem f (natOf bs / 2 ^ sh % 2 ^ fmtBits f)).scale scale.toInt

/-- Where element j of the typed tensor at P0 lies: its page and the codes of the page, or the cause with its address
(R117). The pages are translated, and their codes compared, before anything is sent to memory (R402). -/
def State.typedLoc (s : State) (k : Nat) (t : Thread) (p0 j : Nat) : Except (Cause × Nat) (Nat × Loc) :=
  match s.xlate (coreOf k) t.vf (tlbPort k) p0 .read with
  | .error c => .error (c, p0)
  | .ok l0 =>
    if l0.geom = 0 then .error (.formatMismatch, p0)
    else
      let page := p0 + 65536 * (j / pageElems l0.elem l0.geom)
      if 2 ^ 56 ≤ page then .error (.typedRange, page)
      else
        match s.xlate (coreOf k) t.vf (tlbPort k) page .read with
        | .error c => .error (c, page)
        | .ok l =>
          if l.elem ≠ l0.elem ∨ l.geom ≠ l0.geom then .error (.formatMismatch, page)
          else
            match s.sentCause t.vf l.tgt l.key l.ports with
            | some c => .error (c, page)
            | none => .ok (page, l)

/-- LDT (R117, R192): element j of the typed tensor at P0. -/
def execLdt (g : Guard) (la : BitVec 4) (d a : Reg) (imm : BitVec 24) (s : State) : Out :=
  let i : Instr := .ldt g la d a imm
  word i s fun k t =>
    let p0 := t.pair a
    let j := (t.reg (a.toNat + 2) + imm.signExtend 32).toNat
    if p0.toNat % 65536 ≠ 0 then s.loadFault i k .misaligned p0 false
    else if 2 ^ 56 ≤ p0.toNat then s.loadFault i k .addrRange p0 false
    else
      match s.typedLoc k t p0.toNat j with
      | .error e => s.loadFault i k e.1 (BitVec.ofNat 64 e.2) false
      | .ok (page, l) =>
        let (off, nb, sh, so) := elemPlace l.elem l.geom (j % pageElems l.elem l.geom)
        if s.holdLines k t l (linesOf (page + off) nb ++ linesOf (page + so) 1) then s.holdThread k
        else
          let s := s.forWindow k l
          let bs := s.threadRead k t { l with key := l.key + off } (page + off) nb
          let sc := (s.threadRead k t { l with key := l.key + so } (page + so) 1).headD 0
          let r := narrow .f32 .rne false (elemValue l.elem bs sh sc)
          let s := (s.sawLoad k t l (page + off) nb).sawLoad k t l (page + so) 1
          if t.floatTraps then
            match trapCause t.fctl r.2 with
            | some c => s.trap k c
            | none =>
              let s := s.issueLoad i k t la.toNat [d.toNat] [BitVec.ofNat 32 r.1] 0 true l p0
              s.modThread k fun t => t.orFlags r.2
          else s.issueLoad i k t la.toNat [d.toNat] [BitVec.ofNat 32 r.1] r.2 true l p0

/-- PREF changes only timing (R193). -/
def execPref (g : Guard) (a : Reg) (imm : BitVec 24) (s : State) : Out :=
  word (.pref g a imm) s fun k _ => s.retire k

/-! ### Atomics (R194 to R200) -/

/-- The lesser of two numbers in an order. -/
def pick (lt : Bool) (a b : Nat) : Nat := if lt then a else b

/-- The new value of an atomic (R195); `c` is the comparand of CAS. -/
def atomNew (op : AtomOp) (w : Nat) (old b c : Nat) : Nat :=
  let so := signedOf w old
  let sb := signedOf w b
  match op with
  | .add => (old + b) % 2 ^ w
  | .min => pick (decide (sb < so)) b old
  | .max => pick (decide (so < sb)) b old
  | .umin => min old b
  | .umax => max old b
  | .and => old &&& b
  | .or => old ||| b
  | .xor => old ^^^ b
  | .xchg => b
  | .fadd => (fAdd .f32 .rne old b).1
  | .fmin => (fMinMax false old b).1
  | .fmax => (fMinMax true old b).1
  | .cas => if old = c then b else old

/-- The operation exists at the target (R199): host memory has ADD, XCHG and CAS only. -/
def atomAllowed (l : Loc) (op : AtomOp) : Bool := l.tgt != 3 || op == .add || op == .xchg || op == .cas

/-- The scope actually used (R199). -/
def atomMask (l : Loc) (sc : Scope) (core : Nat) : Nat := if 3 ≤ l.tgt then maskSys else scopeMask sc core

/-- Perform an atomic of a thread at a place (R196): its queued stores go first; a CAS that fails stores nothing, and what it has
read is visible to its core (R122, R128). The old value is answered. -/
def State.atomAt (s : State) (k : Nat) (t : Thread) (l : Loc) (va : Nat) (op : AtomOp) (n : Nat) (sc : Scope)
    (rel : Bool) (b c : Nat) : State × Nat :=
  if inTail l va then (s, 0)
  else
    let s := s.drainAll k
    let core := coreOf k
    let m := atomMask l sc core
    let old := natOf (s.readAtom core m l.key n)
    let new := atomNew op (8 * n) old b c
    if op == .cas && old != c then (s.seeAtoms core m l.key n, old)
    else
      (s.writeAtom (t.writer k) core m (cellsAt l.key (bytesOf new n)) (t.released (if rel then some m else none)) t.vf, old)

/-- A global atomic that returns the old value (R194, R196, R200). -/
def State.execAtomic (s : State) (i : Instr) (k : Nat) (t : Thread) (la : Nat) (op : AtomOp) (w64 : Bool) (sc : Scope)
    (ord : AtomOrd) (d : Reg) (va : DWord) (b c : Nat) : State :=
  let n := if w64 then 8 else 4
  match operandCause va n with
  | some e => s.trap k e va
  | none =>
    if t.inTask then s.trap k .taskIrrevocable
    else
      match s.storeAccess k t va fun l => atomAllowed l op with
      | .error e => s.storeFault i k e va
      | .ok l =>
        let (s, old) := (s.keep l.ent).atomAt k t l va.toNat op n sc (ord == .rel || ord == .ar) b c
        (s.noteSeen k).issueLoad i k t la (regNums d (if w64 then 2 else 1)) (wordsOfNat old (if w64 then 2 else 1)) 0 false l va

/-- The value of a data operand of an atomic: a register or a pair (R194). -/
def atomArg (t : Thread) (w64 : Bool) (r : Reg) : Nat := if w64 then (t.pair r).toNat else (t.r r).toNat

/-- ATOM (R196). -/
def execAtom (g : Guard) (la : BitVec 4) (op : AtomOp) (w64 : Bool) (sc : Scope) (ord : AtomOrd) (d a b : Reg)
    (s : State) : Out :=
  word (.atom g la op w64 sc ord d a b) s fun k t =>
    s.execAtomic (.atom g la op w64 sc ord d a b) k t la.toNat op w64 sc ord d (t.pair a) (atomArg t w64 b) 0

/-- CAS (R196). -/
def execCas (g : Guard) (la : BitVec 4) (w64 : Bool) (sc : Scope) (ord : AtomOrd) (d a b c : Reg) (s : State) : Out :=
  word (.cas g la w64 sc ord d a b c) s fun k t =>
    s.execAtomic (.cas g la w64 sc ord d a b c) k t la.toNat .cas w64 sc ord d (t.pair a) (atomArg t w64 b)
      (atomArg t w64 c)

/-- RED (R197): in a task it is deferred, after the checks at issue. -/
def execRed (g : Guard) (op : AtomOp) (w64 : Bool) (sc : Scope) (rel : Bool) (a b : Reg) (s : State) : Out :=
  let i : Instr := .red g op w64 sc rel a b
  word i s fun k t =>
    let va := t.pair a
    let n := if w64 then 8 else 4
    match operandCause va n with
    | some e => s.trap k e va
    | none =>
      match s.storeAccess k t va fun l => atomAllowed l op with
      | .error e => s.storeFault i k e va
      | .ok l =>
        if t.inTask then
          match (s.keep l.ent).bufferRec (t.crewKey k)
            (.red va op w64 sc (BitVec.ofNat 64 (atomArg t w64 b))) with
          | (s, true) => s.retire k
          | (s, false) => s
        else (((s.keep l.ent).atomAt k t l va.toNat op n sc rel (atomArg t w64 b) 0).1).sent i k t l va true

/-! ### Exact reductions (R89, R90, R201) -/

/-- A reserved bit of an X128 descriptor is set (R89). -/
def descBad (x : Nat) : Bool := x / 2 ^ 12 % 2 ^ 116 != 0
/-- ANCHOR of an X128 descriptor (R89). -/
def descAnchor (x : Nat) : Int := signedOf 8 (x % 256)

/-- The X128 descriptor at a place as an atomic of agent o reads it; one in a reserved tail reads as zero (R84, R89). -/
def State.descAt (s : State) (o m : Nat) (dl : Loc) (dva : Nat) : Nat :=
  if inTail dl dva then 0 else natOf (s.readAtom o m dl.key 16)

/-- Perform an exact add of a contribution at an anchor into the element at one place, with its descriptor at another, by
agent o at a scope mask: the sum and the flags are two atomics (R90, R201). The old S is answered. -/
def State.exactAdd (s : State) (writer : Writer) (o m vf : Nat) (el dl : Loc) (eva dva : Nat) (c : Int) (a : Int) (fl : BitVec 4)
    (need : List (Nat × Nat)) : State × Nat :=
  let desc := s.descAt o m dl dva
  let (v, ov) := if fl = 0 then exactAddend c a (descAnchor desc) else (0, 0)
  let old := if inTail el eva then 0 else natOf (s.readAtom o m el.key 16)
  let new := modPow ((old : Int) + v) 128
  let s := if inTail el eva then s else s.writeAtom writer o m (cellsAt el.key (bytesOf new 16)) need vf
  let flags := (fl ||| ov).toNat
  let s :=
    if flags = 0 ∨ inTail dl dva then s
    else
      let d1 := natOf (s.readAtom o m (dl.key + 1) 1)
      s.writeAtom writer o m (cellsAt (dl.key + 1) (bytesOf (d1 ||| flags) 1)) need vf
  (s, old)

/-- XADD (R201). -/
def execXadd (g : Guard) (la : BitVec 4) (anchor : BitVec 8) (sc : Scope) (rt : Bool) (d a b c : Reg) (s : State) : Out :=
  let i : Instr := .xadd g la anchor sc rt d a b c
  word i s fun k t =>
    let ea := t.pair a
    let da := t.pair c
    let cv : Int := signedOf 128 (natOfWords (t.rs b 4))
    if ea.toNat % 16 ≠ 0 then s.trap k .misaligned ea
    else if da.toNat % 16 ≠ 0 then s.trap k .misaligned da
    else if 2 ^ 56 ≤ ea.toNat then s.trap k .addrRange ea
    else if 2 ^ 56 ≤ da.toNat then s.trap k .addrRange da
    else if t.inTask && rt then s.trap k .taskIrrevocable
    else
      match s.xlate (coreOf k) t.vf (tlbPort k) ea.toNat .write with
      | .error e => s.storeFault i k e ea
      | .ok el =>
        match s.xlate (coreOf k) t.vf (tlbPort k) da.toNat .write with
        | .error e => s.storeFault i k e da
        | .ok dl =>
          let s := (s.keep el.ent).keep dl.ent
          if el.tgt = 3 then s.trap k .atomTarget ea
          else if dl.tgt = 3 then s.trap k .atomTarget da
          else if t.inTask then
            match s.bufferRec (t.crewKey k) (.xadd ea da sc (BitVec.ofInt 128 cv) anchor.toInt) with
            | (s, true) => s.retire k
            | (s, false) => s
          else
            match s.sendTo t.vf ea.toNat el, s.sendTo t.vf da.toNat dl with
            | .error e, _ => s.storeFault i k e ea
            | .ok _, .error e => s.storeFault i k e da
            | .ok _, .ok _ =>
              let s := s.drainAll k
              let core := coreOf k
              let m := atomMask el sc core
              if descBad (s.descAt core m dl da.toNat) then s.trap k .x128Desc da
              else
                let (s, old) := s.exactAdd (t.writer k) core m t.vf el dl ea.toNat da.toNat cv anchor.toInt 0 t.relNeed
                if rt then
                  (s.noteSeen k).issueLoad i k t la.toNat (regNums d 4) (wordsOfNat old 4) 0 false el ea
                else s.sent i k t el ea true

/-! ### Fences (R202) -/

/-- FENCE (R126, R127, R129): loads are performed in order, so an acquire half has nothing left to do; a release half
orders the stores that follow; SC makes everything visible first. -/
def execFence (g : Guard) (sc : Scope) (kind : FenceKind) (s : State) : Out :=
  word (.fence g sc kind) s fun k t =>
    let m := scopeMask sc (coreOf k)
    match kind with
    | .acq => s.retire k
    | .rel => (s.modThread k fun t => { t with relNeed := t.released (some m) }).retire k
    | .sc =>
      let s := s.drainAll k
      let s := (s.showWriter (t.writer k) m).showIds (t.seen ++ s.visibleTo (coreOf k)) m
      s.retire k

end Sys2Proof.Machine
end

