-- ==== Sys2Proof/Machine/Scratch.lean ====
section
/-!
DEFINITION. Scratchpad accesses, regions and sector control (spec/09_isa_memory_lanes.md R191, R198, R205 to R207;
spec/05_memory_spaces.md R105, R109), and the random numbers (R97 to R100, R219).
-/
namespace Sys2Proof.Machine

/-- The address of a scratchpad access (R191). -/
def scratchAddr (t : Thread) (a : Reg) (imm : BitVec 24) : Word := t.r a + imm.signExtend 32

/-- The sector of a crew-relative address. -/
def sectorAt (core : Nat) (c : Crew) (a : Nat) : Nat := crewAddr core c a / 32

/-- The access lies in the task's own regions (R64). -/
def State.ownRegion (s : State) (k : Nat) (t : Thread) (c : Crew) (a n : Nat) : Bool :=
  c.inRegion ((s.task? (t.crewKey k)).map (·.handle)) a n

/-- The causes of a scratchpad access that come before the sector's state: MISALIGNED, SCRATCH_RANGE and, for a write in a
task, TASK_IRREVOCABLE (R191). -/
def State.scratchCause (s : State) (k : Nat) (t : Thread) (c : Crew) (a n : Nat) (write : Bool) : Option Cause :=
  if a % n ≠ 0 then some .misaligned
  else if !c.inAlloc a n then some .scratchRange
  else if write && t.inTask && !s.ownRegion k t c a n then some .taskIrrevocable
  else none

/-- BADVA of a scratchpad cause (R346). -/
def scratchBadva (c : Cause) (a : Word) : DWord := if c = .taskIrrevocable then 0 else a.setWidth 64

/-- The frame of a scratchpad access of n bytes: its causes, then the outcome of the sector's state (R109). -/
def State.scratchAccess (s : State) (k : Nat) (t : Thread) (a : Word) (n : Nat) (write : Bool)
    (perform : Crew → State) : State :=
  match s.crew? (t.crewKey k) with
  | none => s.trap k .scratchRange (a.setWidth 64)
  | some c =>
    match s.scratchCause k t c a.toNat n write with
    | some e => s.trap k e (scratchBadva e a)
    | none =>
      match s.sector (sectorAt (coreOf k) c a.toNat), write with
      | .ready, _ => perform c
      | .empty, true => perform c
      | .empty, false => s.park k (.sector a)
      | .filling, false => s.park k (.sector a)
      | .filling, true => s.trap k .owner (a.setWidth 64)
      | .draining, _ => s.trap k .owner (a.setWidth 64)

/-- LDS (R191). -/
def execLds (g : Guard) (la : BitVec 4) (w : Width) (d a : Reg) (imm : BitVec 24) (s : State) : Out :=
  word (.lds g la w d a imm) s fun k t =>
    let sa := scratchAddr t a imm
    s.scratchAccess k t sa (widthBytes w) false fun c =>
      (s.noteSeen k).issueLong k la.toNat
        { i := .lds g la w d a imm, pc := t.pc, cb := t.cb, dests := regNums d w.regs
          vals := loadWords w (s.readScr (crewAddr (coreOf k) c sa.toNat) (widthBytes w)), flags := 0, isFloat := false
          isMem := true, target := 0, port := 12, va := sa.setWidth 64, mat := none, at_ := t.issued + 1 }

/-- Write bytes of a sector as a thread: an EMPTY sector becomes READY (R109). -/
def State.storeScr (s : State) (core : Nat) (c : Crew) (a : Nat) (bs : List Byte) : State :=
  (s.writeScr (crewAddr core c a) bs).setSector (sectorAt core c a) .ready

/-- STS (R191): the thread's earlier stores leave its queue first, so that global memory and the scratchpad share one order
(R124). -/
def execSts (g : Guard) (w : Width) (d a : Reg) (imm : BitVec 24) (s : State) : Out :=
  word (.sts g w d a imm) s fun k t =>
    let sa := scratchAddr t a imm
    s.scratchAccess k t sa (widthBytes w) true fun c =>
      ((s.drainAll k).storeScr (coreOf k) c sa.toNat (storeBytes w t d)).retire k

/-- ATOMS: checked as STS with its own width, then TASK_IRREVOCABLE in a task in every form (R198, R200); it is a store of the order
of R124 as STS is. -/
def execAtoms (g : Guard) (la : BitVec 4) (op : AtomOp) (w64 : Bool) (d a b c : Reg) (s : State) : Out :=
  word (.atoms g la op w64 d a b c) s fun k t =>
    let sa := t.r a
    let n := if w64 then 8 else 4
    let perform (cr : Crew) : State :=
      let old := natOf (s.readScr (crewAddr (coreOf k) cr sa.toNat) n)
      let new := atomNew op (8 * n) old (atomArg t w64 b) (atomArg t w64 c)
      (((s.drainAll k).storeScr (coreOf k) cr sa.toNat (bytesOf new n)).noteSeen k).issueLong k la.toNat
        { i := .atoms g la op w64 d a b c, pc := t.pc, cb := t.cb, dests := regNums d (if w64 then 2 else 1)
          vals := wordsOfNat old (if w64 then 2 else 1), flags := 0, isFloat := false, isMem := true, target := 0
          port := 12, va := sa.setWidth 64, mat := none, at_ := t.issued + 1 }
    match s.crew? (t.crewKey k) with
    | none => s.trap k .scratchRange (sa.setWidth 64)
    | some cr =>
      if t.inTask && decide (sa.toNat % n = 0) && cr.inAlloc sa.toNat n then s.trap k .taskIrrevocable
      else s.scratchAccess k t sa n true perform

/-! ### Regions (R205, R206) -/

/-- The rows of a crew's pool that no live region holds. -/
def Crew.rowFree (c : Crew) (row : Nat) : Bool :=
  !(c.regions.any fun r => decide (r.row ≤ row) && decide (row < r.row + r.rows))

/-- The lowest free run of rows in the pool (R205). -/
def Crew.freeRun (c : Crew) (rows : Nat) : Option Nat :=
  (upTo c.static (c.pool + 1 - rows)).find? fun b => (upTo b rows).all c.rowFree

/-- No sector of a list is FILLING or DRAINING. -/
def State.quietSectors (s : State) (ns : List Nat) : Bool :=
  ns.all fun n => s.sector n == .ready || s.sector n == .empty

/-- Bytes of the scratchpad set to zero. -/
def State.zeroScr (s : State) (a n : Nat) : State :=
  { s with scratch := s.scratch.filter fun c => decide (c.1 < a) || decide (a + n ≤ c.1) }

/-- SPALLOC (R205). -/
def execSpalloc (g : Guard) (d a : Reg) (s : State) : Out :=
  word (.spalloc g d a) s fun k t =>
    let ck := t.crewKey k
    let size := (t.r a).toNat
    let rows := ceilDiv size 2048
    let fail : State :=
      if t.inTask then (s.askAbort ck (.exhausted 2)).stall else (s.setReg k d 0xFFFFFFFF).retire k
    match s.crew? ck with
    | none => fail
    | some c =>
      if size = 0 ∨ c.pool < rows ∨ 64 ≤ c.regions.length then fail
      else
        match c.freeRun rows with
        | none => fail
        | some b =>
          let ns := rowSectors (coreOf k) c b rows
          if !s.quietSectors ns then s.stall
          else
            let s := (s.zeroScr (crewAddr (coreOf k) c (b * 2048)) (rows * 2048)).setSectors ns .ready
            let h := if t.inTask then (s.task? ck).map (·.handle) else none
            let s := s.modCrew ck fun c => { c with regions := c.regions ++ [{ row := b, rows := rows, task := h }] }
            (s.setReg k d (BitVec.ofNat 32 (b * 2048))).retire k

/-- SPFREE (R206): the rows go back, the bytes stay, a merge map in the region is released. -/
def execSpfree (g : Guard) (a : Reg) (s : State) : Out :=
  word (.spfree g a) s fun k t =>
    let ck := t.crewKey k
    let base := t.r a
    match s.crew? ck with
    | none => s.trap k .scratchRange (base.setWidth 64)
    | some c =>
      match c.regions.find? fun r => r.row * 2048 == base.toNat with
      | none => s.trap k .scratchRange (base.setWidth 64)
      | some r =>
        if t.inTask && (r.task.isNone || r.task != (s.task? ck).map (·.handle)) then s.trap k .taskIrrevocable
        else if !s.quietSectors (rowSectors (coreOf k) c r.row r.rows) then s.stall
        else
          (s.modCrew ck fun c => ({ c with regions := c.regions.filter fun x => x != r }).dropMaps fun m _ =>
            decide (r.row * 2048 ≤ m.addr) && decide (m.addr < (r.row + r.rows) * 2048)).retire k

/-! ### Sector control (R207) -/

/-- P and O of a sector as SECT.QUERY gives them (R207). -/
def Sector.code : Sector → Nat
  | .ready => 1
  | .filling => 2
  | .draining => 3
  | .empty => 0

/-- SECT.QUERY (R207). -/
def execSectQuery (g : Guard) (d a : Reg) (s : State) : Out :=
  word (.sectQuery g d a) s fun k t =>
    let sa := t.r a
    match s.crew? (t.crewKey k) with
    | none => s.trap k .scratchRange (sa.setWidth 64)
    | some c =>
      if !c.inAlloc sa.toNat 1 then s.trap k .scratchRange (sa.setWidth 64)
      else (s.setReg k d (BitVec.ofNat 32 (s.sector (sectorAt (coreOf k) c sa.toNat)).code)).retire k

/-- SECT.CLR and SECT.SET: the new state of a sector that no engine owns (R207). -/
def State.changeSector (s : State) (k : Nat) (t : Thread) (sa : Word) (v : Sector) : State :=
  match s.crew? (t.crewKey k) with
  | none => s.trap k .scratchRange (sa.setWidth 64)
  | some c =>
    match s.scratchCause k t c sa.toNat 1 true with
    | some e => s.trap k e (scratchBadva e sa)
    | none =>
      let n := sectorAt (coreOf k) c sa.toNat
      if !s.quietSectors [n] then s.trap k .owner (sa.setWidth 64) else (s.setSector n v).retire k

/-- SECT.CLR (R207). -/
def execSectClr (g : Guard) (a : Reg) (s : State) : Out :=
  word (.sectClr g a) s fun k t => s.changeSector k t (t.r a) .empty

/-- SECT.SET (R207). -/
def execSectSet (g : Guard) (a : Reg) (s : State) : Out :=
  word (.sectSet g a) s fun k t => s.changeSector k t (t.r a) .ready

/-! ### Counter-based random numbers (R97 to R100, R219) -/

/-- The rounds of R98 from round i on, `n` of them. -/
def mixRounds : Nat → Nat → Word × Word × Word × Word → Word × Word × Word × Word
  | 0, _, x => x
  | n + 1, i, (x0, x1, x2, x3) =>
    let x0 := x0 + x1
    let x3 := (x3 ^^^ x0).rotateLeft 13
    let x2 := x2 + x3
    let x1 := (x1 ^^^ x2).rotateLeft 9
    let x0 := x0 + x1
    let x3 := (x3 ^^^ x0).rotateLeft 17
    let x2 := x2 + x3
    let x1 := (x1 ^^^ x2).rotateLeft 5
    mixRounds n (i + 1) (x0 + BitVec.ofNat 32 (0x5A3C96E1 * i), x1, x2, x3)

/-- The output of R98 for a counter of four words. -/
def randOut (k0 k1 p0 p1 : Word) : Word :=
  let (x0, x1, x2, x3) := mixRounds 10 1 (k0, k1, p0, p1)
  (x0 + k0) ^^^ (x2 + k1) ^^^ x1.rotateLeft 11 ^^^ x3

/-- The frame of RAND and RANDF (R99): RNG_EXHAUSTED at the last index, else the value of the output and DRAW + 1. -/
def State.draw (s : State) (k : Nat) (t : Thread) (d a : Reg) (f : Word → Word) : State :=
  let q := t.reg (a.toNat + 3)
  if q.toNat / 256 = 0xFFFFFF then s.trap k .rngExhausted
  else
    let out := randOut (t.reg a.toNat) (t.reg (a.toNat + 1)) (t.reg (a.toNat + 2)) q
    ((s.modThread k fun t => t.setReg (a.toNat + 3) (q + 256)).setReg k d (f out)).retire k

/-- RAND (R99, R219). -/
def execRand (g : Guard) (d a : Reg) (s : State) : Out :=
  word (.rand g d a) s fun k t => s.draw k t d a fun x => x

/-- The F32 value (out >> 8) × 2^−24 (R99). -/
def unitFloat (x : Word) : Word := BitVec.ofNat 32 (narrow .f32 .rne false (.fin false (x.toNat / 256) (-24))).1

/-- RANDF (R99, R219). -/
def execRandf (g : Guard) (d a : Reg) (s : State) : Out :=
  word (.randf g d a) s fun k t => s.draw k t d a unitFloat

end Sys2Proof.Machine
end

