-- ==== Sys2Proof/Machine/Engine.lean ====
section
/-!
DEFINITION. What all engine commands share (spec/10_isa_copy_engines.md R220 to R225; spec/05_memory_spaces.md R109, R110;
spec/13_selection_merging_masks.md R294): their units, their issue, the sectors they take, their reads and writes of global
memory, their faults, their end and their signals.
-/
namespace Sys2Proof.Machine

/-! ### Units -/

/-- The agent that performs a unit's accesses. -/
def EngUnit.agent : EngUnit → Nat
  | .sluice c => agSluice c
  | .own c => c
  | .weir d => agWeir d
  | .confluence d => agWeir d
  | .select => agSelect
  | .siphon => agSiphon

/-- The core in whose TLB the translations of a unit are kept: a sluice's own core's; the spec names none for the Weirs, the
Confluences, the hub engines and the Headgate, and a die's units use those of core 32d, the hub's a set of its own (the model's
choice, notes/assumptions/15.md). -/
def EngUnit.core : EngUnit → Nat
  | .sluice c => c
  | .own c => c
  | .weir d => d * 32
  | .confluence d => d * 32
  | .select => hubCore
  | .siphon => hubCore

/-- How many accepted commands a unit holds (R221, R294). -/
def EngUnit.places : EngUnit → Nat
  | .sluice _ => 64
  | .own _ => 0
  | .weir _ => 16
  | .confluence _ => 16
  | .select => 64
  | .siphon => 256

/-- The number of a unit in the list of fenced units (R354). -/
def EngUnit.code : EngUnit → Nat
  | .sluice c => c
  | .own c => 1024 + c
  | .weir d => 256 + d
  | .confluence d => 272 + d
  | .select => 288
  | .siphon => 289

/-- The number of a core's matrix engine in the list of fenced units. -/
def matrixUnit (core : Nat) : Nat := 512 + core
/-- The number of the Headgate in the list of fenced units. -/
def headgateUnit : Nat := 290

/-- The writer of a command's stores: the stores of one command become visible in their order. -/
def cmdWriter (id : Nat) : Writer := .cmd id
/-- The agent of a command. -/
def Cmd.agent (c : Cmd) : Nat := c.unit.agent
/-- The core of a command's translations. -/
def Cmd.core (c : Cmd) : Nat := c.unit.core

/-! ### The command and its thread -/

/-- The state with a command changed. -/
def State.modCmd (s : State) (id : Nat) (f : Cmd → Cmd) : State :=
  { s with cmds := s.cmds.map fun c => if c.id = id then f c else c }
/-- A command by its number. -/
def State.cmd? (s : State) (id : Nat) : Option Cmd := s.cmds.find? fun c => c.id == id
/-- The command leaves its unit. -/
def State.dropCmd (s : State) (id : Nat) : State := { s with cmds := s.cmds.filter fun c => c.id != id }

/-- The unit serves its commands in arrival order (R21, R294); a sluice chooses by slack (R221). -/
def EngUnit.inOrder : EngUnit → Bool
  | .sluice _ | .own _ => false
  | .weir _ | .confluence _ | .select | .siphon => true

/-- The first command of a unit whose partition may run (R21, R351). -/
def State.firstOf (s : State) (u : EngUnit) : Option Cmd := s.cmds.find? fun c => c.unit == u && s.mayRun c.vf c.crew

/-- The command waits behind an earlier one of a unit that serves in arrival order (R21). -/
def State.behind (s : State) (c : Cmd) : Bool := c.unit.inOrder && s.firstOf c.unit != some c

/-- The command's thread, while it is resident: core, lane, crew and gang name it, so that another thread that has its slot
since is not taken for it (R49, R228). -/
def State.cmdThread (s : State) (c : Cmd) : Option Thread :=
  (s.thread? c.thr).bind fun t => if t.crewKey c.thr = c.crew ∧ t.vf = c.vf ∧ t.gang = c.gang then some t else none
/-- The command's thread in an eviction area. -/
def State.cmdEvicted (s : State) (c : Cmd) : Option Evicted :=
  s.evicted.find? fun e => e.key == c.thr && coreOf e.key * 64 + e.t.crew == c.crew && e.t.gang == c.gang

/-- Decrement a tag counter of the command's thread, resident or in its record (R133, R228, R371). A counter that an abort has made 0
stays 0 when a copy from before the task completes (the model's choice, notes/assumptions/28.md). -/
def State.decTag (s : State) (c : Cmd) (tag : Tag) : State :=
  match s.cmdThread c with
  | some _ => s.modThread c.thr fun t => { t with kcnt := t.kcnt.set tag.toNat (t.kcnt.getD tag.toNat 0 - 1) }
  | none =>
    match s.cmdEvicted c with
    | some e =>
      let at_ := 32 + tag.toNat
      let n := s.evictedByte e at_
      s.storeEvicted e at_ [if n = 0 then 0 else n - 1]
    | none => s

/-- A new command of a thread, with the operand values it has read (R220). -/
def State.newCmd (s : State) (i : Instr) (k : Nat) (t : Thread) (unit : EngUnit) (slack : Nat) (ops : List Word) : Cmd :=
  { id := s.nextId, unit := unit, thr := k, crew := t.crewKey k, vf := t.vf, gang := t.gang, i := i, word := (encode i).getD 0, pc := t.pc
    cb := t.cb, at_ := s.wordNo t, ops := ops, recd := [], want := []
    got := [], beat := 0, done := 0, slack := slack, lastServed := s.now, moved := s.now, fault := none, kv := [], rtab := [], stale := 0, dead := 0, errs := 0, rows := []
    task := if t.inTask then (s.task? (t.crewKey k)).map (·.handle) else none, issued := false, job := none, rsHold := false
    tokens := (0, 0) }

/-- A fault taken at the issue of a command (R45, R46, R222): a recoverable one is logged and the thread goes on to the next
point that R46 names; every other one is imprecise. -/
def State.issueFault (s : State) (i : Instr) (k : Nat) (c : Cause) (va : DWord) : State :=
  if c.recoverable then s.logFault k ((encode i).getD 0) (infoOf i).reads (infoOf i).writes c va .goesOn
  else s.imprecise i k c va

/-- The thread's earlier global accesses are performed where the unit that reads a record for its command sees them (R132). -/
def State.forUnit (s : State) (k : Nat) (c : Cmd) : State := s.showThread k (2 ^ c.agent)

/-- The effective slack of a command (R221): it falls by 1 with every 1024 cycles in which the command is not served. -/
def Cmd.slackAt (c : Cmd) (now : Nat) : Nat := c.slack - (now - c.lastServed) / 1024

/-- The bundle is not ready for a command: the unit's queue is full, unless the task holds the command, or an earlier store has
not left the thread's queue (R132, R221, R224). -/
def State.cmdWaits (s : State) (t : Thread) (u : EngUnit) (held : Bool := false) : Bool :=
  !t.storeq.isEmpty || (!(t.inTask && held) && decide (u.places ≤ (s.cmds.filter fun c => c.unit == u).length))

/-! ### Sectors (R109, R110) -/

/-- The sectors each command or matrix operation waits for: (its number, the sector). -/
def State.claims (s : State) : List (Nat × Nat) :=
  let held := s.crews.flatMap fun (_, c) =>
    match c.task with
    | some t => t.buf.filterMap fun r => match r with | .cmd c => (if c.issued then none else some c) | _ => none
    | none => []
  ((s.cmds ++ held).flatMap fun c => c.want.map fun w => (c.id, w.1)) ++
    s.mats.flatMap fun m => m.want.map fun w => (m.id, w.1)

/-- A wanted sector can be taken: it is READY or EMPTY and no earlier command waits for it (R110). -/
def State.takable (s : State) (claims : List (Nat × Nat)) (id : Nat) (n : Nat) : Bool :=
  (s.sector n == .ready || s.sector n == .empty) && !(claims.any fun x => x.2 == n && decide (x.1 < id))

/-- Take what can be taken of a list of wanted sectors: the state, what is still wanted, what was taken. -/
def State.takeAll (s : State) (id : Nat) (want : List (Nat × Bool)) : State × List (Nat × Bool) × List (Nat × Bool) :=
  let cl := s.claims
  let ok := want.filter fun w => s.takable cl id w.1
  let s := ok.foldl (fun (st : State) w => st.setSector w.1 (if w.2 then .filling else .draining)) s
  (s, want.filter fun w => !ok.contains w, ok)

/-- A command takes every sector it can (R109, R110). -/
def State.takeFor (s : State) (id : Nat) : State :=
  match s.cmd? id with
  | none => s
  | some c =>
    let (s, want, got) := s.takeAll id c.want
    s.modCmd id fun c => { c with want := want, got := c.got ++ got }

/-- A held command of a task takes every sector it can (R224). -/
def State.takeHeld (s : State) (ck id : Nat) : State :=
  match s.task? ck with
  | none => s
  | some t =>
    match t.buf.findSome? fun r => match r with | .cmd c => (if c.id = id then some c else none) | _ => none with
    | none => s
    | some c =>
      let (s, want, got) := s.takeAll id c.want
      s.modTask ck fun t => { t with buf := t.buf.map fun r =>
        match r with
        | .cmd c => if c.id = id then .cmd { c with want := want, got := c.got ++ got } else .cmd c
        | r => r }

/-- A waiting MMAS takes the sectors that have become free (R110). -/
def State.takeMat (s : State) (id : Nat) : State :=
  match s.mats.find? fun m => m.id == id with
  | none => s
  | some m =>
    let (s, want, got) := s.takeAll id m.want
    { s with mats := s.mats.map fun m => if m.id = id then { m with want := want, got := m.got ++ got } else m }

/-- Sectors that have become READY or EMPTY are taken in the same cycle by the earliest command or operation that waits for
them (R110). -/
def State.takeWaiting (s : State) : State :=
  let ids := sortBy (fun a b => decide (a ≤ b)) (s.claims.map (·.1)).eraseDups
  ids.foldl (fun (st : State) id =>
    s.crews.foldl (fun (st : State) x => st.takeHeld x.1 id) ((st.takeFor id).takeMat id)) s

/-- Sectors of a command are finished: they become READY (R109), and whoever waits for them takes them (R110). -/
def State.finishSectors (s : State) (id : Nat) (ns : List Nat) : State :=
  ((s.setSectors ns .ready).modCmd id fun c => { c with got := c.got.filter fun g => !ns.contains g.1 }).takeWaiting

/-- Every sector the command still holds is finished. -/
def State.finishAll (s : State) (id : Nat) : State :=
  match s.cmd? id with
  | none => s
  | some c => s.finishSectors id (c.got.map (·.1))

/-- The sectors of `n` bytes from a map address. -/
def sectorRange (a n : Nat) : List Nat := upTo (a / 32) ((a + n + 31) / 32 - a / 32)

/-! ### Acceptance (R220, R224) -/

/-- The unit accepts a command: it takes its sectors in the issue cycle (R109), and the thread's stores are visible to the
unit (R132). -/
def State.acceptCmd (s : State) (k : Nat) (c : Cmd) : State :=
  let s := s.forUnit k c
  ({ s with cmds := s.cmds ++ [c], nextId := s.nextId + 1 }).takeFor c.id

/-- A command is issued: held in the task's write buffer when R64 says so, else accepted by its unit; then the thread goes
on. -/
def State.issueCmd (s : State) (k : Nat) (t : Thread) (c : Cmd) (held : Bool) : State :=
  if t.inTask && held then
    match ({ s with nextId := s.nextId + 1 }).bufferRec c.crew (.cmd c) with
    | (s, true) => (s.takeHeld c.crew c.id).retire k
    | (s, false) => s
  else (s.acceptCmd k c).retire k

/-! ### Global reads and writes of a command -/

/-- A fold that may stop with an error. -/
def foldE {α σ ε : Type} (f : σ → α → Except ε σ) : List α → σ → Except ε σ
  | [], x => .ok x
  | a :: as, x =>
    match f x a with
    | .ok y => foldE f as y
    | .error e => .error e

/-- A fault of a command's access: the cause and the address. -/
abbrev AccFault := Cause × Nat

/-- Translate one access of a command. -/
def State.cmdAccess (s : State) (c : Cmd) (va : Nat) (acc : Access) : Except AccFault Loc :=
  if 2 ^ 56 ≤ va then .error (.addrRange, va)
  else
    match s.access c.agent c.vf c.core va acc with
    | .error e => .error (e, va)
    | .ok l => .ok l

/-- The running task that a command reads for: its own, while it is not yet committed. A command that outlives its task reads
for none (R66, R224). -/
def State.cmdTask (s : State) (c : Cmd) : Option Task :=
  if c.issued then none
  else (s.task? c.crew).bind fun t => if c.task = some t.handle then some t else none

/-- Bytes read by a command in one page. R224 says for ACP.L and for the loads of BCP that they are merged with the bytes that
the task has buffered; here every read of a command of a running task is (the model's choice for the others,
notes/assumptions/26.md). -/
def State.cmdPiece (s : State) (c : Cmd) (l : Loc) (va n : Nat) : List Byte :=
  let bs := s.readLoc c.agent l va n
  match s.cmdTask c with
  | some t => ((t.forward va bs).zip (upTo va n)).map fun (b, a) => if inTail l a then 0 else b
  | none => bs

/-- A command reads n bytes, page by page; in a task they are merged with the buffered bytes and enter the read set
(R66, R224). -/
def State.cmdReadN (s : State) (c : Cmd) : Nat → Nat → Nat → Except AccFault (State × List Byte)
  | 0, _, _ => .ok (s, [])
  | fuel + 1, va, n =>
    if n = 0 then .ok (s, [])
    else
      match s.cmdAccess c va .read with
      | .error e => .error e
      | .ok l =>
        let m := min n (65536 - va % 65536)
        let bs := s.cmdPiece c l va m
        let s := s.keep l.ent
        let s := if (s.cmdTask c).isSome && !l.sealed then s.noteReads c.crew (linesOf va m) else s
        match s.cmdReadN c fuel (va + m) (n - m) with
        | .error e => .error e
        | .ok (s, rest) => .ok (s, bs ++ rest)

/-- A command reads n bytes. -/
def State.cmdRead (s : State) (c : Cmd) (va n : Nat) : Except AccFault (State × List Byte) :=
  s.cmdReadN c (n / 65536 + 2) va n

/-- The cells of a store by a command, page by page; bytes of a reserved tail are discarded (R84). -/
def State.cmdCellsN (s : State) (c : Cmd) : Nat → Nat → List Byte → Except AccFault (State × List Host.Cell)
  | 0, _, _ => .ok (s, [])
  | fuel + 1, va, bs =>
    if bs.isEmpty then .ok (s, [])
    else
      match s.cmdAccess c va .write with
      | .error e => .error e
      | .ok l =>
        let m := min bs.length (65536 - va % 65536)
        match (s.keep l.ent).cmdCellsN c fuel (va + m) (bs.drop m) with
        | .error e => .error e
        | .ok (s, rest) => .ok (s, l.cells va (bs.take m) ++ rest)

/-- The cells of a store by a command. -/
def State.cmdCells (s : State) (c : Cmd) (va : Nat) (bs : List Byte) : Except AccFault (State × List Host.Cell) :=
  s.cmdCellsN c (bs.length / 65536 + 2) va bs

/-- A command performs a store: it is visible to its own unit, and to every agent of the device at the command's
completion (R133). -/
def State.cmdStore (s : State) (c : Cmd) (cells : List Host.Cell) : State :=
  s.storeAt (cmdWriter c.id) (2 ^ c.agent) cells [] none c.vf

/-! ### Faults of an accepted command (R222, R223) -/

/-- The log entry of a command that stopped, with the response it has already. -/
def Cmd.logEntry (c : Cmd) (f : CmdFault) (verdict : Nat) : LogEntry :=
  { word := c.word, pc := c.pc, cb := c.cb, srcs := [], dests := [], cause := f.cause, va := f.va, fid := f.fid.getD 0
    verdict := verdict, cmd := some c.id, at_ := c.at_, commit := c.issued, met := f.met }

/-- A stopped command enters the log of its thread, when the thread is resident and its log has room (R222), and has then not retired
(R350); a job is served with no thread (R246). The last signer of a commit that has issued the command parks on FAULT (R64). -/
def State.logCmd (s : State) (id : Nat) : State :=
  match s.cmd? id with
  | none => s
  | some c =>
    match c.fault, s.cmdThread c with
    | some f, some t =>
      if f.logged || c.unit == .siphon || decide (4 ≤ t.log.length) then s
      else
        (s.modThread c.thr fun t => { t with
          log := t.log ++ [c.logEntry f (if (s.part c.vf).fqOn then 0 else 2)]
          unret := if c.issued then t.unret else c.at_ :: t.unret
          phase := if c.issued then .parked .fault s.nextId else t.phase
          since := if c.issued then s.now else t.since }).modCmd id fun c =>
            { c with fault := some { f with logged := true } }
    | _, _ => s

/-- The stopped commands of a thread whose log was full enter it, oldest first, as entries leave it (R222). -/
def State.logStopped (s : State) (k : Nat) : State :=
  (s.cmds.filter fun c => c.thr == k).foldl (fun (st : State) c => st.logCmd c.id) s

/-- The tag counter of a command, if it has one. -/
def Cmd.tag? (c : Cmd) : Option Tag :=
  match c.i with
  | .acpL _ _ tag _ _ _ _ _ => some tag
  | .acpS _ _ tag _ _ _ _ _ => some tag
  | _ => none

/-- What a command leaves behind when it is given up (R223): its destination sectors become EMPTY, its sources READY, its
tag counter goes down. -/
def State.discardCmd (s : State) (c : Cmd) : State :=
  let s := s.dropCmd c.id
  let s := (c.got.foldl (fun (st : State) g => st.setSector g.1 (if g.2 then .empty else .ready)) s).takeWaiting
  match c.tag? with | some tag => s.decTag c tag | none => s

/-- The record of a held command as it stood before the commit issued it (R64). -/
def unissue (id : Nat) : BufRec → BufRec
  | .cmd c => if c.id = id then .cmd { c with issued := false, want := c.want ++ c.got, got := [] } else .cmd c
  | r => r

/-- A command abandons (R223): its thread takes the cause, or the error vector does. The last signer of a commit takes the cause of a
held command where it is parked, at its TDONE, and the commit goes on with that same record (R64). -/
def State.abandon (s : State) (c : Cmd) (cause : Cause) (va : DWord) : State :=
  let s := s.discardCmd c
  let s := if c.issued then s.modTask c.crew fun x => { x with buf := x.buf.map (unissue c.id) } else s
  match s.cmdThread c with
  | some _ =>
    let s := s.modThread c.thr fun t => t.addImp cause c.pc c.cb va c.at_
    if c.issued then s.deliverImp c.thr else s
  | none => s.errVector c.vf cause.code va

/-- An accepted command meets a fault (R222, R223). With no fault queue a recoverable one is declined at once (R367), where a commit has
issued the command as the log entry of its last signer (R64); with a full fault table the command tries again. -/
def State.cmdFault (s : State) (c : Cmd) (e : AccFault) : State :=
  let va : DWord := BitVec.ofNat 64 e.2
  if e.1.recoverable && ((s.part c.vf).fqOn || c.issued) then
    match s.fileFault c.vf e.1 va (faultStamp c.thr true) with
    | (s, none) => s
    | (s, some id) =>
      (s.modCmd c.id fun c =>
        { c with fault := some { cause := e.1, va := va, fid := some id, logged := false, resolved := false, met := s.now } }).logCmd c.id
  else s.abandon c e.1 va

/-- The ordered task of an engine read would hold more than 64 lines before it is the oldest (R66). -/
def State.overRead (old new : State) (ck : Nat) : Bool :=
  match old.task? ck, new.task? ck with
  | some t, some u => old.taskOrdered t && decide (64 < u.rset.length) && decide (t.rset.length < u.rset.length) && !old.oldest ck t
  | _, _ => false

/-- An issue whose reads would add a 65th line of an ordered task: the thread holds the instruction unissued (R66). -/
def State.guardReads (s : State) (k : Nat) (t : Thread) (s' : State) : State :=
  if t.inTask && s.overRead s' (t.crewKey k) then s.holdThread k else s'

/-- The command has all its sectors, no fault, and its unit runs. -/
def Cmd.ready (c : Cmd) : Bool := c.want.isEmpty && c.fault.isNone

/-- One step of a command: a fault stops it; a read that R66 holds leaves all as it was, and the command is noted as
held. -/
def State.cmdStep (s : State) (c : Cmd) (r : Except AccFault State) : State :=
  match r with
  | .error e => s.cmdFault c e
  | .ok s' =>
    if (s.cmdTask c).isSome && s.overRead s' c.crew then s.modCmd c.id fun c => { c with rsHold := true }
    else s'.modCmd c.id fun c => { c with rsHold := false }

/-! ### Completion (R133, R135) -/

/-- The checks of a signal at issue: aligned to 16 bytes and in range (R62, R103). -/
def sigCause (va : DWord) : Option Cause := operandCause va 16

/-- Decrement a command's signal, as a release of the command's writes (R133, R135). -/
def State.cmdSignal (s : State) (c : Cmd) (va : DWord) : Except AccFault State :=
  match s.cmdAccess c va.toNat .write with
  | .error e => .error e
  | .ok l =>
    .ok ((s.keep l.ent).changeSignal (cmdWriter c.id) c.agent c.vf l va.toNat (0 - 1) true (s.flightsOf (cmdWriter c.id)))

/-- A command completes: its writes are performed at dev scope, its sectors are finished, then its signal goes down and it
leaves its unit (R133). A fault of the signal stops it before the change. -/
def State.completeCmd (s : State) (c : Cmd) (sig : Option DWord) : State :=
  let s := (s.showWriter (cmdWriter c.id) maskDev).finishAll c.id
  match sig with
  | none => s.dropCmd c.id
  | some va =>
    match s.cmdSignal c va with
    | .error e => s.cmdFault c e
    | .ok s => s.dropCmd c.id

end Sys2Proof.Machine
end

