-- ==== Sys2Proof/Machine/Integer.lean ====
section
/-!
DEFINITION. The integer, predicate and move instructions (spec/08_isa_control_integer_float.md R158, R169 to R173): the
sources are read, the result is written, the word retires. None raises a flag or an arithmetic trap.
-/
namespace Sys2Proof.Machine

/-- A result for one register. -/
def State.put1 (s : State) (k : Nat) (d : Reg) (v : Word) : State := (s.setReg k d v).retire k
/-- A result for a pair. -/
def State.put2 (s : State) (k : Nat) (d : Reg) (v : DWord) : State := (s.setPair k d v).retire k
/-- A result for a predicate. -/
def State.putP (s : State) (k : Nat) (p : Pred) (v : Bool) : State := (s.setPred k p v).retire k

/-- The lesser of two values, signed or unsigned (R169). -/
def minWord (u : Bool) (a b : Word) : Word := if (if u then b.ult a else b.slt a) then b else a
/-- The greater of two values (R169). -/
def maxWord (u : Bool) (a b : Word) : Word := if (if u then a.ult b else a.slt b) then b else a
/-- SHL: 0 from 32 up (R169). -/
def shlWord (a n : Word) : Word := if 32 ≤ n.toNat then 0 else a <<< n.toNat
/-- SHR: 0 from 32 up (R169). -/
def shrWord (a n : Word) : Word := if 32 ≤ n.toNat then 0 else a >>> n.toNat
/-- SAR: copies of the sign from 32 up (R169). -/
def sarWord (a n : Word) : Word := a.sshiftRight (min n.toNat 32)
/-- A left rotation by n mod 32 (R169). -/
def rotWord (a n : Word) : Word := a.rotateLeft (n.toNat % 32)
/-- The 64-bit product of two words, signed or unsigned (R170). -/
def mulWide (u : Bool) (a b : Word) : DWord :=
  if u then a.setWidth 64 * b.setWidth 64 else a.signExtend 64 * b.signExtend 64
/-- The absolute value mod 2^32 (R170). -/
def absWord (a : Word) : Word := if a.slt 0 then 0 - a else a
/-- SHF: a window of a double word (R170). -/
def funnel (left : Bool) (a b c : Word) : Word :=
  let v : DWord := b ++ a
  let n := c.toNat % 32
  if left then hiWord (v <<< n) else loWord (v >>> n)
/-- pos and w of a bit field descriptor (R170). -/
def fieldOf (b : Word) : Nat × Nat :=
  let pos := b.toNat % 32
  (pos, min (b.toNat / 256 % 64) (32 - pos))
/-- BFX (R170). -/
def extractField (s : Bool) (a b : Word) : Word :=
  let (pos, w) := fieldOf b
  let x := a.toNat / 2 ^ pos % 2 ^ w
  if w = 0 then 0 else if s then BitVec.ofInt 32 (signedOf w x) else BitVec.ofNat 32 x
/-- BFI (R170). -/
def insertField (a b c : Word) : Word :=
  let (pos, w) := fieldOf b
  let m : Word := BitVec.ofNat 32 ((2 ^ w - 1) * 2 ^ pos)
  (c &&& ~~~m) ||| ((a <<< pos) &&& m)
/-- The leading zeros of a word (R170). -/
def leadingZeros (a : Word) : Nat := if a = 0 then 32 else 31 - Nat.log2 a.toNat
/-- The trailing zeros of a word (R170). -/
def trailingZeros (a : Word) : Nat := ((upTo 0 32).find? fun i => a.getLsbD i).getD 32
/-- BREV (R170). -/
def reverseWord (a : Word) : Word :=
  BitVec.ofNat 32 ((upTo 0 32).foldl (fun x i => x + if a.getLsbD (31 - i) then 2 ^ i else 0) 0)
/-- One byte of PRMT (R170). -/
def permuteByte (a b c : Word) (i : Nat) : Nat :=
  let s := c.toNat / 2 ^ (4 * i) % 16
  let y := (a.toNat + b.toNat * 2 ^ 32) / 2 ^ (8 * (s % 8)) % 256
  if 8 ≤ s then (if 128 ≤ y then 255 else 0) else y
/-- PRMT (R170). -/
def permute (a b c : Word) : Word :=
  BitVec.ofNat 32 ((upTo 0 4).foldl (fun x i => x + permuteByte a b c i * 2 ^ (8 * i)) 0)
/-- LEA's sum (R170). -/
def scaled (sh : BitVec 3) (u : Bool) (a : DWord) (b : Word) : DWord :=
  a + ((if u then b.setWidth 64 else b.signExtend 64) <<< sh.toNat)
/-- PLOP's table entry (R172). -/
def lutBit (lut : BitVec 8) (x y z : Bool) : Bool := lut.getLsbD (4 * x.toNat + 2 * y.toNat + z.toNat)

/-- A special value of a thread (R12, R23, R173). -/
def State.special (s : State) (k : Nat) (t : Thread) (sv : SpecialValue) : Word :=
  let st := isSteward (coreOf k)
  let ng := match s.crew? (t.crewKey k) with | some c => c.ngang | none => 1
  let team := match s.crew? (t.crewKey k) with | some c => c.team | none => 0
  match sv with
  | .tid => if st then 0 else BitVec.ofNat 32 (t.gang * 32 + laneInGang k)
  | .lane => if st then 0 else BitVec.ofNat 32 (laneInGang k)
  | .gang => if st then 0 else BitVec.ofNat 32 t.gang
  | .lgrp => if st then 0 else BitVec.ofNat 32 (lgrpOf k)
  | .team => if st || team == 0 || decide (ng / team * team ≤ t.gang) then 0xFFFFFFFF else BitVec.ofNat 32 (t.gang / team)
  | .crew => if st then 0 else BitVec.ofNat 32 t.crew
  | .core => BitVec.ofNat 32 (coreOf k)
  | .die => BitVec.ofNat 32 (dieOf (coreOf k))
  | .ngang => if st then 1 else BitVec.ofNat 32 ng
  | .alloc => BitVec.ofNat 32 t.alloc
  | .part => BitVec.ofNat 32 t.vf
  | .clkl => BitVec.ofNat 32 s.now
  | .clkh => BitVec.ofNat 32 (s.now / 2 ^ 32)
  | .priv => if t.priv then 1 else 0

/-- IADD (R169). -/
def execIadd (g : Guard) (d a b : Reg) (s : State) : Out :=
  word (.iadd g d a b) s fun k t => s.put1 k d (t.r a + t.r b)

/-- IADD with an immediate (R157, R169). -/
def execIaddI (g : Guard) (d a : Reg) (imm : Word) (s : State) : Out :=
  word (.iaddI g d a imm) s fun k t => s.put1 k d (t.r a + imm)

/-- ISUB (R169). -/
def execIsub (g : Guard) (d a b : Reg) (s : State) : Out :=
  word (.isub g d a b) s fun k t => s.put1 k d (t.r a - t.r b)

/-- ISUB with an immediate (R157, R169). -/
def execIsubI (g : Guard) (d a : Reg) (imm : Word) (s : State) : Out :=
  word (.isubI g d a imm) s fun k t => s.put1 k d (t.r a - imm)

/-- IMUL (R169). -/
def execImul (g : Guard) (d a b : Reg) (s : State) : Out :=
  word (.imul g d a b) s fun k t => s.put1 k d (t.r a * t.r b)

/-- IMUL with an immediate (R157, R169). -/
def execImulI (g : Guard) (d a : Reg) (imm : Word) (s : State) : Out :=
  word (.imulI g d a imm) s fun k t => s.put1 k d (t.r a * imm)

/-- AND (R169). -/
def execAnd (g : Guard) (d a b : Reg) (s : State) : Out :=
  word (.and g d a b) s fun k t => s.put1 k d (t.r a &&& t.r b)

/-- AND with an immediate (R157, R169). -/
def execAndI (g : Guard) (d a : Reg) (imm : Word) (s : State) : Out :=
  word (.andI g d a imm) s fun k t => s.put1 k d (t.r a &&& imm)

/-- OR (R169). -/
def execOr (g : Guard) (d a b : Reg) (s : State) : Out :=
  word (.or g d a b) s fun k t => s.put1 k d (t.r a ||| t.r b)

/-- OR with an immediate (R157, R169). -/
def execOrI (g : Guard) (d a : Reg) (imm : Word) (s : State) : Out :=
  word (.orI g d a imm) s fun k t => s.put1 k d (t.r a ||| imm)

/-- XOR (R169). -/
def execXor (g : Guard) (d a b : Reg) (s : State) : Out :=
  word (.xor g d a b) s fun k t => s.put1 k d (t.r a ^^^ t.r b)

/-- XOR with an immediate (R157, R169). -/
def execXorI (g : Guard) (d a : Reg) (imm : Word) (s : State) : Out :=
  word (.xorI g d a imm) s fun k t => s.put1 k d (t.r a ^^^ imm)

/-- ANDN (R169). -/
def execAndn (g : Guard) (d a b : Reg) (s : State) : Out :=
  word (.andn g d a b) s fun k t => s.put1 k d (t.r a &&& ~~~t.r b)

/-- ANDN with an immediate (R157, R169). -/
def execAndnI (g : Guard) (d a : Reg) (imm : Word) (s : State) : Out :=
  word (.andnI g d a imm) s fun k t => s.put1 k d (t.r a &&& ~~~imm)

/-- SHL (R169). -/
def execShl (g : Guard) (d a b : Reg) (s : State) : Out :=
  word (.shl g d a b) s fun k t => s.put1 k d (shlWord (t.r a) (t.r b))

/-- SHL with an immediate (R157, R169). -/
def execShlI (g : Guard) (d a : Reg) (imm : Word) (s : State) : Out :=
  word (.shlI g d a imm) s fun k t => s.put1 k d (shlWord (t.r a) imm)

/-- SHR (R169). -/
def execShr (g : Guard) (d a b : Reg) (s : State) : Out :=
  word (.shr g d a b) s fun k t => s.put1 k d (shrWord (t.r a) (t.r b))

/-- SHR with an immediate (R157, R169). -/
def execShrI (g : Guard) (d a : Reg) (imm : Word) (s : State) : Out :=
  word (.shrI g d a imm) s fun k t => s.put1 k d (shrWord (t.r a) imm)

/-- SAR (R169). -/
def execSar (g : Guard) (d a b : Reg) (s : State) : Out :=
  word (.sar g d a b) s fun k t => s.put1 k d (sarWord (t.r a) (t.r b))

/-- SAR with an immediate (R157, R169). -/
def execSarI (g : Guard) (d a : Reg) (imm : Word) (s : State) : Out :=
  word (.sarI g d a imm) s fun k t => s.put1 k d (sarWord (t.r a) imm)

/-- ROT (R169). -/
def execRot (g : Guard) (d a b : Reg) (s : State) : Out :=
  word (.rot g d a b) s fun k t => s.put1 k d (rotWord (t.r a) (t.r b))

/-- ROT with an immediate (R157, R169). -/
def execRotI (g : Guard) (d a : Reg) (imm : Word) (s : State) : Out :=
  word (.rotI g d a imm) s fun k t => s.put1 k d (rotWord (t.r a) imm)

/-- IMIN (R169). -/
def execImin (g : Guard) (u : Bool) (d a b : Reg) (s : State) : Out :=
  word (.imin g u d a b) s fun k t => s.put1 k d (minWord u (t.r a) (t.r b))

/-- IMIN with an immediate: signed (R169). -/
def execIminI (g : Guard) (d a : Reg) (imm : Word) (s : State) : Out :=
  word (.iminI g d a imm) s fun k t => s.put1 k d (minWord false (t.r a) imm)

/-- IMAX (R169). -/
def execImax (g : Guard) (u : Bool) (d a b : Reg) (s : State) : Out :=
  word (.imax g u d a b) s fun k t => s.put1 k d (maxWord u (t.r a) (t.r b))

/-- IMAX with an immediate: signed (R169). -/
def execImaxI (g : Guard) (d a : Reg) (imm : Word) (s : State) : Out :=
  word (.imaxI g d a imm) s fun k t => s.put1 k d (maxWord false (t.r a) imm)

/-- IADD64 (R169). -/
def execIadd64 (g : Guard) (d a b : Reg) (s : State) : Out :=
  word (.iadd64 g d a b) s fun k t => s.put2 k d (t.pair a + t.pair b)

/-- IADD64 with a sign-extended immediate (R169). -/
def execIadd64I (g : Guard) (d a : Reg) (imm : Word) (s : State) : Out :=
  word (.iadd64I g d a imm) s fun k t => s.put2 k d (t.pair a + imm.signExtend 64)

/-- IADDC (R170). -/
def execIaddc (g : Guard) (x : Bool) (d a b : Reg) (pc : Pred) (s : State) : Out :=
  word (.iaddc g x d a b pc) s fun k t => 
    let cin := x && t.pred pc
    (s.setPred k pc (carryOut (t.r a) (t.r b) cin)).put1 k d (t.r a + t.r b + BitVec.ofNat 32 cin.toNat)

/-- IMULH (R170). -/
def execImulh (g : Guard) (u : Bool) (d a b : Reg) (s : State) : Out :=
  word (.imulh g u d a b) s fun k t => s.put1 k d (hiWord (mulWide u (t.r a) (t.r b)))

/-- IMAD (R170). -/
def execImad (g : Guard) (d a b c : Reg) (s : State) : Out :=
  word (.imad g d a b c) s fun k t => s.put1 k d (t.r a * t.r b + t.r c)

/-- IABS (R170). -/
def execIabs (g : Guard) (d a : Reg) (s : State) : Out :=
  word (.iabs g d a) s fun k t => s.put1 k d (absWord (t.r a))

/-- INEG (R170). -/
def execIneg (g : Guard) (d a : Reg) (s : State) : Out :=
  word (.ineg g d a) s fun k t => s.put1 k d (0 - t.r a)

/-- NOT (R170). -/
def execNot (g : Guard) (d a : Reg) (s : State) : Out :=
  word (.not g d a) s fun k t => s.put1 k d (~~~t.r a)

/-- SHF (R170). -/
def execShf (g : Guard) (left : Bool) (d a b c : Reg) (s : State) : Out :=
  word (.shf g left d a b c) s fun k t => s.put1 k d (funnel left (t.r a) (t.r b) (t.r c))

/-- BFX (R170). -/
def execBfx (g : Guard) (sx : Bool) (d a b : Reg) (s : State) : Out :=
  word (.bfx g sx d a b) s fun k t => s.put1 k d (extractField sx (t.r a) (t.r b))

/-- BFI (R170). -/
def execBfi (g : Guard) (d a b c : Reg) (s : State) : Out :=
  word (.bfi g d a b c) s fun k t => s.put1 k d (insertField (t.r a) (t.r b) (t.r c))

/-- POPC (R170). -/
def execPopc (g : Guard) (d a : Reg) (s : State) : Out :=
  word (.popc g d a) s fun k t => s.put1 k d (BitVec.ofNat 32 (popCount (t.r a).toNat 32))

/-- CLZ (R170). -/
def execClz (g : Guard) (d a : Reg) (s : State) : Out :=
  word (.clz g d a) s fun k t => s.put1 k d (BitVec.ofNat 32 (leadingZeros (t.r a)))

/-- CTZ (R170). -/
def execCtz (g : Guard) (d a : Reg) (s : State) : Out :=
  word (.ctz g d a) s fun k t => s.put1 k d (BitVec.ofNat 32 (trailingZeros (t.r a)))

/-- BREV (R170). -/
def execBrev (g : Guard) (d a : Reg) (s : State) : Out :=
  word (.brev g d a) s fun k t => s.put1 k d (reverseWord (t.r a))

/-- PRMT (R170). -/
def execPrmt (g : Guard) (d a b c : Reg) (s : State) : Out :=
  word (.prmt g d a b c) s fun k t => s.put1 k d (permute (t.r a) (t.r b) (t.r c))

/-- SEL (R170). -/
def execSel (g : Guard) (d a b : Reg) (pc : Pred) (s : State) : Out :=
  word (.sel g d a b pc) s fun k t => s.put1 k d (if t.pred pc then t.r a else t.r b)

/-- ISETP (R171). -/
def execIsetp (g : Guard) (cmp : Cmp) (u : Bool) (comb : Comb) (pd : Pred) (a b : Reg) (pc : Pred) (s : State) : Out :=
  word (.isetp g cmp u comb pd a b pc) s fun k t => 
    s.putP k pd (combine comb (intCompare cmp u (t.r a) (t.r b)) (t.pred pc))

/-- PLOP (R172). -/
def execPlop (g : Guard) (pd pa pb pc : Pred) (lut : BitVec 8) (s : State) : Out :=
  word (.plop g pd pa pb pc lut) s fun k t => 
    s.putP k pd (lutBit lut (t.pred pa) (t.pred pb) (t.pred pc))

/-- MOV (R170). -/
def execMov (g : Guard) (d a : Reg) (s : State) : Out :=
  word (.mov g d a) s fun k t => s.put1 k d (t.r a)

/-- MOVI (R170). -/
def execMovi (g : Guard) (d : Reg) (imm : Word) (s : State) : Out :=
  word (.movi g d imm) s fun k _ => s.put1 k d imm

/-- MOVSV (R173). -/
def execMovsv (g : Guard) (d : Reg) (sv : SpecialValue) (s : State) : Out :=
  word (.movsv g d sv) s fun k t => s.put1 k d (s.special k t sv)

/-- LEA (R170). -/
def execLea (g : Guard) (sh : BitVec 3) (u : Bool) (d a b : Reg) (s : State) : Out :=
  word (.lea g sh u d a b) s fun k t => s.put2 k d (scaled sh u (t.pair a) (t.r b))

/-- IMUL64 (R170). -/
def execImul64 (g : Guard) (u : Bool) (d a b : Reg) (s : State) : Out :=
  word (.imul64 g u d a b) s fun k t => s.put2 k d (mulWide u (t.r a) (t.r b))

end Sys2Proof.Machine
end

