-- ==== Sys2Proof/Machine/Copy.lean ====
section
/-!
DEFINITION. Per-thread copies, bulk copies, multicast and tile drains (spec/10_isa_copy_engines.md R226 to R235, R241,
R242), and the tensor layout record (R229 to R231).
-/
namespace Sys2Proof.Machine

/-! ### Operand checks on the scratchpad -/

/-- The precise causes of a command's scratchpad operand of n bytes at a crew-relative address (R222): alignment, the
allocation, and, when the command writes it for a task, the task's regions. -/
def State.scrCause (s : State) (k : Nat) (t : Thread) (cr : Crew) (a n align : Nat) (write : Bool) : Option Cause :=
  if a % align ≠ 0 then some .misaligned
  else if !cr.inAlloc a n then some .scratchRange
  else if write && t.inTask && !s.ownRegion k t cr a n then some .taskIrrevocable
  else none

/-- A precise trap on a scratchpad operand; BADVA holds its address (R346). -/
def State.scrTrap (s : State) (k : Nat) (e : Cause) (a : Word) : State := s.trap k e (scratchBadva e a)

/-- The map address of a crew-relative address of a command. -/
def State.cmdScr (s : State) (c : Cmd) (a : Nat) : Nat :=
  match s.crew? c.crew with
  | some cr => crewAddr (c.crew / 64) cr a
  | none => 0

/-- An operand word of a command. -/
def Cmd.op (c : Cmd) (n : Nat) : Word := c.ops.getD n 0
/-- An operand pair of a command. -/
def Cmd.op2 (c : Cmd) (n : Nat) : DWord := pairOf (c.op n) (c.op (n + 1))

/-- The values of consecutive registers from an operand. -/
def Thread.vals (t : Thread) (r : Reg) (n : Nat) : List Word := t.rs r n

/-! ### Per-thread copies (R226, R227) -/

/-- The valid-byte count of an ACP. -/
def acpCount (t : Thread) (v : BitVec 6) (vreg : Bool) (b : Reg) : Nat := if vreg then min (t.r b).toNat 32 else v.toNat

/-- A sealed page refuses the store before any byte moves (R114, R227). -/
def State.sealedAt (s : State) (c : Cmd) (va : Nat) : Bool :=
  match s.cmdAccess c va .write with
  | .error (.sealed, _) => true
  | _ => false

/-- ACP (R227). -/
def State.issueAcp (s : State) (i : Instr) (k : Nat) (t : Thread) (store : Bool) (slack : BitVec 4) (tag : Tag)
    (v : Nat) (gs : Word) (va : DWord) : State :=
  match s.crew? (t.crewKey k) with
  | none => s.scrTrap k .scratchRange gs
  | some cr =>
    match s.scrCause k t cr gs.toNat 32 32 (!store) with
    | some e => s.scrTrap k e gs
    | none =>
      let c := s.newCmd i k t (.sluice (coreOf k)) slack.toNat [gs, BitVec.ofNat 32 v, loWord va, hiWord va]
      let c := { c with want := [(crewAddr (coreOf k) cr gs.toNat / 32, !store)] }
      match operandCause va 32 with
      | some e => s.issueFault i k e va
      | none =>
        if s.fenced.contains c.unit.code then s.issueFault i k .engineFenced va
        else if store && s.sealedAt c va.toNat then s.issueFault i k .sealed va
        else if t.kcnt.getD tag.toNat 0 = 255 || s.cmdWaits t c.unit then s.stall
        else
          let s := s.modThread k fun t => { t with kcnt := t.kcnt.set tag.toNat (t.kcnt.getD tag.toNat 0 + 1) }
          s.issueCmd k t c false

/-- ACP.L (R226, R227). -/
def execAcpL (g : Guard) (slack : BitVec 4) (tag : Tag) (v : BitVec 6) (vreg : Bool) (d a b : Reg) (s : State) : Out :=
  word (.acpL g slack tag v vreg d a b) s fun k t =>
    s.issueAcp (.acpL g slack tag v vreg d a b) k t false slack tag (acpCount t v vreg b) (t.r d) (t.pair a)

/-- ACP.S (R226, R227). -/
def execAcpS (g : Guard) (slack : BitVec 4) (tag : Tag) (v : BitVec 6) (vreg : Bool) (d a b : Reg) (s : State) : Out :=
  word (.acpS g slack tag v vreg d a b) s fun k t =>
    s.issueAcp (.acpS g slack tag v vreg d a b) k t true slack tag (acpCount t v vreg b) (t.r d) (t.pair a)

/-- The beat of an ACP.L: v bytes of memory, then zeros (R227). -/
def State.acpLoad (s : State) (c : Cmd) : Except AccFault State :=
  let v := (c.op 1).toNat
  let a := s.cmdScr c (c.op 0).toNat
  match s.cmdRead c (c.op2 2).toNat v with
  | .error e => .error e
  | .ok (s, bs) => .ok ((s.writeScr a (bs ++ List.replicate (32 - v) 0)).modCmd c.id fun c => { c with beat := 1 })

/-- The beat of an ACP.S: v bytes of the sector, then zeros; in a task they merge into line records (R224, R227). Bytes that the write
buffer has no room for exhaust the task (R68); after its last signature of TDONE it can no longer be exhausted (R69), and they are
dropped while the commit goes on (the model's choice, notes/assumptions/47.md). -/
def State.acpStore (s : State) (c : Cmd) : Except AccFault State :=
  let v := (c.op 1).toNat
  let a := s.cmdScr c (c.op 0).toNat
  let va := (c.op2 2).toNat
  let bs := s.readScr a v ++ List.replicate (32 - v) 0
  match s.cmdCells c va bs with
  | .error e => .error e
  | .ok (s, cells) =>
    if c.task.isSome then
      let s := if (s.cmdTask c).isSome then (s.bufferBytes c.crew (cellsAt va bs)).1 else s
      .ok (s.modCmd c.id fun c => { c with beat := 1 })
    else .ok ((s.cmdStore c cells).modCmd c.id fun c => { c with beat := 1 })

/-- AWAIT (R228): a zero counter orders as an acquire at dev scope (R133); loads are performed in order, so nothing is left
to do. -/
def execAwait (g : Guard) (tag : Tag) (s : State) : Out :=
  word (.await g tag) s fun k t =>
    if t.kcnt.getD tag.toNat 0 = 0 then s.retire k else s.park k (.tag (1#8 <<< tag.toNat))

/-- KCNT (R228). -/
def execKcnt (g : Guard) (d : Reg) (tag : Tag) (s : State) : Out :=
  word (.kcnt g d tag) s fun k t => s.put1 k d (BitVec.ofNat 32 (t.kcnt.getD tag.toNat 0))

/-! ### Tensor layout records (R229 to R231) -/

/-- A tensor layout record (R229). -/
structure Tlr where
  base   : Nat
  dims   : List Nat
  stride : List Nat
  box    : List Nat
  fmt    : Nat
  rank   : Nat
  fill   : Bool
  decode : Bool
  ilv    : Nat
  sat    : Bool
  desc   : Nat

/-- The record in 64 bytes. -/
def Tlr.read (bs : List Byte) : Tlr :=
  let x := natOf bs
  { base := bits x 55 0, dims := (upTo 0 5).map fun i => bits x (95 + 32 * i) (64 + 32 * i)
    stride := (upTo 0 4).map fun i => bits x (255 + 32 * i) (224 + 32 * i)
    box := (upTo 0 5).map fun i => bits x (367 + 16 * i) (352 + 16 * i), fmt := bits x 435 432, rank := bits x 438 436
    fill := x.testBit 439, decode := x.testBit 440, ilv := bits x 442 441, sat := x.testBit 443, desc := bits x 511 448 }

/-- The element format of a code (R182, R229); X128 has none. -/
def tlrFmt : Nat → Option NumFmt
  | 0 => some .f32
  | 1 => some .f16
  | 2 => some .bf16
  | 3 => some .f8a
  | 4 => some .f8b
  | 5 => some .i8
  | 6 => some .i4
  | 7 => some .i32
  | 8 => some .ui32
  | _ => none

/-- The element size in half bytes (R229). -/
def Tlr.size2 (t : Tlr) : Nat := match tlrFmt t.fmt with | some f => fmtBits f / 4 | none => 32
/-- The scratchpad element size in half bytes (R229). -/
def Tlr.image2 (t : Tlr) : Nat := if t.decode then 4 else t.size2
/-- The elements of the box. -/
def Tlr.count (t : Tlr) : Nat := t.box.foldl (· * ·) 1
/-- The image size in bytes (R229). -/
def Tlr.image (t : Tlr) : Nat := t.image2 * t.count / 2

/-- TLR_BAD (R229); `load` says that the command may decode. -/
def tlrBad (bs : List Byte) (t : Tlr) (load : Bool) : Bool :=
  let x := natOf bs
  bits x 63 56 != 0 || bits x 447 444 != 0 || t.rank == 0 || decide (5 < t.rank) ||
  t.dims.contains 0 || t.box.contains 0 ||
  ((upTo 0 5).any fun i => decide (t.rank ≤ i) && (t.dims.getD i 1 != 1 || t.box.getD i 1 != 1)) ||
  decide (9 < t.fmt) || (t.size2 != 1 && t.base % (t.size2 / 2) != 0) ||
  (t.fmt == 6 && t.box.getD 0 0 % 2 == 1) || ((t.fmt == 9) != (t.desc != 0)) || t.desc % 16 != 0 ||
  decide (2 ≤ t.ilv) || t.image2 * t.count / 2 % 32 != 0 || decide (2 ^ 20 < t.image) ||
  (t.decode && (!load || decide (2 < t.rank) || !([1, 2, 3, 4, 5, 6].contains t.fmt)))

/-- The coordinates of a box element (R230): digits of its number in the box extents, added to the command's. -/
def boxPoint : List Nat → List Int → Nat → List Int
  | b :: bs, c :: cs, n => (c + (n % b : Nat)) :: boxPoint bs cs (n / b)
  | _, _, _ => []

/-- Some coordinate lies outside its dimension (R231). -/
def clipped : List Nat → List Int → Bool
  | d :: ds, x :: xs => decide (x < 0) || decide ((d : Int) ≤ x) || clipped ds xs
  | _, _ => false

/-- The sum of strides times coordinates. -/
def strideSum : List Nat → List Int → Nat
  | s :: ss, x :: xs => s * x.toNat + strideSum ss xs
  | _, _ => 0

/-- The place of box element n: its half-byte address, or none when it is clipped (R230, R231). -/
def Tlr.place (t : Tlr) (cs : List Int) (n : Nat) : Option Nat :=
  let p := boxPoint t.box cs n
  if clipped t.dims p then none
  else some (2 * t.base + t.size2 * (p.headD 0).toNat + 32 * strideSum t.stride p.tail)

/-- The typed element number of a box element, or none when it is clipped (R229). -/
def Tlr.typedPlace (t : Tlr) (cs : List Int) (n : Nat) : Option Nat :=
  let p := boxPoint t.box cs n
  if clipped t.dims p then none else some ((p.headD 0).toNat + (p.getD 1 0).toNat * t.stride.getD 0 0)

/-- What a clipped point of a load receives (R229, R231). -/
def Tlr.fillValue (t : Tlr) : Nat :=
  match (if t.decode then some .bf16 else tlrFmt t.fmt) with
  | some f => if t.fill && f.isFloat then canonNaN f else 0
  | none => 0

/-- The map address of an image byte (R230). -/
def imageAddr (sa ilv o : Nat) : Nat :=
  let a := sa + o
  if ilv = 0 then a else a - (a / 32 % 64) * 32 + ((a / 32 % 64) ^^^ (o / 2048 % 64)) * 32

/-- The 256-byte beats of an image. -/
def Tlr.beats (t : Tlr) : Nat := ceilDiv t.image 256

/-! ### Bulk copies (R232, R233) -/

/-- The signed coordinates c0 to c4 of an operand octet. -/
def coords (ws : List Word) : List Int := ws.map (·.toInt)

/-- A command reads one element as a number: two elements share a byte of I4. -/
def State.readElem (s : State) (c : Cmd) (half size2 : Nat) : Except AccFault (State × Nat) :=
  match s.cmdRead c (half / 2) (max 1 (size2 / 2)) with
  | .error e => .error e
  | .ok (s, bs) => .ok (s, natOf bs / 16 ^ (half % 2) % 16 ^ size2)

/-- The translation of a page of a typed tensor, before anything is sent to memory (R402). -/
def State.typedPage (s : State) (c : Cmd) (page : Nat) : Except AccFault Loc :=
  match s.xlate c.agent c.vf c.core page .read with
  | .error e => .error (e, page)
  | .ok l => .ok l

/-- The element and geometry codes of a typed tensor's first page (R117). -/
def State.typedBase (s : State) (c : Cmd) (p0 : Nat) : Except AccFault Loc :=
  if p0 % 65536 ≠ 0 then .error (.misaligned, p0)
  else if 2 ^ 56 ≤ p0 then .error (.addrRange, p0)
  else
    match s.typedPage c p0 with
    | .error e => .error e
    | .ok l => if l.geom = 0 then .error (.formatMismatch, p0) else .ok l

/-- A typed element as BF16 (R85, R117, R233). -/
def State.readTyped (s : State) (c : Cmd) (p0 j : Nat) : Except AccFault (State × Nat) :=
  match s.typedBase c p0 with
  | .error e => .error e
  | .ok l0 =>
    let n := pageElems l0.elem l0.geom
    let page := p0 + 65536 * (j / n)
    if 2 ^ 56 ≤ page then .error (.typedRange, page)
    else
      match s.typedPage c page with
      | .error e => .error e
      | .ok l =>
        if l.elem ≠ l0.elem ∨ l.geom ≠ l0.geom then .error (.formatMismatch, page)
        else
          let (off, nb, sh, so) := elemPlace l.elem l.geom (j % n)
          match s.cmdRead c (page + off) nb with
          | .error e => .error e
          | .ok (s, bs) =>
            match s.cmdRead c (page + so) 1 with
            | .error e => .error e
            | .ok (s, sc) => .ok (s, (narrow .bf16 .rne false (elemValue l.elem bs sh (sc.headD 0))).1)

/-- The TLR a command keeps with it (R220). -/
def Cmd.tlr (c : Cmd) : Tlr := Tlr.read c.recd

/-- The elements of a beat: the first number and how many. -/
def Tlr.beatElems (t : Tlr) (b : Nat) : Nat × Nat :=
  (512 * b / t.image2, min 512 (2 * t.image - 512 * b) / t.image2)

/-- SA of a bulk copy as a map address (R232). -/
def State.bcpScr (s : State) (c : Cmd) : Nat :=
  match c.i with
  | .bcp _ _ _ _ true _ _ _ _ => (c.op 0).toNat
  | _ => s.cmdScr c (c.op 0).toNat

/-- The image granules of a beat: their map addresses. -/
def Tlr.granules (t : Tlr) (sa b : Nat) : List Nat :=
  (upTo 0 (min 256 (t.image - 256 * b) / 32)).map fun g => imageAddr sa t.ilv (256 * b + 32 * g)

/-- A number with values of a fixed width laid one after the other. -/
def packVals (w2 : Nat) : List Nat → Nat
  | [] => 0
  | v :: vs => v + 16 ^ w2 * packVals w2 vs

/-- Write a beat's bytes into its granules, 32 at a time. -/
def State.writeGranules (s : State) : List Nat → List Byte → State
  | [], _ => s
  | a :: as, bs => (s.writeScr a (bs.take 32)).writeGranules as (bs.drop 32)

/-- Read the granules of a beat. -/
def State.readGranules (s : State) (as : List Nat) : List Byte := as.flatMap fun a => s.readScr a 32

/-- A beat's granules are finished and the command goes on with the next beat. -/
def State.endBeat (s : State) (c : Cmd) (as : List Nat) : State :=
  (s.finishSectors c.id (as.map (· / 32))).modCmd c.id fun c => { c with beat := c.beat + 1 }

/-- The beat of a load: each unclipped point is read, each clipped one is the fill (R233). -/
def State.bcpLoadBeat (s : State) (c : Cmd) : Except AccFault State :=
  let t := c.tlr
  let cs := coords ((c.ops.drop 1).take 5)
  let (n0, n) := t.beatElems c.beat
  let step (x : State × List Nat) (e : Nat) : Except AccFault (State × List Nat) :=
    if t.decode then
      match t.typedPlace cs e with
      | none => .ok (x.1, x.2 ++ [t.fillValue])
      | some j =>
        (match x.1.readTyped c t.base (j % 2 ^ 32) with
         | .error er => .error er
         | .ok (s, v) => .ok (s, x.2 ++ [v]))
    else
      match t.place cs e with
      | none => .ok (x.1, x.2 ++ [t.fillValue])
      | some h =>
        match x.1.readElem c h t.size2 with
        | .error er => .error er
        | .ok (s, v) => .ok (s, x.2 ++ [v])
  match foldE step (upTo n0 n) (s, []) with
  | .error e => .error e
  | .ok (s, vs) =>
    let as := t.granules (s.bcpScr c) c.beat
    .ok ((s.writeGranules as (bytesOf (packVals t.image2 vs) (32 * as.length))).endBeat c as)

/-- The cells of one element's store; of a byte that holds two elements the other half is kept. -/
def State.elemCells (s : State) (c : Cmd) (acc : List Host.Cell) (half size2 v : Nat) :
    Except AccFault (State × List Host.Cell) :=
  match s.cmdAccess c (half / 2) .write with
  | .error e => .error e
  | .ok l =>
    if inTail l (half / 2) then .ok (s.keep l.ent, acc)
    else if size2 = 1 then
      let old := ((cellAt acc l.key).getD (s.readByte c.agent l.key)).toNat
      let new := if half % 2 = 0 then old / 16 * 16 + v % 16 else old % 16 + v % 16 * 16
      .ok (s.keep l.ent, acc ++ [(l.key, BitVec.ofNat 8 new)])
    else .ok (s.keep l.ent, acc ++ cellsAt l.key (bytesOf v (size2 / 2)))

/-- The unclipped elements of a list with their half-byte addresses and values. -/
def Tlr.unclipped (t : Tlr) (cs : List Int) (es : List (Nat × Nat)) : List (Nat × Nat) :=
  es.filterMap fun (e, v) => (t.place cs e).map fun h => (h, v)

/-- Store elements (R233, R242). -/
def State.storeElems (s : State) (c : Cmd) (size2 : Nat) (es : List (Nat × Nat)) : Except AccFault State :=
  match foldE (fun (x : State × List Host.Cell) (e : Nat × Nat) => x.1.elemCells c x.2 e.1 size2 e.2) es (s, []) with
  | .error e => .error e
  | .ok (s, cells) => .ok (s.cmdStore c cells)

/-- The agents an engine's atomic is indivisible against: the device, or all over the Prejor link (R233). -/
def atomScope (l : Loc) : Nat := if l.tgt = 4 then maskSys else maskDev

/-- The targets of store-adds are translated before any of them is performed; host memory refuses (R199, R233). -/
def State.addTargets (s : State) (c : Cmd) (es : List (Nat × Nat)) : Except AccFault (State × List (Loc × Nat × Nat)) :=
  foldE (fun (x : State × List (Loc × Nat × Nat)) (e : Nat × Nat) =>
    match x.1.cmdAccess c (e.1 / 2) .write with
    | .error er => .error er
    | .ok l =>
      if l.tgt = 3 then .error (.atomTarget, e.1 / 2) else .ok (x.1.keep l.ent, x.2 ++ [(l, e.1 / 2, e.2)])) es (s, [])

/-- Add values to memory with RNE, each add atomic (R233, R242). -/
def State.faddElems (s : State) (c : Cmd) (f : NumFmt) (es : List (Nat × Nat)) : Except AccFault State :=
  match s.addTargets c es with
  | .error e => .error e
  | .ok (s, ts) =>
    let n := fmtBits f / 8
    .ok (ts.foldl (fun (st : State) (l, va, v) =>
      if inTail l va then st
      else
        let m := atomScope l
        let v := if (decodeFloat f v).isNan then canonNaN f else v
        let r := (fAdd f .rne (natOf (st.readAtom c.agent m l.key n)) v).1
        st.writeAtom (cmdWriter c.id) c.agent m (cellsAt l.key (bytesOf r n)) [] c.vf) s)

/-- The descriptor of an X128 array (R89): translated for write, its reserved bits zero. -/
def State.descOf (s : State) (c : Cmd) (desc : Nat) : Except AccFault (State × Loc × Int) :=
  match s.cmdAccess c desc .write with
  | .error e => .error e
  | .ok l =>
    if l.tgt = 3 then .error (.atomTarget, desc)
    else
      let x := s.descAt c.agent (atomScope l) l desc
      if descBad x then .error (.x128Desc, desc) else .ok (s.keep l.ent, l, descAnchor x)

/-- Add exact contributions to an X128 array (R90, R233, R242): each is (address, S, flags) at an anchor; without an anchor
the descriptor's is taken. -/
def State.xaddElems (s : State) (c : Cmd) (desc : Nat) (anchor : Option Int) (es : List (Nat × Nat)) (fl : Nat → BitVec 4) :
    Except AccFault State :=
  match s.descOf c desc with
  | .error e => .error e
  | .ok (s, dl, d) =>
    match s.addTargets c es with
    | .error e => .error e
    | .ok (s, ts) =>
      .ok ((ts.zip (upTo 0 ts.length)).foldl (fun (st : State) ((l, va, v), i) =>
        (st.exactAdd (cmdWriter c.id) c.agent (atomScope l) c.vf l dl va desc (signedOf 128 v) (anchor.getD d) (fl i) []).1) s)

/-- The beat of a store or a store-add (R233). -/
def State.bcpStoreBeat (s : State) (c : Cmd) (dir : BcpDir) : Except AccFault State :=
  let t := c.tlr
  let cs := coords ((c.ops.drop 1).take 5)
  let (n0, n) := t.beatElems c.beat
  let as := t.granules (s.bcpScr c) c.beat
  let x := natOf (s.readGranules as)
  let es := t.unclipped cs ((upTo 0 n).map fun i => (n0 + i, x / 16 ^ (t.size2 * i) % 16 ^ t.size2))
  let r : Except AccFault State :=
    match dir with
    | .fadd => s.faddElems c ((tlrFmt t.fmt).getD .f32) es
    | .xadd => s.xaddElems c t.desc none es fun _ => 0
    | _ => s.storeElems c t.size2 es
  match r with
  | .error e => .error e
  | .ok s => .ok (s.endBeat c as)

/-- A beat of a bulk copy. -/
def State.bcpBeat (s : State) (c : Cmd) : Except AccFault State :=
  match c.i with
  | .bcp _ _ .load _ _ _ _ _ _ => s.bcpLoadBeat c
  | .bcp _ _ dir _ _ _ _ _ _ => s.bcpStoreBeat c dir
  | _ => .ok s

/-- The format a direction accepts (R233). -/
def bcpFmtOk (dir : BcpDir) (fmt : Nat) : Bool :=
  match dir with
  | .fadd => decide (fmt ≤ 2)
  | .xadd => fmt == 9
  | _ => true

/-- Read a command's TLR at issue (R220, R229). -/
def State.readTlr (s : State) (c : Cmd) (va : DWord) : Except AccFault (State × List Byte) :=
  if va.toNat % 64 ≠ 0 then .error (.misaligned, va.toNat) else s.cmdRead c va.toNat 64

/-- A destination page of the box is sealed (R114, R233): its address. -/
def State.sealedPoint (s : State) (c : Cmd) (t : Tlr) (cs : List Int) : Option Nat :=
  ((((upTo 0 t.count).filterMap (t.place cs)).map (· / 2)).find? fun va => s.sealedAt c va)

/-- SA of a bulk copy (R232): the map address, whether it lies in the issuing crew's own task regions, and whether the
image lies inside; or the cause. -/
def State.bcpPlace (s : State) (k : Nat) (t : Thread) (cr : Crew) (mapd : Bool) (sa : Word) (n : Nat) : Nat × Bool × Bool :=
  let core := coreOf k
  if mapd then
    let rel := sa.toNat - crewAddr core cr 0
    let own := decide (crewAddr core cr 0 ≤ sa.toNat) && s.ownRegion k t cr rel n
    let limit := if isSteward (sa.toNat / 2 ^ 24) then 0x100000 else 0x300000
    (sa.toNat, own, decide (sa.toNat % 2 ^ 24 + n ≤ limit))
  else (crewAddr core cr sa.toNat, s.ownRegion k t cr sa.toNat n, cr.inAlloc sa.toNat n)

/-- A mapped SA lies in the scratchpad window of a core of the partition (R232). -/
def State.mapdOk (s : State) (vf : Nat) (sa : Word) : Bool :=
  match mapPlace sa.toNat with
  | some (.scratch _) => (s.part vf).hasCore (sa.toNat / 2 ^ 24)
  | _ => false

/-- The image sectors of a bulk copy from beat b on (R233). -/
def Tlr.imageSectors (t : Tlr) (a b : Nat) (load : Bool) : List (Nat × Bool) :=
  (upTo (8 * b) (t.image / 32 - 8 * b)).map fun n => (imageAddr a t.ilv (32 * n) / 32, load)

/-- A bulk copy whose checks have passed takes its image sectors: FILLING for a load, DRAINING otherwise (R233). -/
def State.bcpGo (s : State) (k : Nat) (t : Thread) (c : Cmd) (a : Nat) (load : Bool) : State :=
  let tl := c.tlr
  if s.cmdWaits t c.unit (!load) then s.stall
  else
    s.issueCmd k t { c with want := tl.imageSectors a 0 load } (!load)

/-- The checks of a bulk copy once its TLR is read (R229, R232, R233), then its issue. -/
def State.bcpIssue (s : State) (i : Instr) (k : Nat) (t : Thread) (cr : Crew) (dir : BcpDir) (mapd : Bool) (sa : Word)
    (c : Cmd) : State :=
  let tl := c.tlr
  let load := dir == .load
  let (a, own, inside) := s.bcpPlace k t cr mapd sa tl.image
  if tlrBad c.recd tl load || !bcpFmtOk dir tl.fmt then s.issueFault i k .tlrBad (c.op2 6)
  else if tl.ilv = 1 ∧ sa.toNat % 2048 ≠ 0 then s.scrTrap k .misaligned sa
  else if !inside then s.scrTrap k .scratchRange sa
  else if t.inTask && !own && (mapd || load) then s.scrTrap k .taskIrrevocable sa
  else if tl.decode then
    match s.typedBase c tl.base with
    | .error e => s.issueFault i k e.1 (BitVec.ofNat 64 e.2)
    | .ok l => if tlrFmt tl.fmt ≠ some (pageFmt l.elem) then s.issueFault i k .tlrBad (c.op2 6) else s.bcpGo k t c a load
  else
    match (if load then none else s.sealedPoint c tl (coords ((c.ops.drop 1).take 5))) with
    | some va => s.issueFault i k .sealed (BitVec.ofNat 64 va)
    | none => s.bcpGo k t c a load

/-- The signal operand of a command: its address, or none. -/
def sigOperand (t : Thread) (nosig : Bool) (c : Reg) : Option DWord := if nosig then none else some (t.pair c)

/-- The cause of a signal operand at issue, with its address. -/
def sigFault (sg : Option DWord) : Option (Cause × DWord) := sg.bind fun va => (sigCause va).map fun e => (e, va)

/-- BCP (R232, R233). -/
def execBcp (g : Guard) (slack : BitVec 4) (dir : BcpDir) (nosig mapd : Bool) (d a b c : Reg) (s : State) : Out :=
  let i : Instr := .bcp g slack dir nosig mapd d a b c
  word i s fun k t =>
    let sa := t.r d
    match s.crew? (t.crewKey k) with
    | none => s.scrTrap k .scratchRange sa
    | some cr =>
      let va := t.pair a
      let sg := sigOperand t nosig c
      let cmd := s.newCmd i k t (.sluice (coreOf k)) slack.toNat
        ([sa] ++ t.rs b 5 ++ [loWord va, hiWord va] ++ (match sg with | some x => [loWord x, hiWord x] | none => []))
      if sa.toNat % 32 ≠ 0 then s.scrTrap k .misaligned sa
      else if mapd && !s.mapdOk t.vf sa then s.issueFault i k .mapRange (sa.setWidth 64)
      else if s.fenced.contains cmd.unit.code then s.issueFault i k .engineFenced va
      else
        match sigFault sg with
        | some (e, x) => s.issueFault i k e x
        | none =>
          if !t.storeq.isEmpty then s.stall
          else
            match (s.forUnit k cmd).readTlr cmd va with
            | .error e => s.issueFault i k e.1 (BitVec.ofNat 64 e.2)
            | .ok (s1, bs) => s.guardReads k t (s1.bcpIssue i k t cr dir mapd sa { cmd with recd := bs })

/-- The signal of a bulk copy or a multicast that its operands hold. -/
def Cmd.signalAt (c : Cmd) (nosig : Bool) (n : Nat) : Option DWord := if nosig then none else some (c.op2 n)

/-! ### Multicast (R234, R235) -/

/-- The length of an MCAST in bytes (R234). -/
def mcastLen (len : BitVec 11) : Nat := 32 * (if len = 0 then 2048 else len.toNat)

/-- The cores that a 128-bit mask names. -/
def mcastCores (ws : List Word) : List Nat := bitsSet (natOfWords ws) 128

/-- The sectors of an MCAST of n bytes on a core, from beat b on (R235). -/
def mcastSectors (core gs n b : Nat) : List (Nat × Bool) :=
  (sectorRange (mapAddr core (gs + 256 * b)) (n - 256 * b)).map fun q => (q, true)

/-- MCAST (R234, R235). -/
def execMcast (g : Guard) (slack : BitVec 4) (len : BitVec 11) (nosig : Bool) (d a b c : Reg) (s : State) : Out :=
  let i : Instr := .mcast g slack len nosig d a b c
  word i s fun k t =>
    let gs := t.r d
    let va := t.pair a
    let sg := sigOperand t nosig c
    let mask := t.rs b 4
    let cores := mcastCores mask
    let n := mcastLen len
    let cmd := { s.newCmd i k t (.sluice (coreOf k)) slack.toNat
      ([gs, loWord va, hiWord va] ++ mask ++ (match sg with | some x => [loWord x, hiWord x] | none => [])) with
        land := cores.map fun x => (x, 0) }
    if gs.toNat % 32 ≠ 0 then s.scrTrap k .misaligned gs
    else
      match operandCause va 32, sigFault sg with
      | some e, _ => s.issueFault i k e va
      | none, some (e, x) => s.issueFault i k e x
      | none, none =>
        if cores.isEmpty || (cores.any fun x => !(s.part t.vf).hasCore x) || decide (0x300000 < gs.toNat + n) then
          s.issueFault i k .mapRange (gs.setWidth 64)
        else if s.fenced.contains cmd.unit.code then s.issueFault i k .engineFenced va
        else if s.cmdWaits t cmd.unit true then s.stall
        else if t.inTask then s.issueCmd k t cmd true
        else
          s.issueCmd k t { cmd with want := cores.flatMap fun x => mcastSectors x gs.toNat n 0 } false

/-- The beats of an MCAST. -/
def mcastBeats (len : BitVec 11) : Nat := ceilDiv (mcastLen len) 256

/-- The cores of an MCAST that have still to receive beats, with the next beat of each (R235). -/
def Cmd.landing (c : Cmd) (len : BitVec 11) : List (Nat × Nat) := c.land.filter fun x => decide (x.2 < mcastBeats len)

/-- The core on which an MCAST lands its next beat: the one that State.who names after the sluice, else the one that has
received the fewest. -/
def State.mcastDest (s : State) (c : Cmd) (len : BitVec 11) : Option (Nat × Nat) :=
  match s.who with
  | [_, dest] => (c.landing len).find? fun x => x.1 == dest
  | _ => minBy? (fun x => x.2) (c.landing len)

/-- The bytes of a beat of an MCAST: of memory when no core has received it, and afterwards as they were read then. -/
def State.mcastRead (s : State) (c : Cmd) (b n : Nat) : Except AccFault (State × List Byte) :=
  match c.ahead.find? fun x => x.1 == b with
  | some x => .ok (s, x.2)
  | none => s.cmdRead c ((c.op2 1).toNat + 256 * b) n

/-- A beat has landed on a core; a beat is kept while some core has still to receive it (R235). -/
def Cmd.landed (c : Cmd) (dest b : Nat) (bs : List Byte) : Cmd :=
  let land := c.land.map fun x => if x.1 = dest then (x.1, b + 1) else x
  let ahead := if b < c.beat then c.ahead else c.ahead ++ [(b, bs)]
  { c with land := land, beat := max c.beat (b + 1), ahead := ahead.filter fun x => land.any fun y => decide (y.2 ≤ x.1) }

/-- A beat of an MCAST lands on a core at the address it has on every core (R235): its source is read once, and its sectors
become READY on that core. -/
def State.mcastLand (s : State) (c : Cmd) (len : BitVec 11) (dest b : Nat) : Except AccFault State :=
  let n := min 256 (mcastLen len - 256 * b)
  match s.mcastRead c b n with
  | .error e => .error e
  | .ok (s, bs) =>
    let a := mapAddr dest ((c.op 0).toNat + 256 * b)
    .ok (((s.writeScr a bs).finishSectors c.id (sectorRange a n)).modCmd c.id fun c => c.landed dest b bs)

/-- A beat of an MCAST on the core that receives it next (R235). -/
def State.mcastBeat (s : State) (c : Cmd) (len : BitVec 11) : Except AccFault State :=
  match s.mcastDest c len with
  | some (dest, b) => s.mcastLand c len dest b
  | none => .ok s

/-- At a stop an MCAST keeps its progress: the cores that it has finished, and one next beat for the others (R235, R374). A beat that
one of the others has received already lands on those that lack it; a finished core does not make them go on. -/
def State.mcastAlign (s : State) (c : Cmd) (len : BitVec 11) : State :=
  let top := ((c.landing len).map (·.2)).foldl max 0
  c.ahead.foldl (fun (st : State) x =>
    (c.landing len).foldl (fun (st : State) y =>
      match st.cmd? c.id with
      | some c' =>
        if x.1 < top ∧ c'.land.contains (y.1, x.1) = true then
          (match st.mcastLand c' len y.1 x.1 with
           | .ok st' => st'
           | .error _ => st)
        else st
      | none => st) st) s

/-! ### Drain (R241, R242) -/

/-- DRAIN_SHAPE (R241). -/
def drainShapeBad (t : Tlr) (mode : DrainMode) : Bool :=
  t.rank < 2 || t.box.getD 0 0 != 64 || t.box.getD 1 0 != 64 || ((t.box.drop 2).any fun b => b != 1) || t.decode ||
  !(match mode with
    | .store => t.fmt ≤ 4 || t.fmt == 7
    | .fadd => t.fmt ≤ 2
    | .xadd => t.fmt == 9)

/-- The parts of R229 that a DRAIN's own shape does not decide. A TLR with DECODE = 1 is DRAIN_SHAPE, as R241 says, where R229 gives
TLR_BAD to DECODE with a direction other than load (the model's choice, notes/assumptions/29.md). -/
def drainTlrBad (bs : List Byte) (t : Tlr) : Bool := tlrBad bs { t with decode := false } false

/-- The checks of a drain once its TLR is read (R241), then its issue. -/
def State.drainIssue (s : State) (i : Instr) (k : Nat) (t : Thread) (mode : DrainMode) (c : Cmd) (va : DWord) : State :=
  if drainTlrBad c.recd c.tlr then s.issueFault i k .tlrBad va
  else if drainShapeBad c.tlr mode then s.issueFault i k .drainShape va
  else
    match s.sealedPoint c c.tlr (coords ((c.ops.drop 1).take 5)) with
    | some x => s.issueFault i k .sealed (BitVec.ofNat 64 x)
    | none => if s.cmdWaits t c.unit true then s.stall else s.issueCmd k t c true

/-- DRAIN (R241). -/
def execDrain (g : Guard) (slack : BitVec 4) (mode : DrainMode) (nosig clr : Bool) (tile : Tile) (a b c : Reg) (s : State) :
    Out :=
  let i : Instr := .drain g slack mode nosig clr tile a b c
  word i s fun k t =>
    let va := t.pair a
    let sg := sigOperand t nosig c
    let tiles := match s.crew? (t.crewKey k) with | some cr => cr.tiles | none => []
    let cmd := s.newCmd i k t (.sluice (coreOf k)) slack.toNat
      ([BitVec.ofNat 32 (tiles.getD tile.toNat 0)] ++ t.rs b 5 ++ [loWord va, hiWord va] ++
        (match sg with | some x => [loWord x, hiWord x] | none => []))
    if tiles.length ≤ tile.toNat then s.issueFault i k .tileGrant 0
    else if s.fenced.contains cmd.unit.code then s.issueFault i k .engineFenced va
    else
      match sigFault sg with
      | some (e, x) => s.issueFault i k e x
      | none =>
        if !t.storeq.isEmpty then s.stall
        else
          match (s.forUnit k cmd).readTlr cmd va with
          | .error e => s.issueFault i k e.1 (BitVec.ofNat 64 e.2)
          | .ok (s1, bs) => s.guardReads k t (s1.drainIssue i k t mode { cmd with recd := bs } va)

/-- The value a DRAIN writes for an element (R88, R242). -/
def drainValue (f : NumFmt) (sat : Bool) (x : Elem) (anchor : Int) : Nat :=
  if f = .i32 then
    if x.fl ≠ 0 then 0
    else modPow (toIntRange (-2147483648) 2147483647 .rne (.fin (decide (x.s.toInt < 0)) x.s.toInt.natAbs anchor)).1 32
  else (roundAcc f .rne sat x anchor).1

/-- The physical tile of a DRAIN. -/
def Cmd.drainTile (c : Cmd) : Nat := c.unit.core * 16 + (c.op 0).toNat

/-- Every matrix operation issued on the tile before the DRAIN has completed (R242). -/
def State.drainFree (s : State) (c : Cmd) : Bool :=
  !(s.mats.any fun m => m.core * 16 + m.tile == c.drainTile && decide (m.id < c.id))

/-- A row of a DRAIN (R242), which is performed whole: after row 63 is read, CLR clears the elements and keeps ANCHOR. -/
def State.drainRow (s : State) (c : Cmd) (mode : DrainMode) (clr : Bool) : Except AccFault State :=
  let t := c.tlr
  let cs := coords ((c.ops.drop 1).take 5)
  let tile := s.tile c.drainTile
  let f := (tlrFmt t.fmt).getD .f32
  let el (j : Nat) : Elem := tile.elem (c.beat * 64 + j)
  let value (j : Nat) : Nat := if mode = .xadd then (el j).s.toNat else drainValue f t.sat (el j) tile.anchor
  let kept := (upTo 0 64).filter fun j => (t.place cs (c.beat * 64 + j)).isSome
  let es := t.unclipped cs ((upTo 0 64).map fun j => (c.beat * 64 + j, value j))
  let r : Except AccFault State :=
    match mode with
    | .store => s.storeElems c t.size2 es
    | .fadd => s.faddElems c f es
    | .xadd => s.xaddElems c t.desc (some tile.anchor) es fun n => (el (kept.getD n 0)).fl
  match r with
  | .error e => .error e
  | .ok s =>
    let s := if clr && c.beat = 63 then s.setTile c.drainTile { tile with els := [] } else s
    .ok (s.modCmd c.id fun c => { c with beat := c.beat + 1 })

end Sys2Proof.Machine
end

