-- ==== Sys2Proof/Machine/FloatOps.lean ====
section
/-!
DEFINITION. The floating-point instructions (spec/08_isa_control_integer_float.md R174 to R185): the exact operations
are in Float, the flags and traps in Flags.
-/
namespace Sys2Proof.Machine

/-- A float result for one register (R94). -/
def State.floatReg (s : State) (k : Nat) (t : Thread) (d : Reg) (r : Nat × FFlags) : State :=
  s.floatDone k t r.2 fun t => t.setReg d.toNat (BitVec.ofNat 32 r.1)

/-- Element i of width w of a register (R81). -/
def elemOf (x : Word) (w i : Nat) : Nat := x.toNat / 2 ^ (w * i) % 2 ^ w

/-- The register with element i of width w replaced (R81, R183). -/
def setElem (x : Word) (w i v : Nat) : Word :=
  let m : Word := BitVec.ofNat 32 ((2 ^ w - 1) * 2 ^ (w * i))
  (x &&& ~~~m) ||| (BitVec.ofNat 32 (v * 2 ^ (w * i)) &&& m)

/-- A packed-half operation on both elements (R179). -/
def packed (f : Nat → Nat × FFlags) : Nat × FFlags :=
  let (x, fx) := f 0
  let (y, fy) := f 1
  (x + y * 65536, fx ||| fy)

/-- The 16-bit format that BF selects (R179). -/
def halfFmt (bf : Bool) : NumFmt := if bf then .bf16 else .f16

/-- The sum of DP4 (n = 4) and DP8 (n = 8) (R180). -/
def dotSum (n : Nat) (ua ub : Bool) (a b c : Word) : Int :=
  let w := 32 / n
  let el (u : Bool) (x : Word) (i : Nat) : Int := if u then (elemOf x w i : Int) else signedOf w (elemOf x w i)
  (upTo 0 n).foldl (fun acc i => acc + el ua a i * el ub b i) c.toInt

/-- The result of DP4 and DP8, saturated or wrapped (R180). -/
def dotResult (sat : Bool) (x : Int) : Word :=
  BitVec.ofInt 32 (if sat then max (-2147483648) (min 2147483647 x) else x)

/-- DPF8: the exact sum of four products and c, rounded once (R181). -/
def dotF8 (rm : RMode) (af8b bf8b : Bool) (a b c : Word) : Nat × FFlags :=
  let el (w : Bool) (x : Word) (i : Nat) : FVal := decodeFloat (if w then .f8b else .f8a) (elemOf x 8 i)
  let xs := (upTo 0 4).map fun i => (el af8b a i, el bf8b b i)
  let cv := f32Val c
  let ins := xs.map (·.1) ++ xs.map (·.2) ++ [cv]
  let bad := xs.any fun p => !p.1.isNan && !p.2.isNan && (mulVal p.1 p.2).isNone
  let prods := xs.filterMap fun p => if p.1.isNan || p.2.isNan then none else mulVal p.1 p.2
  let terms := prods ++ (if cv.isNan then [] else [cv])
  let clash := terms.contains (.inf false) && terms.contains (.inf true)
  let fl := snanFlags ins ||| flagIf (bad || clash) fNV
  if bad || clash || ins.any FVal.isNan then nanRes .f32 fl else finish .f32 rm (sumVals rm terms)

/-- The FSTAT flags and results of CVT (R183): the destination register and, with EF, the new residue. -/
def convert (rm : RMode) (src dst : NumFmt) (sat ef : Bool) (si di : Nat) (a d e : Word) : Word × Word × FFlags :=
  let x := elemOf a (fmtBits src) si
  let (v, e', fl) : Nat × Nat × FFlags :=
    if ef then narrowEf dst x e.toNat
    else
      let (v, fl) := encodeElem dst rm sat (decodeElem src x)
      (v, e.toNat, fl)
  (setElem d (fmtBits dst) di v, BitVec.ofNat 32 e', fl)

/-- FADD (R174). -/
def execFadd (g : Guard) (rm : RMode) (d a b : Reg) (s : State) : Out :=
  word (.fadd g rm d a b) s fun k t => s.floatReg k t d (fAdd .f32 rm (t.r a).toNat (t.r b).toNat)

/-- FADD with an immediate: RNE (R157, R174). -/
def execFaddI (g : Guard) (d a : Reg) (imm : Word) (s : State) : Out :=
  word (.faddI g d a imm) s fun k t => s.floatReg k t d (fAdd .f32 .rne (t.r a).toNat imm.toNat)

/-- FSUB (R174). -/
def execFsub (g : Guard) (rm : RMode) (d a b : Reg) (s : State) : Out :=
  word (.fsub g rm d a b) s fun k t => s.floatReg k t d (fSub .f32 rm (t.r a).toNat (t.r b).toNat)

/-- FSUB with an immediate: RNE (R157, R174). -/
def execFsubI (g : Guard) (d a : Reg) (imm : Word) (s : State) : Out :=
  word (.fsubI g d a imm) s fun k t => s.floatReg k t d (fSub .f32 .rne (t.r a).toNat imm.toNat)

/-- FMUL (R174). -/
def execFmul (g : Guard) (rm : RMode) (d a b : Reg) (s : State) : Out :=
  word (.fmul g rm d a b) s fun k t => s.floatReg k t d (fMul .f32 rm (t.r a).toNat (t.r b).toNat)

/-- FMUL with an immediate: RNE (R157, R174). -/
def execFmulI (g : Guard) (d a : Reg) (imm : Word) (s : State) : Out :=
  word (.fmulI g d a imm) s fun k t => s.floatReg k t d (fMul .f32 .rne (t.r a).toNat imm.toNat)

/-- FFMA (R174). -/
def execFfma (g : Guard) (rm : RMode) (d a b c : Reg) (s : State) : Out :=
  word (.ffma g rm d a b c) s fun k t => 
    s.floatReg k t d (fFma .f32 rm (t.r a).toNat (t.r b).toNat (t.r c).toNat)

/-- FMIN (R175). -/
def execFmin (g : Guard) (d a b : Reg) (s : State) : Out :=
  word (.fmin g d a b) s fun k t => s.floatReg k t d (fMinMax false (t.r a).toNat (t.r b).toNat)

/-- FMIN with an immediate (R175). -/
def execFminI (g : Guard) (d a : Reg) (imm : Word) (s : State) : Out :=
  word (.fminI g d a imm) s fun k t => s.floatReg k t d (fMinMax false (t.r a).toNat imm.toNat)

/-- FMAX (R175). -/
def execFmax (g : Guard) (d a b : Reg) (s : State) : Out :=
  word (.fmax g d a b) s fun k t => s.floatReg k t d (fMinMax true (t.r a).toNat (t.r b).toNat)

/-- FMAX with an immediate (R175). -/
def execFmaxI (g : Guard) (d a : Reg) (imm : Word) (s : State) : Out :=
  word (.fmaxI g d a imm) s fun k t => s.floatReg k t d (fMinMax true (t.r a).toNat imm.toNat)

/-- FSETP (R171). -/
def execFsetp (g : Guard) (cmp : Cmp) (comb : Comb) (pd : Pred) (a b : Reg) (pc : Pred) (s : State) : Out :=
  word (.fsetp g cmp comb pd a b pc) s fun k t => 
    let r := fCompare cmp (t.r a).toNat (t.r b).toNat
    s.floatDone k t r.2 fun t => t.setPred pd (combine comb r.1 (t.pred pc))

/-- FCLASS: raises nothing (R176). -/
def execFclass (g : Guard) (d a : Reg) (s : State) : Out :=
  word (.fclass g d a) s fun k t => (s.setReg k d (BitVec.ofNat 32 (fClass (t.r a).toNat))).retire k

/-- FRND (R174). -/
def execFrnd (g : Guard) (rm : RMode) (d a : Reg) (s : State) : Out :=
  word (.frnd g rm d a) s fun k t => s.floatReg k t d (fRound rm (t.r a).toNat)

/-- FDIV (R177, R178). -/
def execFdiv (g : Guard) (la : BitVec 4) (rm : RMode) (d a b : Reg) (s : State) : Out :=
  word (.fdiv g la rm d a b) s fun k t => 
    s.issueFloat (.fdiv g la rm d a b) k t la.toNat d (fDiv rm (t.r a).toNat (t.r b).toNat)

/-- RCP (R177, R178). -/
def execRcp (g : Guard) (la : BitVec 4) (rm : RMode) (d a : Reg) (s : State) : Out :=
  word (.rcp g la rm d a) s fun k t => s.issueFloat (.rcp g la rm d a) k t la.toNat d (fRcp rm (t.r a).toNat)

/-- RSQ (R177, R178). -/
def execRsq (g : Guard) (la : BitVec 4) (rm : RMode) (d a : Reg) (s : State) : Out :=
  word (.rsq g la rm d a) s fun k t => s.issueFloat (.rsq g la rm d a) k t la.toNat d (fRsq rm (t.r a).toNat)

/-- SQRT (R177, R178). -/
def execSqrt (g : Guard) (la : BitVec 4) (rm : RMode) (d a : Reg) (s : State) : Out :=
  word (.sqrt g la rm d a) s fun k t => s.issueFloat (.sqrt g la rm d a) k t la.toNat d (fSqrt rm (t.r a).toNat)

/-- EXP2 (R177, R178). -/
def execExp2 (g : Guard) (la : BitVec 4) (rm : RMode) (d a : Reg) (s : State) : Out :=
  word (.exp2 g la rm d a) s fun k t => s.issueFloat (.exp2 g la rm d a) k t la.toNat d (fExp2 rm (t.r a).toNat)

/-- LOG2 (R177, R178). -/
def execLog2 (g : Guard) (la : BitVec 4) (rm : RMode) (d a : Reg) (s : State) : Out :=
  word (.log2 g la rm d a) s fun k t => s.issueFloat (.log2 g la rm d a) k t la.toNat d (fLog2 rm (t.r a).toNat)

/-- SINT (R177, R178). -/
def execSint (g : Guard) (la : BitVec 4) (rm : RMode) (d a : Reg) (s : State) : Out :=
  word (.sint g la rm d a) s fun k t => s.issueFloat (.sint g la rm d a) k t la.toNat d (fSinT rm (t.r a).toNat)

/-- COST (R177, R178). -/
def execCost (g : Guard) (la : BitVec 4) (rm : RMode) (d a : Reg) (s : State) : Out :=
  word (.cost g la rm d a) s fun k t => s.issueFloat (.cost g la rm d a) k t la.toNat d (fCosT rm (t.r a).toNat)

/-- HADD2 (R179). -/
def execHadd2 (g : Guard) (rm : RMode) (bf : Bool) (d a b : Reg) (s : State) : Out :=
  word (.hadd2 g rm bf d a b) s fun k t => 
    s.floatReg k t d (packed fun i => fAdd (halfFmt bf) rm (elemOf (t.r a) 16 i) (elemOf (t.r b) 16 i))

/-- HMUL2 (R179). -/
def execHmul2 (g : Guard) (rm : RMode) (bf : Bool) (d a b : Reg) (s : State) : Out :=
  word (.hmul2 g rm bf d a b) s fun k t => 
    s.floatReg k t d (packed fun i => fMul (halfFmt bf) rm (elemOf (t.r a) 16 i) (elemOf (t.r b) 16 i))

/-- HFMA2 (R179). -/
def execHfma2 (g : Guard) (rm : RMode) (bf : Bool) (d a b c : Reg) (s : State) : Out :=
  word (.hfma2 g rm bf d a b c) s fun k t => 
    s.floatReg k t d (packed fun i =>
      fFma (halfFmt bf) rm (elemOf (t.r a) 16 i) (elemOf (t.r b) 16 i) (elemOf (t.r c) 16 i))

/-- DP4: raises no flag (R180). -/
def execDp4 (g : Guard) (ua ub sat : Bool) (d a b c : Reg) (s : State) : Out :=
  word (.dp4 g ua ub sat d a b c) s fun k t => 
    (s.setReg k d (dotResult sat (dotSum 4 ua ub (t.r a) (t.r b) (t.r c)))).retire k

/-- DP8: raises no flag (R180). -/
def execDp8 (g : Guard) (ua ub sat : Bool) (d a b c : Reg) (s : State) : Out :=
  word (.dp8 g ua ub sat d a b c) s fun k t => 
    (s.setReg k d (dotResult sat (dotSum 8 ua ub (t.r a) (t.r b) (t.r c)))).retire k

/-- DPF8 (R181). -/
def execDpf8 (g : Guard) (rm : RMode) (af8b bf8b : Bool) (d a b c : Reg) (s : State) : Out :=
  word (.dpf8 g rm af8b bf8b d a b c) s fun k t => 
    s.floatReg k t d (dotF8 rm af8b bf8b (t.r a) (t.r b) (t.r c))

/-- CVT and CVT.EF (R91, R182, R183). -/
def execCvt (g : Guard) (rm : RMode) (src dst : NumFmt) (sat ef : Bool) (si di : BitVec 3) (d a c : Reg) (s : State) : Out :=
  word (.cvt g rm src dst sat ef si di d a c) s fun k t => 
    let r := convert rm src dst sat ef si.toNat di.toNat (t.r a) (t.r d) (t.r c)
    s.floatDone k t r.2.2 fun t =>
      let t := t.setReg d.toNat r.1
      if ef then t.setReg c.toNat r.2.1 else t

/-- QNT's writes for one thread (R185): its element, the scale and its residue, or its own trap. -/
def State.qntWrite (s : State) (j : Nat) (d e : Reg) (ef : Bool) (scale : Int) (r : Nat × Nat × FFlags) : State :=
  s.modThread j fun t =>
    let v : Word := BitVec.ofNat 32 (r.1 + modPow scale 8 * 65536)
    let t := (t.orFlags r.2.2).setReg d.toNat v
    if ef then t.setReg e.toNat (BitVec.ofNat 32 r.2.1) else t

/-- QNT performed for every masked thread together (R184, R185): a thread whose flags include an enabled exception takes
its own trap, the others go on. -/
def State.qntPerform (s : State) (k : Nat) (fmt : QntFmt) (ef : Bool) (d a e : Reg) (ks : List Nat) : State :=
  let xs := ks.map fun j =>
    match s.thread? j with
    | some t => ((t.r a).toNat, if ef then (t.r e).toNat else 0)
    | none => (0, 0)
  let (scale, rs) := quantise fmt ef xs
  let traps (j : Nat) (fl : FFlags) : Option Cause := (s.thread? j).bind fun t => trapCause t.fctl fl
  let zs := ks.zip rs
  let good := zs.filter fun z => (traps z.1 z.2.2.2).isNone
  let s1 : State := good.foldl (fun (st : State) z => st.qntWrite z.1 d e ef scale z.2) s
  let s2 : State := (zs.filter fun z => z.1 != k).foldl (fun (st : State) z =>
    match traps z.1 z.2.2.2 with
    | some c => (st.modThread z.1 fun t => { t with arrival := none }).trap z.1 c
    | none => st.modThread z.1 fun t => { t.next with arrival := none, passed := true }) s1
  match zs.find? fun z => z.1 == k with
  | some z =>
    let s3 := s2.modThread k fun t => { t with arrival := none }
    (match traps k z.2.2.2 with
     | some c => s3.trap k c
     | none => s3.retire k)
  | none => s2

/-- QNT, a gang collective (R184, R185). -/
def execQnt (g : Guard) (fmt : QntFmt) (ef : Bool) (d a m e : Reg) (s : State) : Out :=
  word (.qnt g fmt ef d a m e) s fun k t => 
    s.arrive k t (t.r m) fun s ks => s.qntPerform k fmt ef d a e ks

end Sys2Proof.Machine
end

