-- ==== Sys2Proof/Machine/Context.lean ====
section
/-!
DEFINITION. The records of segments, contexts and overlays, the rows of the KV pool and their rotation
(spec/12_segments_linking_repair.md R271 to R281).
-/
namespace Sys2Proof.Machine

/-! ### Records -/

/-- The shape of rows: layers, heads, d / 16 and the format (R271, R273, R275). -/
structure KvShape where
  layers : Nat
  heads  : Nat
  hdim   : Nat
  f8     : Bool
  deriving DecidableEq, Repr

/-- d, the elements of a row (R271). -/
def KvShape.d (k : KvShape) : Nat := 16 * k.hdim
/-- RB, the row size (R271). -/
def KvShape.rb (k : KvShape) : Nat := if k.f8 then 32 * ceilDiv (k.d + 1) 32 else 2 * k.d
/-- A field of the shape is out of range (R273). -/
def KvShape.bad (k : KvShape) : Bool := k.layers == 0 || k.heads == 0 || k.hdim == 0 || decide (16 < k.hdim)

/-- The segment table's header (R273). -/
structure SegHdr where
  poolva : Nat
  pbsz   : Nat
  nseg   : Nat
  deriving DecidableEq, Repr

/-- The header in 64 bytes. -/
def SegHdr.read (bs : List Byte) : SegHdr :=
  let x := natOf bs
  { poolva := bits x 55 0, pbsz := bits x 60 56, nseg := bits x 87 64 }

/-- P, the pool block size (R272). -/
def SegHdr.p (h : SegHdr) : Nat := 2 ^ h.pbsz

/-- A segment descriptor (R273). -/
structure Seg where
  n      : Nat
  shape  : KvShape
  state  : Nat
  h      : Nat
  summed : Bool
  rmask  : DWord
  nblk   : Nat
  links  : Nat
  blist  : Nat
  deriving DecidableEq, Repr

/-- The descriptor in 64 bytes. -/
def Seg.read (bs : List Byte) : Seg :=
  let x := natOf bs
  { n := bits x 15 0, shape := { layers := bits x 31 16, heads := bits x 39 32, hdim := bits x 44 40, f8 := x.testBit 45 }
    state := bits x 47 46, h := bits x 54 48, summed := x.testBit 55, rmask := BitVec.ofNat 64 (bits x 127 64)
    nblk := bits x 159 128, links := bits x 191 160, blist := bits x 247 192 }

/-- The bytes of a descriptor. -/
def Seg.bytes (g : Seg) : List Byte :=
  bytesOf (g.n + g.shape.layers * 2 ^ 16 + g.shape.heads * 2 ^ 32 + g.shape.hdim * 2 ^ 40 + g.shape.f8.toNat * 2 ^ 45 +
    g.state * 2 ^ 46 + g.h * 2 ^ 48 + g.summed.toNat * 2 ^ 55 + g.rmask.toNat * 2 ^ 64 + g.nblk * 2 ^ 128 +
    g.links * 2 ^ 160 + g.blist * 2 ^ 192) 64

/-- nb, the token blocks of a segment (R274). -/
def Seg.nb (g : Seg) : Nat := ceilDiv g.n 32
/-- SUMOFF (R274). -/
def Seg.sumOff (g : Seg) : Nat := 64 * g.shape.rb * g.nb * g.shape.layers * g.shape.heads
/-- NBLK for a pool block size (R274). -/
def Seg.blocks (g : Seg) (p : Nat) : Nat := ceilDiv (g.sumOff + 8 * g.shape.d * g.nb * g.shape.layers * g.shape.heads) p
/-- The place of row k of a chunk in a byte space (R274, R276). -/
def rowOff (sh : KvShape) (b l h : Nat) (v : Bool) (k : Nat) : Nat :=
  32 * sh.rb * (((b * sh.layers + l) * sh.heads + h) * 2 + v.toNat) + sh.rb * k
/-- The place of a summary record (R274). -/
def Seg.sumAt (g : Seg) (b l h : Nat) : Nat := g.sumOff + 8 * g.shape.d * ((b * g.shape.layers + l) * g.shape.heads + h)
/-- The repair set as a mask over tokens 0 to 63 (R281). -/
def Seg.repairMask (g : Seg) : Nat :=
  ((upTo 0 64).filter fun j => decide (j < g.n) && (decide (j < g.h) || g.rmask.getLsbD j)).foldl (fun x j => x + 2 ^ j) 0

/-- A context descriptor (R275). -/
structure Ctx where
  va     : Nat
  slots  : Nat
  nord   : Nat
  rq     : Nat
  rgrain : Nat
  shape  : KvShape
  rentry : Nat
  rtab   : Nat
  tblist : Nat
  tailcap : Nat
  /-- a reserved bit is set -/
  resv   : Bool
  deriving DecidableEq, Repr

/-- The descriptor in 64 bytes. -/
def Ctx.read (va : Nat) (bs : List Byte) : Ctx :=
  let x := natOf bs
  { va := va, slots := bits x 7 0, nord := bits x 15 8, rq := bits x 23 16, rgrain := bits x 28 24
    shape := { layers := bits x 47 32, heads := bits x 55 48, hdim := bits x 60 56, f8 := x.testBit 61 }
    rentry := bits x 95 64, rtab := bits x 151 96, tblist := bits x 215 160, tailcap := bits x 255 224
    resv := bits x 31 29 != 0 || bits x 63 62 != 0 || bits x 159 152 != 0 || bits x 223 216 != 0 || bits x 511 256 != 0 }

/-- A malformed context: KV_CONTEXT (R225, R275). -/
def Ctx.malformed (c : Ctx) : Bool :=
  c.resv || c.shape.bad || c.rtab % 32 != 0 || c.tblist % 4 != 0 || decide (c.slots < c.nord)
/-- The address of link entry s (R275). -/
def Ctx.entryVa (c : Ctx) (s : Nat) : Nat := c.va + 320 + 32 * s
/-- The address of the tail entry (R275). -/
def Ctx.tailVa (c : Ctx) : Nat := c.va + 320 + 32 * c.slots
/-- The address of ORDER (R275). -/
def Ctx.orderVa (c : Ctx) : Nat := c.va + 64
/-- G, the pool blocks of a tail block (R276). -/
def Ctx.tailBlocks (c : Ctx) (p : Nat) : Nat := ceilDiv (64 * c.shape.rb * c.shape.layers * c.shape.heads) p

/-- A link entry (R275). -/
structure LinkE where
  seg   : Nat
  state : Nat
  len   : Nat
  base  : Nat
  ova   : Nat
  prc   : Nat
  /-- a reserved bit is set -/
  resv  : Bool := false
  deriving DecidableEq, Repr

/-- The entry in 32 bytes. -/
def LinkE.read (bs : List Byte) : LinkE :=
  let x := natOf bs
  { seg := bits x 23 0, state := bits x 25 24, len := bits x 47 32, base := bits x 95 64, ova := bits x 151 96
    prc := bits x 191 160
    resv := bits x 31 26 != 0 || bits x 63 48 != 0 || bits x 159 152 != 0 || bits x 255 192 != 0 }

/-- The bytes of an entry; its reserved bits are written as zero. -/
def LinkE.bytes (e : LinkE) : List Byte :=
  bytesOf (e.seg + e.state * 2 ^ 24 + e.len * 2 ^ 32 + e.base * 2 ^ 64 + e.ova * 2 ^ 96 + e.prc * 2 ^ 160) 32

/-- A tail entry (R275). -/
structure TailE where
  len  : Nat
  base : Nat
  used : Nat
  /-- a reserved bit is set -/
  resv : Bool := false
  deriving DecidableEq, Repr

/-- The entry in 32 bytes. -/
def TailE.read (bs : List Byte) : TailE :=
  let x := natOf bs
  { len := bits x 31 0, base := bits x 63 32, used := bits x 95 64, resv := bits x 255 96 != 0 }

/-- An overlay's header (R278). -/
structure Ovl where
  value : DWord
  ctx   : Nat
  slot  : Nat
  rcnt  : Nat
  noops : Nat
  epoch : Nat
  rmask : DWord
  deriving DecidableEq, Repr

/-- The header in 64 bytes. -/
def Ovl.read (bs : List Byte) : Ovl :=
  let x := natOf bs
  { value := BitVec.ofNat 64 x, ctx := bits x 183 128, slot := bits x 199 192, rcnt := bits x 206 200, noops := bits x 223 208
    epoch := bits x 255 224, rmask := BitVec.ofNat 64 (bits x 319 256) }

/-- The bytes of a header as LINK writes it: VECTOR 0 and EN 0 (R278, R286). -/
def Ovl.bytes (o : Ovl) : List Byte :=
  bytesOf (o.value.toNat + o.ctx * 2 ^ 128 + o.slot * 2 ^ 192 + o.rcnt * 2 ^ 200 + o.noops * 2 ^ 208 + o.epoch * 2 ^ 224 +
    o.rmask.toNat * 2 ^ 256) 64

/-- The mask words of a layer: READY, then PENDING (R278). -/
def ovlMaskVa (ova l : Nat) : Nat := ova + 64 + 16 * l
/-- The repair index of a token (R278). -/
def repairIndex (rmask : DWord) (j : Nat) : Nat := popCount rmask.toNat j
/-- The token of a repair index (R278). -/
def repairToken (rmask : DWord) (q : Nat) : Nat := (bitsSet rmask.toNat 64).getD q 64
/-- The address of a repaired row (R278). -/
def ovlRowVa (sh : KvShape) (ova rcnt l q h : Nat) (v : Bool) : Nat :=
  ova + alignUp (64 + 16 * sh.layers) 32 + sh.rb * (((l * rcnt + q) * sh.heads + h) * 2 + v.toNat)
/-- The size of an overlay (R278). -/
def ovlSize (sh : KvShape) (rcnt : Nat) : Nat := alignUp (64 + 16 * sh.layers) 32 + 2 * sh.rb * sh.layers * rcnt * sh.heads

/-! ### Reading and writing records as a command -/

/-- The segment table's header of the command's partition. -/
def State.segHdr (s : State) (c : Cmd) : Except AccFault (State × SegHdr) :=
  match s.cmdRead c (s.part c.vf).segtab.toNat 64 with
  | .error e => .error e
  | .ok (s, bs) => .ok (s, SegHdr.read bs)

/-- The address of a segment descriptor. -/
def State.segVa (s : State) (vf id : Nat) : Nat := (s.part vf).segtab.toNat + 64 * id

/-- A segment descriptor; none for an id that does not exist (R273). -/
def State.segOf (s : State) (c : Cmd) (hdr : SegHdr) (id : Nat) : Except AccFault (State × Option Seg) :=
  if id = 0 ∨ hdr.nseg ≤ id then .ok (s, none)
  else
    match s.cmdRead c (s.segVa c.vf id) 64 with
    | .error e => .error e
    | .ok (s, bs) => .ok (s, some (Seg.read bs))

/-- The cells of a device write to the segment table: not checked against W (R365). -/
def State.tableCells (s : State) (c : Cmd) (va : Nat) (bs : List Byte) : Except AccFault (List Host.Cell) :=
  match s.cmdAccess c va .read with
  | .error e => .error e
  | .ok l => .ok (l.cells va bs)

/-- The context descriptor at an address (R275). -/
def State.ctxOf (s : State) (c : Cmd) (va : Nat) : Except AccFault (State × Ctx) :=
  if va % 64 ≠ 0 then .error (.kvContext, va)
  else
    match s.cmdRead c va 64 with
    | .error e => .error e
    | .ok (s, bs) => .ok (s, Ctx.read va bs)

/-- A link entry of a context. -/
def State.linkOf (s : State) (c : Cmd) (x : Ctx) (slot : Nat) : Except AccFault (State × LinkE) :=
  match s.cmdRead c (x.entryVa slot) 32 with
  | .error e => .error e
  | .ok (s, bs) => .ok (s, LinkE.read bs)

/-- The tail entry of a context. -/
def State.tailOf (s : State) (c : Cmd) (x : Ctx) : Except AccFault (State × TailE) :=
  match s.cmdRead c x.tailVa 32 with
  | .error e => .error e
  | .ok (s, bs) => .ok (s, TailE.read bs)

/-- A link entry as the map of a KVG or a PSEL: one with a reserved bit set is malformed (R5, R225, R275). -/
def State.mapLink (s : State) (c : Cmd) (x : Ctx) (slot : Nat) : Except AccFault (State × LinkE) :=
  match s.linkOf c x slot with
  | .error e => .error e
  | .ok (s, le) => if le.resv then .error (.kvContext, x.entryVa slot) else .ok (s, le)

/-- The tail entry as the map of a KVG, a KVA or a PSEL: one with a reserved bit set is malformed (R5, R225, R275). -/
def State.mapTail (s : State) (c : Cmd) (x : Ctx) : Except AccFault (State × TailE) :=
  match s.tailOf c x with
  | .error e => .error e
  | .ok (s, te) => if te.resv then .error (.kvContext, x.tailVa) else .ok (s, te)

/-- An overlay's header. -/
def State.ovlOf (s : State) (c : Cmd) (ova : Nat) : Except AccFault (State × Ovl) :=
  match s.cmdRead c ova 64 with
  | .error e => .error e
  | .ok (s, bs) => .ok (s, Ovl.read bs)

/-- The address of a byte of a segment's or tail block's storage (R272): its list entry is read at `blist`. -/
def State.spaceVa (s : State) (c : Cmd) (hdr : SegHdr) (blist o : Nat) : Except AccFault (State × Nat) :=
  match s.cmdRead c (blist + 4 * (o / hdr.p)) 4 with
  | .error e => .error e
  | .ok (s, bs) => .ok (s, hdr.poolva + natOf bs * hdr.p + o % hdr.p)

/-- Read n bytes of a byte space, 32-byte word by word (R272). -/
def State.spaceRead (s : State) (c : Cmd) (hdr : SegHdr) (blist : Nat) : Nat → Nat → Except AccFault (State × List Byte)
  | _, 0 => .ok (s, [])
  | o, n + 1 =>
    match s.spaceVa c hdr blist o with
    | .error e => .error e
    | .ok (s, va) =>
      match s.cmdRead c va 32 with
      | .error e => .error e
      | .ok (s, bs) =>
        match s.spaceRead c hdr blist (o + 32) n with
        | .error e => .error e
        | .ok (s, rest) => .ok (s, bs ++ rest)

/-- The cells of a write of a byte space, 32-byte word by word. -/
def State.spaceCells (s : State) (c : Cmd) (hdr : SegHdr) (blist : Nat) : Nat → List (List Byte) →
    Except AccFault (State × List Host.Cell)
  | _, [] => .ok (s, [])
  | o, w :: ws =>
    match s.spaceVa c hdr blist o with
    | .error e => .error e
    | .ok (s, va) =>
      match s.cmdCells c va w with
      | .error e => .error e
      | .ok (s, cs) =>
        match s.spaceCells c hdr blist (o + 32) ws with
        | .error e => .error e
        | .ok (s, rest) => .ok (s, cs ++ rest)

/-- A list of bytes in 32-byte words. -/
def words32 : Nat → List Byte → List (List Byte)
  | 0, _ => []
  | n + 1, bs => bs.take 32 :: words32 n (bs.drop 32)

/-! ### Rotation (R279, R280) -/

/-- F32 RNE of sin(2π φ / 2^32). -/
def sinPhase (phi : Nat) : Nat :=
  let p := phi % 2 ^ 32
  if 2 * p % 2 ^ 32 = 0 then 0 else (sinTurns .rne false p 32).1
/-- F32 RNE of cos(2π φ / 2^32). -/
def cosPhase (phi : Nat) : Nat := sinPhase (phi + 2 ^ 30)

/-- An exact sum of two products, with one zero: the positive one. -/
def sumProducts (a b c d : FVal) : FVal :=
  match mulVal a b, mulVal c d with
  | some x, some y =>
    (match sumVals .rne [x, y] with
     | some (.fin s m e) => if m = 0 then .fin false 0 0 else .fin s m e
     | some v => v
     | none => .nan false)
  | _, _ => .nan false

/-- The rotated pair, exactly, or none when an input is NaN or infinite (R280). -/
def rotatePair (k0 k1 : FVal) (pos w : Nat) : Option (FVal × FVal) :=
  if k0.isNan || k0.isInf || k1.isNan || k1.isInf then none
  else
    let phi := pos * w % 2 ^ 32
    let c := decodeFloat .f32 (cosPhase phi)
    let s := decodeFloat .f32 (sinPhase phi)
    some (sumProducts k0 c k1.neg s, sumProducts k0 s k1 c)

/-- A K pair of a row, rotated and rounded to the row's format; `sc` is the row's scale (R280). -/
def rotateElems (f8 : Bool) (sc : Int) (x0 x1 : Nat) (pos w : Nat) : Nat × Nat :=
  let f : NumFmt := if f8 then .f8a else .bf16
  match rotatePair ((decodeFloat f x0).scale sc) ((decodeFloat f x1).scale sc) pos w with
  | none => (canonNaN f, canonNaN f)
  | some (r0, r1) => ((narrow f .rne f8 (r0.scale (-sc))).1, (narrow f .rne f8 (r1.scale (-sc))).1)

/-- The elements of a row as numbers. -/
def rowElems (sh : KvShape) (bs : List Byte) : List Nat :=
  (upTo 0 sh.d).map fun i => if sh.f8 then fieldAt bs i 1 else fieldAt bs (2 * i) 2

/-- A row's bytes from its elements and scale byte; the reserved bytes are zero (R271). -/
def rowBytes (sh : KvShape) (es : List Nat) (scale : Byte) : List Byte :=
  if sh.f8 then
    let bs := es.map (BitVec.ofNat 8) ++ [scale]
    bs ++ List.replicate (sh.rb - bs.length) 0
  else es.flatMap fun x => bytesOf x 2

/-- A row with its reserved bytes zero. -/
def cleanRow (sh : KvShape) (bs : List Byte) : List Byte := rowBytes sh (rowElems sh bs) (BitVec.ofNat 8 (fieldAt bs sh.d 1))

/-- Rows end to end with their reserved bytes zero (R271). -/
def cleanRows (sh : KvShape) : Nat → List Byte → List Byte
  | 0, _ => []
  | n + 1, bs => cleanRow sh (bs.take sh.rb) ++ cleanRows sh n (bs.drop sh.rb)

/-- Rotate a K row for a position (R280); the table is its header word list and frequencies. -/
def rotateRow (sh : KvShape) (split : Bool) (ws : List Word) (pos : Nat) (bs : List Byte) : List Byte :=
  let es := rowElems sh bs
  let half := sh.d / 2
  let sb : Byte := BitVec.ofNat 8 (fieldAt bs sh.d 1)
  let sc : Int := if sh.f8 then sb.toInt else 0
  let pairs := (upTo 0 half).map fun i =>
    let (a, b) := if split then (i, i + half) else (2 * i, 2 * i + 1)
    rotateElems sh.f8 sc (es.getD a 0) (es.getD b 0) pos (ws.getD i 0).toNat
  let out := if split then pairs.map (·.1) ++ pairs.map (·.2) else pairs.flatMap fun p => [p.1, p.2]
  rowBytes sh out sb

end Sys2Proof.Machine
end

