-- ==== Sys2Proof/Machine/Lanes.lean ====
section
/-!
DEFINITION. The lane collectives and the crew barrier (spec/09_isa_memory_lanes.md R209 to R218).
-/
namespace Sys2Proof.Machine

/-- A thread of the gang by its key. -/
def State.threadAt (s : State) (k : Nat) : Thread := (s.thread? k).getD
  { vf := 0, crew := 0, gang := 0, pc := 0, cb := 0, alloc := 0, regs := [], blocks := [], preds := 0, kcnt := [], fstat := 0
    fctl := 0, tr := TrapRegs.reset, phase := .active, ftime := 0, arrival := none, sig := [], held := [], outs := []
    wins := [], log := [], imps := [], storeq := [], seen := [], relNeed := [], inTask := false
    tpop := (0, 0), issued := 0, unret := [], orphan := false, pendCause := none, acqFault := false, fetchFault := none
    fetchDecl := none, privSince := 0, grainTrap := false, rsHold := false, passed := false }

/-- A value per masked lane: (lane, value). -/
def State.laneVals {α : Type} (s : State) (ks : List Nat) (f : Thread → α) : List (Nat × α) :=
  ks.map fun j => (laneInGang j, f (s.threadAt j))

/-- The value of a lane. -/
def laneVal {α : Type} (xs : List (Nat × α)) (l : Nat) (d : α) : α :=
  match xs with
  | [] => d
  | (k, v) :: r => if k = l then v else laneVal r l d

/-- A lane collective that raises nothing: every thread that took part receives its write, then all go on (R209). -/
def State.collect (s : State) (k : Nat) (ks : List Nat) (write : Nat → Thread → Thread) : State :=
  (ks.foldl (fun (st : State) j => st.modThread j fun t => write (laneInGang j) t) s).release k ks

/-- The source lane of SHFL for lane i, when it lies in 0 to 31 (R210). -/
def shflSource (mode : ShflMode) (i : Nat) (b : Word) : Option Nat :=
  match mode with
  | .idx => some (b.toNat % 32)
  | .up => if b.toNat ≤ i then some (i - b.toNat) else none
  | .down => if i + b.toNat ≤ 31 then some (i + b.toNat) else none
  | .xor => some (i ^^^ (b.toNat % 32))

/-- SHFL's value for a lane: the source lane's when it is masked, else its own (R210). -/
def shflValue (mode : ShflMode) (xs : List (Nat × DWord)) (i : Nat) (b : Word) (own : DWord) : DWord :=
  match shflSource mode i b with
  | some l => laneVal xs l own
  | none => own

/-- SHFL (R210). -/
def execShfl (g : Guard) (mode : ShflMode) (w64 : Bool) (d a b m : Reg) (s : State) : Out :=
  word (.shfl g mode w64 d a b m) s fun k t =>
    s.arrive k t (t.r m) fun s ks =>
      let src (t : Thread) : DWord := if w64 then t.pair a else (t.r a).setWidth 64
      let xs := s.laneVals ks src
      s.collect k ks fun l t =>
        let v := shflValue mode xs l (t.r b) (src t)
        if w64 then t.setPair d v else t.setReg d.toNat (loWord v)

/-- VOTE (R211). -/
def execVote (g : Guard) (mode : VoteMode) (d : Reg) (pa : Pred) (m : Reg) (s : State) : Out :=
  word (.vote g mode d pa m) s fun k t =>
    s.arrive k t (t.r m) fun s ks =>
      let xs := s.laneVals ks fun t => t.pred pa
      let ballot := xs.foldl (fun x (l, p) => if p then x ||| 2 ^ l else x) 0
      s.collect k ks fun _ t =>
        match mode with
        | .all => t.setPred (d.setWidth 3) (xs.all (·.2))
        | .any => t.setPred (d.setWidth 3) (xs.any (·.2))
        | .ballot => t.setReg d.toNat (BitVec.ofNat 32 ballot)

/-- The operation of SCAN and REDX (R212). -/
def laneOp (op : LaneOp) (rm : RMode) (x y : Nat) : Nat × FFlags :=
  match op with
  | .iadd => ((x + y) % 2 ^ 32, 0)
  | .imin => (pick (decide (signedOf 32 y < signedOf 32 x)) y x, 0)
  | .imax => (pick (decide (signedOf 32 x < signedOf 32 y)) y x, 0)
  | .umin => (min x y, 0)
  | .umax => (max x y, 0)
  | .and => (x &&& y, 0)
  | .or => (x ||| y, 0)
  | .xor => (x ^^^ y, 0)
  | .fadd => fAdd .f32 rm x y
  | .fmin => fMinMax false x y
  | .fmax => fMinMax true x y

/-- The identity of an operation (R212). -/
def laneIdentity : LaneOp → Nat
  | .iadd | .umax | .or | .xor => 0
  | .imin => 0x7FFFFFFF
  | .imax => 0x80000000
  | .umin | .and => 0xFFFFFFFF
  | .fadd => 0x80000000
  | .fmin => 0x7F800000
  | .fmax => 0xFF800000

/-- SCAN over lanes in increasing order: each lane's value and the flags of the steps up to the one that produced it
(R212, R214). A value that no step has combined is copied as it stands, a NaN with its payload and with no NV, as R212's pseudocode
reads; R79 says that no NaN is passed through (the model's choice, notes/assumptions/48.md). -/
def scanLanes (op : LaneOp) (rm : RMode) (excl : Bool) : Option Nat → FFlags → List (Nat × Nat) → List (Nat × Nat × FFlags)
  | _, _, [] => []
  | acc, fl, (l, x) :: xs =>
    let (next, f) : Nat × FFlags :=
      match acc with
      | none => (x, 0)
      | some a => laneOp op rm a x
    let res := if excl then (l, acc.getD (laneIdentity op), fl) else (l, next, fl ||| f)
    res :: scanLanes op rm excl (some next) (fl ||| f) xs

/-- A node of REDX's tree from two nodes (R213). One that has a single value below it is that value as it stands (the model's choice
for a NaN, notes/assumptions/48.md). -/
def joinNodes (op : LaneOp) (rm : RMode) (a b : Option (Nat × FFlags)) : Option (Nat × FFlags) :=
  match a, b with
  | some (x, f), some (y, h) =>
    let (z, e) := laneOp op rm x y
    some (z, f ||| h ||| e)
  | some x, none => some x
  | none, y => y

/-- REDX's tree over lanes [lo, lo + 2^k): the node at level k (R213). -/
def redTree (op : LaneOp) (rm : RMode) (leaf : Nat → Option Nat) : Nat → Nat → Option (Nat × FFlags)
  | 0, lo => (leaf lo).map fun x => (x, 0)
  | k + 1, lo => joinNodes op rm (redTree op rm leaf k lo) (redTree op rm leaf k (lo + 2 ^ k))

/-- A collective whose results raise flags: each thread decides its own trap (R214). -/
def State.collectFlags (s : State) (k : Nat) (ks : List Nat) (d : Reg) (res : Nat → Nat × FFlags) : State :=
  let cause (j : Nat) : Option Cause := trapCause (s.threadAt j).fctl (res (laneInGang j)).2
  let s : State := (ks.filter fun j => (cause j).isNone).foldl (fun (st : State) j =>
    st.modThread j fun t =>
      (t.orFlags (res (laneInGang j)).2).setReg d.toNat (BitVec.ofNat 32 (res (laneInGang j)).1)) s
  let s : State := (ks.filter fun j => j != k).foldl (fun (st : State) j =>
    match cause j with
    | some c => (st.modThread j fun t => { t with arrival := none }).trap j c
    | none => st.modThread j fun t => { t.next with arrival := none, passed := true }) s
  let s := s.modThread k fun t => { t with arrival := none }
  match cause k with
  | some c => s.trap k c
  | none => s.retire k

/-- SCAN (R212, R214). -/
def execScan (g : Guard) (rm : RMode) (op : LaneOp) (excl : Bool) (d a m : Reg) (s : State) : Out :=
  word (.scan g rm op excl d a m) s fun k t =>
    s.arrive k t (t.r m) fun s ks =>
      let rs := scanLanes op rm excl none 0 (s.laneVals ks fun t => (t.r a).toNat)
      s.collectFlags k ks d fun l => laneVal rs l (0, 0)

/-- REDX (R213, R214). -/
def execRedx (g : Guard) (rm : RMode) (op : LaneOp) (d a m : Reg) (s : State) : Out :=
  word (.redx g rm op d a m) s fun k t =>
    s.arrive k t (t.r m) fun s ks =>
      let xs := s.laneVals ks fun t => some (t.r a).toNat
      let r := (redTree op rm (fun l => laneVal xs l none) 5 0).getD (0, 0)
      s.collectFlags k ks d fun _ => r

/-- MATCH (R215). -/
def execMatchx (g : Guard) (w64 : Bool) (d a m : Reg) (s : State) : Out :=
  word (.matchx g w64 d a m) s fun k t =>
    s.arrive k t (t.r m) fun s ks =>
      let src (t : Thread) : DWord := if w64 then t.pair a else (t.r a).setWidth 64
      let xs := s.laneVals ks src
      s.collect k ks fun _ t =>
        t.setReg d.toNat (BitVec.ofNat 32 (xs.foldl (fun x (l, v) => if v == src t then x ||| 2 ^ l else x) 0))

/-- ELECT (R216). -/
def execElect (g : Guard) (pd : Pred) (m : Reg) (s : State) : Out :=
  word (.elect g pd m) s fun k t =>
    s.arrive k t (t.r m) fun s ks =>
      let low := (ks.map laneInGang).foldl (fun x l => min x l) 32
      s.collect k ks fun l t => t.setPred pd (l == low)

/-! ### The crew barrier (R217, R218) -/

/-- CBAR.ARM (R217). -/
def execCbarArm (g : Guard) (c : Conv) (a b : Reg) (s : State) : Out :=
  word (.cbarArm g c a b) s fun k t =>
    let ck := t.crewKey k
    let members := t.r a
    let expect := (t.r b).toNat
    match s.crew? ck with
    | none => s.trap k .convMismatch
    | some cr =>
      let r := cr.conv c.toNat
      if r.st = .armed ∧ r.count ≠ 0 then s.trap k .convMismatch
      else if members = 0 ∨ 2 ^ cr.ngang ≤ members.toNat ∨ expect = 0 ∨ gangSize (coreOf k) * popCount members.toNat 32 < expect then
        s.trap k .convMismatch
      else
        (s.modCrew ck fun cr => cr.setConv c.toNat
          { r with st := .armed, members := members, expect := expect, count := 0, op := none, rel := [] }).retire k

/-- The word at a PC of a thread is a CBAR of a convergence register. -/
def State.barAt (s : State) (k : Nat) (t : Thread) (pc : DWord) (c : Conv) : Bool :=
  match s.codeWord t.vf (coreOf k) pc with
  | .ok (w, _) => (match decode w with | .instr (.cbar _ _ d) => d == c | _ => false)
  | .error _ => false

/-- A signer goes on past the barrier (R218): where it waits on CONV, or stands at its CBAR again; one that has taken a trap meanwhile
goes on when its handler returns to the CBAR. -/
def State.passBarrier (s : State) (k : Nat) (c : Conv) (t : Thread) : Thread :=
  match t.phase with
  | .parked (.conv d) _ => if d = c then t.next else t
  | _ =>
    if s.barAt k t t.pc c then t.next
    else if t.tr.sstat.getLsbD 2 && s.barAt k t t.tr.npc c then { t with tr := { t.tr with npc := t.tr.npc + 8 } }
    else t

/-- The barrier's issue: every signer's released set becomes visible at the scope, then all go on at the next word: the
parked signers' waits are over, the last one retires (R218). -/
def State.barrierIssue (s : State) (k : Nat) (c : Conv) (signers : List Nat) (rel : List Nat) (m : Nat) : State :=
  let s := signers.foldl (fun (st : State) j => ((st.drainAll j).showThread j m)) s
  let s := s.showIds rel m
  let s : State := (signers.filter fun j => j != k).foldl (fun (st : State) j => st.modThread j (st.passBarrier j c)) s
  s.retire k

/-- CBAR (R218). -/
def execCbar (g : Guard) (sc : Scope) (c : Conv) (s : State) : Out :=
  word (.cbar g sc c) s fun k t =>
    let ck := t.crewKey k
    match s.convCheck k t c with
    | some s' => s'
    | none =>
      match s.crew? ck with
      | none => s.trap k .convNotArmed
      | some cr =>
        let op := opRecord (.cbar g sc c) 0 0 (c.setWidth 32)
        if (cr.conv c.toNat).mismatch op then s.trap k .convMismatch
        else
          let signers := k :: ((s.crewThreads ck).filter fun x =>
            x.2.sig.any fun m => m.1 == c).map (·.1)
          let rel := t.seen ++ t.relNeed.map (·.1) ++ (cr.conv c.toNat).rel
          match s.addSignature k t c op with
          | (s, true) => s.barrierIssue k c signers rel (scopeMask sc (coreOf k))
          | (s, false) =>
            (s.modCrew ck fun cr => cr.setConv c.toNat { cr.conv c.toNat with rel := rel }).park k (.conv c)

end Sys2Proof.Machine
end

