-- ==== Sys2Proof/Machine/Gather.lean ====
section
/-!
DEFINITION. KV gather and KV append (spec/10_isa_copy_engines.md R236 to R240), and the allocation of pool blocks (R366).
-/
namespace Sys2Proof.Machine

/-! ### KVG: issue (R236, R237) -/

/-- A precise cause of a KVG: every masked thread takes it at the KVG (R236). -/
def State.gatherTrap (s : State) (ks : List Nat) (e : Cause) (va : DWord) : State :=
  ks.foldl (fun (st : State) j => (st.modThread j fun t => { t with arrival := none }).trap j e va) s

/-- An imprecise cause at a KVG's issue: the lowest masked lane takes it, every masked lane's gd is 0xFFFF_FFFF, and all go
on (R236, R339). -/
def State.gatherDrop (s : State) (k : Nat) (ks : List Nat) (d : Reg) (e : Cause) (va : DWord) : State :=
  let s := match ks with
    | [] => s
    | l :: _ => s.modThread l fun t => t.addImp e t.pc t.cb va (s.wordNo t)
  s.collect k ks fun _ t => t.setReg d.toNat 0xFFFFFFFF

/-- The other lanes of a KVG whose entry is declined go on with gd = 0xFFFF_FFFF (R236, R339); thread k, in the state t, holds the
entry. -/
def State.dropGather (s : State) (k : Nat) (t : Thread) (e : LogEntry) : State :=
  match decode e.word, e.cmd with
  | .instr (.kvg _ _ _ _ _ _ d _ _ _), none =>
    let ks := ((s.gangThreads k t).filter fun x => x.1 != k && x.2.isParked && x.2.arrivedAt e.pc).map (·.1)
    ks.foldl (fun (st : State) j =>
      st.modThread j fun t => { (t.setReg d.toNat 0xFFFFFFFF).next with arrival := none, passed := true }) s
  | _, _ => s

/-- With no fault queue a KVG's entry is declined as it is logged (R367). -/
def State.dropDeclined (s : State) (k : Nat) : State :=
  match s.thread? k with
  | none => s
  | some t =>
    match t.log.getLast? with
    | some e => if e.verdict = 2 then s.dropGather k t e else s
    | none => s

/-- A recoverable cause at a KVG's issue is logged in the lowest masked lane, which goes on to the next point that R46 names
(R236, R339); the others stay parked on ARRIVE. -/
def State.gatherLog (s : State) (i : Instr) (k : Nat) (ks : List Nat) (mask : Word) (e : Cause) (va : DWord) : State :=
  let word := (encode i).getD 0
  match ks with
  | [] => s
  | l :: _ =>
    if l = k then
      ((s.modThread k fun t => { t with arrival := none }).logFault k word (infoOf i).reads (infoOf i).writes e va .goesOn).dropDeclined k
    else
      let t := s.threadAt l
      match s.fileFault t.vf e va (faultStamp l false) with
      | (s, none) => s.stall
      | (s, some id) =>
        let entry : LogEntry :=
          { word := word, pc := t.pc, cb := t.cb, srcs := t.capture (infoOf i).reads, dests := (infoOf i).writes, cause := e
            va := va, fid := id, verdict := if (s.part t.vf).fqOn then 0 else 2, cmd := none, at_ := t.issued + 1, commit := false
            met := s.now, bundle := s.wordBundle t }
        ((s.modThread l fun t => { t.skip with log := t.log ++ [entry], arrival := none, passed := true }).park k
          (.arrive mask)).dropDeclined l

/-- A fault at a KVG's issue after the precise checks. -/
def State.gatherFault (s : State) (i : Instr) (k : Nat) (ks : List Nat) (mask : Word) (d : Reg) (e : AccFault) : State :=
  if e.1.recoverable then s.gatherLog i k ks mask e.1 (BitVec.ofNat 64 e.2)
  else s.gatherDrop k ks d e.1 (BitVec.ofNat 64 e.2)

/-- A lane whose rows are all zero. -/
def KvEntry.zero (lane : Nat) : KvEntry :=
  { lane := lane, tail := false, slot := 0, tb := 0, len := 0, base := 0, blist := 0, seg := 0, ova := 0, rmask := 0, rcnt := 0
    dead := none }

/-- The classification of a handle (R237): the entry, or none for an error. -/
def State.classify (s : State) (c : Cmd) (x : Ctx) (hdr : SegHdr) (layer head lane : Nat) (h : Word) :
    Except AccFault (State × Option KvEntry) :=
  let e := h.toNat / 2 ^ 24
  let b := h.toNat % 2 ^ 24
  if h = 0xFFFFFFFF then .ok (s, some (KvEntry.zero lane))
  else if e < x.slots then
    match s.mapLink c x e with
    | .error er => .error er
    | .ok (s, le) =>
      if le.state ≠ 1 ∨ ceilDiv le.len 32 ≤ b then .ok (s, none)
      else
        match s.segOf c hdr le.seg with
        | .error er => .error er
        | .ok (_, none) => .error (.kvContext, x.entryVa e)
        | .ok (s, some g) =>
          if g.shape.layers ≤ layer ∨ g.shape.heads ≤ head then .ok (s, none)
          else
            match s.ovlOf c le.ova with
            | .error er => .error er
            | .ok (s, o) =>
              .ok (s, some { lane := lane, tail := false, slot := e, tb := b, len := le.len, base := le.base, blist := g.blist
                             seg := le.seg, ova := le.ova, rmask := o.rmask, rcnt := o.rcnt, dead := none })
  else if e = x.slots then
    match s.mapTail c x with
    | .error er => .error er
    | .ok (s, te) =>
      if ceilDiv te.len 32 ≤ b ∨ x.shape.layers ≤ layer ∨ x.shape.heads ≤ head then .ok (s, none)
      else
        .ok (s, some { KvEntry.zero lane with
          tail := true, tb := b, len := te.len, base := te.base, blist := x.tblist + 4 * x.tailBlocks hdr.p * b })
  else .ok (s, none)

/-- Classify every handle: the entries, and the error mask (R237). -/
def State.classifyAll (s : State) (c : Cmd) (x : Ctx) (hdr : SegHdr) (layer head : Nat) (hs : List (Nat × Word)) :
    Except AccFault (State × List KvEntry × Nat) :=
  foldE (fun (a : State × List KvEntry × Nat) (h : Nat × Word) =>
    match a.1.classify c x hdr layer head h.1 h.2 with
    | .error e => .error e
    | .ok (s, some e) => .ok (s, a.2.1 ++ [e], a.2.2)
    | .ok (s, none) => .ok (s, a.2.1 ++ [KvEntry.zero h.1], a.2.2 + 2 ^ h.1)) hs (s, [], 0)

/-- The rotation table of a context (R279), or KV_CONTEXT. -/
def State.rotTable (s : State) (c : Cmd) (x : Ctx) : Except AccFault (State × List Word) :=
  match s.cmdRead c x.rtab (32 + 2 * x.shape.d) with
  | .error e => .error e
  | .ok (s, bs) =>
    let h := natOf (bs.take 32)
    if bits h 7 1 != 0 || bits h 255 16 != 0 || bits h 15 8 != x.shape.d / 2 then .error (.kvContext, x.rtab)
    else .ok (s, wordsOf (bs.take 4) ++ wordsOf (bs.drop 32))

/-- The fetch of a KVG (R237): what the command keeps. -/
def State.gatherFetch (s : State) (c : Cmd) (x : Ctx) (hs : List (Nat × Word)) : Except AccFault (State × Cmd) :=
  let layer := (c.op 2).toNat % 65536
  let head := (c.op 2).toNat / 65536
  match s.rotTable c x with
  | .error e => .error e
  | .ok (s, ws) =>
    match s.cmdRead c (s.part c.vf).segtab.toNat 64 with
    | .error e => .error e
    | .ok (s, hb) =>
      match s.classifyAll c x (SegHdr.read hb) layer head hs with
      | .error e => .error e
      | .ok (s, kv, errs) => .ok (s, { c with recd := c.recd ++ hb, kv := kv, errs := errs, rtab := ws })

/-- The status sector's place relative to W (R236). -/
def gatherSize (sh : KvShape) : Nat := 1024 * sh.rb

/-- A slot or the status sector lies outside the task's regions (R236). -/
def State.gatherOutside (s : State) (k : Nat) (t : Thread) (cr : Crew) (sh : KvShape) (w : Nat) : Bool :=
  ((upTo 0 32).any fun l => !s.ownRegion k t cr (w + 32 * sh.rb * l) (32 * sh.rb)) || !s.ownRegion k t cr (w + gatherSize sh) 32

/-- Tokens that a KVA appends. -/
def Cmd.kvaTokens (c : Cmd) : Nat :=
  match c.i with
  | .kva _ _ n _ _ _ _ => n.toNat + 1
  | _ => 0

/-- A KVA on a context that has begun and not yet ended: a LINK, an UNLINK, and the fetch of a KVG wait for it (R277). -/
def State.kvaRuns (s : State) (vf ctx : Nat) : Bool :=
  s.cmds.any fun c => c.vf == vf && decide (c.beat < c.kvaTokens) && decide (0 < c.beat) && (c.op2 0).toNat == ctx

/-- The handles of a KVG by lane; a lane without one skips (R236, R237). -/
def handleWords (hs : List (Nat × Word)) : List Word :=
  (upTo 0 32).map fun l => match hs.find? fun h => h.1 == l with | some h => h.2 | none => 0xFFFFFFFF

/-- A KVG whose masked threads have all arrived (R236, R237). It keeps the parameters, then the handles. -/
def State.gather (s : State) (i : Instr) (k : Nat) (slack : Nat) (trapE : Bool) (d a p : Reg) (mask : Word)
    (ks : List Nat) : State :=
  let low := ks.headD k
  let t := s.threadAt low
  let w := t.reg (p.toNat + 3)
  let ck := t.crewKey k
  let hs := ks.map fun j => (laneInGang j, (s.threadAt j).r a)
  let c := s.newCmd i low t (.sluice (coreOf k)) slack (t.rs p 4 ++ handleWords hs)
  match s.crew? ck with
  | none => s.gatherTrap ks .scratchRange (w.setWidth 64)
  | some cr =>
    if w.toNat % 2048 ≠ 0 then s.gatherTrap ks .misaligned (w.setWidth 64)
    else if (ks.any fun j => !(s.threadAt j).storeq.isEmpty) || s.kvaRuns t.vf (c.op2 0).toNat then s.stall
    else
      match (ks.foldl (fun (st : State) j => st.forUnit j c) s).ctxOf c (c.op2 0).toNat with
      | .error e => s.gatherFault i k ks mask d e
      | .ok (s1, x) =>
        let sh := x.shape
        if x.malformed then s.gatherFault i k ks mask d (.kvContext, x.va)
        else if !cr.inAlloc w.toNat (gatherSize sh + 32) then s.gatherTrap ks .scratchRange (w.setWidth 64)
        else if t.inTask && s.gatherOutside low t cr sh w.toNat then s.gatherTrap ks .taskIrrevocable 0
        else if s.fenced.contains c.unit.code then s.gatherFault i k ks mask d (.engineFenced, 0)
        else
          match s1.cmdRead c x.va 64 with
          | .error e => s.gatherFault i k ks mask d e
          | .ok (s1, xb) =>
            match s1.gatherFetch { c with recd := xb } x hs with
            | .error e => s.gatherFault i k ks mask d e
            | .ok (s2, c) =>
              if t.inTask && s.overRead s2 ck then s.holdThread k
              else if trapE && c.errs != 0 then s.gatherFault i k ks mask d (.kvRange, 0)
              else if s.cmdWaits t c.unit then s.stall
              else
                let dst (off n : Nat) : List (Nat × Bool) :=
                  (sectorRange (crewAddr (coreOf k) cr (w.toNat + off)) n).map fun q => (q, true)
                let c := { c with want := (c.kv.flatMap fun e => dst (32 * sh.rb * e.lane) (32 * sh.rb)) ++ dst (gatherSize sh) 32 }
                (s2.acceptCmd low c).collect k ks fun _ t => t.setReg d.toNat (BitVec.ofNat 32 c.errs)

/-- KVG (R236). -/
def execKvg (g : Guard) (slack : BitVec 4) (v stale trapE spread : Bool) (d a m p : Reg) (s : State) : Out :=
  let i : Instr := .kvg g slack v stale trapE spread d a m p
  word i s fun k t => s.arrive k t (t.r m) fun s ks => s.gather i k slack.toNat trapE d a p (t.r m) ks

/-! ### KVG: rows (R238) -/

/-- The modes of a KVG word: V rows, STALE, SPREAD. -/
def Cmd.kvgMode (c : Cmd) : Bool × Bool × Bool :=
  match c.i with
  | .kvg _ _ v stale _ spread _ _ _ _ => (v, stale, spread)
  | _ => (false, false, false)

/-- The context a command keeps. -/
def Cmd.ctx (c : Cmd) : Ctx := Ctx.read (c.op2 0).toNat (c.recd.take 64)
/-- The segment table header a command keeps. -/
def Cmd.segHdr (c : Cmd) : SegHdr := SegHdr.read (c.recd.drop 64)

/-- Where a row comes from (R238). -/
inductive RowFrom where
  | zero
  | space
  | spaceStale
  | spaceDead
  | overlay
  | wait
  deriving DecidableEq, Repr

/-- Resolve row k of an entry (R237, R238). -/
def State.rowFrom (s : State) (c : Cmd) (e : KvEntry) (k : Nat) : Except AccFault (State × RowFrom) :=
  let (_, stale, _) := c.kvgMode
  let j := 32 * e.tb + k
  if e.len ≤ j then .ok (s, .zero)
  else if e.tail || decide (64 ≤ j) || !e.rmask.getLsbD j then .ok (s, .space)
  else
    match e.dead with
    | some r => .ok (s, if r.getLsbD j then .overlay else if stale then .spaceStale else .spaceDead)
    | none =>
      match s.cmdRead c (ovlMaskVa e.ova ((c.op 2).toNat % 65536)) 8 with
      | .error er => .error er
      | .ok (s, bs) => .ok (s, if (natOf bs).testBit j then .overlay else if stale then .spaceStale else .wait)

/-- The bytes of a row before rotation. -/
def State.rowRaw (s : State) (c : Cmd) (e : KvEntry) (k : Nat) (src : RowFrom) : Except AccFault (State × List Byte) :=
  let (v, _, _) := c.kvgMode
  let sh := c.ctx.shape
  let layer := (c.op 2).toNat % 65536
  let head := (c.op 2).toNat / 65536
  let j := 32 * e.tb + k
  match src with
  | .overlay => s.cmdRead c (ovlRowVa sh e.ova e.rcnt layer (repairIndex e.rmask j) head v) sh.rb
  | _ => s.spaceRead c c.segHdr e.blist (rowOff sh (if e.tail then 0 else e.tb) layer head v k) (sh.rb / 32)

/-- The bytes of a row as the gather writes them (R238, R280). -/
def State.rowValue (s : State) (c : Cmd) (e : KvEntry) (k : Nat) (src : RowFrom) : Except AccFault (State × List Byte) :=
  let (v, _, _) := c.kvgMode
  let sh := c.ctx.shape
  if src = .zero then .ok (s, List.replicate sh.rb 0)
  else
    match s.rowRaw c e k src with
    | .error er => .error er
    | .ok (s, bs) =>
      if v then .ok (s, cleanRow sh bs)
      else .ok (s, rotateRow sh ((c.rtab.headD 0).getLsbD 0) (c.rtab.drop 1) ((e.base + 32 * e.tb + k) % 2 ^ 32) bs)

/-- The map addresses of a row's 32-byte words (R236). -/
def State.rowPlace (s : State) (c : Cmd) (e : KvEntry) (k : Nat) : List Nat :=
  let (_, _, spread) := c.kvgMode
  let rb := c.ctx.shape.rb
  let nw := rb / 32
  let slot := s.cmdScr c ((c.op 3).toNat + 32 * rb * e.lane)
  (upTo 0 nw).map fun w => slot + k * rb + 32 * (if spread then (w + k) % nw else w)

/-- Write a resolved row and note STALE or DEADREAD (R238). -/
def State.fillRow (s : State) (c : Cmd) (e : KvEntry) (k : Nat) (src : RowFrom) : Except AccFault State :=
  match s.rowValue c e k src with
  | .error er => .error er
  | .ok (s, bs) =>
    let as := s.rowPlace c e k
    let s := (s.writeGranules as bs).finishSectors c.id (as.map (· / 32))
    .ok (s.modCmd c.id fun c => { c with
      stale := if src = .spaceStale then c.stale ||| 2 ^ e.lane else c.stale
      dead := if src = .spaceDead then c.dead ||| 2 ^ e.lane else c.dead })

/-- The beats of 256 bytes of a KVG: its slots lie end to end, a lane after a lane (R221, R236). -/
def Cmd.kvgBeats (c : Cmd) : Nat := c.ctx.shape.rb / 8 * c.kv.length

/-- The rows whose last byte lies in beat b of a slot. -/
def rowsOfBeat (rb b : Nat) : List Nat :=
  (upTo 0 32).filter fun k => decide (256 * b < (k + 1) * rb) && decide ((k + 1) * rb ≤ 256 * (b + 1))

/-- A row of a KVG: a PENDING row waits; one that is READY already is not written again (R238). -/
def State.kvgRow (s : State) (c : Cmd) (n k : Nat) : Except AccFault State :=
  let e := c.kv.getD n (KvEntry.zero 0)
  if !((s.rowPlace c e k).any fun a => c.got.any fun g => g.1 == a / 32) then .ok s
  else
    match s.rowFrom c e k with
    | .error er => .error er
    | .ok (s, .wait) => .ok (s.modCmd c.id fun c => { c with rows := c.rows ++ [(n, k)] })
    | .ok (s, src) => s.fillRow c e k src

/-- A beat of a KVG: the rows that it completes are resolved and written whole (R221, R238). -/
def State.kvgBeat (s : State) (c : Cmd) : Except AccFault State :=
  let per := c.ctx.shape.rb / 8
  match foldE (fun (st : State) k => st.kvgRow c (c.beat / per) k) (rowsOfBeat c.ctx.shape.rb (c.beat % per)) s with
  | .error er => .error er
  | .ok s => .ok (s.modCmd c.id fun c => { c with beat := c.beat + 1 })

/-- Fill the first waiting row that is no longer PENDING (R238); none when every row still waits. -/
def State.kvgFill (s : State) (c : Cmd) : List (Nat × Nat) → Option (Except AccFault State)
  | [] => none
  | (n, k) :: rows =>
    let e := c.kv.getD n (KvEntry.zero 0)
    match s.rowFrom c e k with
    | .error er => some (.error er)
    | .ok (_, .wait) => s.kvgFill c rows
    | .ok (s, src) =>
      some (match s.fillRow c e k src with
        | .error er => .error er
        | .ok s => .ok (s.modCmd c.id fun c => { c with rows := c.rows.filter fun r => r != (n, k) }))

/-- The status sector (R238): written last. -/
def State.kvgStatus (s : State) (c : Cmd) : State :=
  let a := s.cmdScr c ((c.op 3).toNat + gatherSize c.ctx.shape)
  s.writeScr a (bytesOf (c.stale + c.dead * 2 ^ 32 + c.errs * 2 ^ 64) 32)

/-! ### Pool blocks (R366) -/

/-- The free blocks of the pool, lowest first. -/
def State.freePool (s : State) : List Nat := (upTo 0 s.poolCount).filter fun i => (s.poolTag i).owner == 0

/-- Allocate g blocks for a partition as one step, or QUOTA (R366). -/
def State.allocPool (s : State) (vf g : Nat) : Option (State × List Nat) :=
  let fr := s.freePool
  if (s.part vf).quota < s.poolUsed vf + g ∨ fr.length < g then none
  else
    let bs := fr.take g
    some ({ s with pool := bs.foldl (fun p i => NMap.set p i { owner := vf + 1, sealed := false }) s.pool }, bs)

/-- The function number of the PF in the list of messages to the host. -/
def pfFunction : Nat := 16

/-- The device address of pool block i (R366). -/
def State.blockKey (s : State) (i : Nat) : Nat := s.poolBase + i * s.poolBlock

/-- Zero a pool block (R283). -/
def State.zeroBlock (s : State) (i : Nat) : State := s.devStore (s.blockKey i) (List.replicate s.poolBlock 0)

/-- The PF's quota vector is sent to the host (R366; notes/assumptions/6.md). -/
def State.quotaVector (s : State) : State := { s with host := { s.host with msix := (pfFunction, 0) :: s.host.msix } }

/-! ### KVA (R239, R240) -/

/-- A destination of a KVA that lies in sealed memory as the records now stand (R114): its address. -/
def State.kvaSealed (s : State) (c : Cmd) : Option Nat :=
  let x := c.ctx
  match s.segHdr c, s.tailOf c x with
  | .ok (_, hdr), .ok (_, te) =>
    let g := x.tailBlocks hdr.p
    let token (n : Nat) : List Nat :=
      let pos := te.len + n
      if te.used ≤ pos / 32 then [x.tblist + 4 * g * (pos / 32)]
      else
        (upTo 0 (2 * x.shape.layers * x.shape.heads)).flatMap fun r =>
          (upTo 0 (x.shape.rb / 32)).filterMap fun w =>
            let o := rowOff x.shape 0 (r / 2 / x.shape.heads) (r / 2 % x.shape.heads) (r % 2 == 1) (pos % 32) + 32 * w
            match s.spaceVa c hdr (x.tblist + 4 * g * (pos / 32)) o with
            | .ok (_, va) => some va
            | .error _ => none
    (x.tailVa :: (upTo 0 c.kvaTokens).flatMap token).find? fun va => s.sealedAt c va
  | _, _ => none

/-- The checks of a KVA once its context is read (R114, R239), then its issue. -/
def State.kvaIssue (s : State) (i : Instr) (k : Nat) (t : Thread) (c : Cmd) : State :=
  match s.kvaSealed c with
  | some va => s.issueFault i k .sealed (BitVec.ofNat 64 va)
  | none => if s.cmdWaits t c.unit true then s.stall else s.issueCmd k t c true

/-- KVA (R239): the context descriptor is read at issue. -/
def execKva (g : Guard) (slack : BitVec 4) (n : BitVec 5) (nosig : Bool) (a b c : Reg) (s : State) : Out :=
  let i : Instr := .kva g slack n nosig a b c
  word i s fun k t =>
    let ctx := t.pair b
    let stage := t.pair a
    let sg := sigOperand t nosig c
    let cmd := s.newCmd i k t (.sluice (coreOf k)) slack.toNat
      ([loWord ctx, hiWord ctx, loWord stage, hiWord stage] ++ (match sg with | some x => [loWord x, hiWord x] | none => []))
    match sigFault sg with
    | some (e, x) => s.issueFault i k e x
    | none =>
      if s.fenced.contains cmd.unit.code then s.issueFault i k .engineFenced 0
      else if !t.storeq.isEmpty then s.stall
      else
        match (s.forUnit k cmd).ctxOf cmd ctx.toNat with
        | .error e => s.issueFault i k e.1 (BitVec.ofNat 64 e.2)
        | .ok (s1, x) =>
          if x.malformed then s.issueFault i k .kvContext ctx
          else
            match s1.cmdRead cmd ctx.toNat 64 with
            | .error e => s.issueFault i k e.1 (BitVec.ofNat 64 e.2)
            | .ok (s2, xb) => s.guardReads k t (s2.kvaIssue i k t { cmd with recd := xb })

/-- A KVA on the same context that was accepted earlier still runs (R240, R277). -/
def State.kvaBehind (s : State) (c : Cmd) : Bool :=
  (s.cmds.takeWhile fun o => o.id != c.id).any fun o => o.vf == c.vf && o.kvaTokens != 0 && o.op2 0 == c.op2 0

/-- A new tail block: G pool blocks, their indices written to the list (R240, R276). A freed block keeps the bytes of its last
owner (R366); they are zeroed here, so that no partition observes another's data through a free block (R21;
notes/assumptions/28.md). -/
def State.kvaBlock (s : State) (c : Cmd) (x : Ctx) (hdr : SegHdr) (te : TailE) : Except AccFault (State × TailE) :=
  if te.used = x.tailcap then .error (.kvContext, x.va)
  else
    let g := x.tailBlocks hdr.p
    match s.allocPool c.vf g with
    | none => .error (.quota, x.va)
    | some (s, bs) =>
      match s.cmdCells c (x.tblist + 4 * g * te.used) (bs.flatMap fun b => bytesOf b 4) with
      | .error e => .error e
      | .ok (s, cells) =>
        .ok ((bs.foldl (fun (st : State) b => st.zeroBlock b) s).cmdStore c cells, { te with used := te.used + 1 })

/-- One token's rows from the staging area into the tail block (R239, R240). -/
def State.kvaRows (s : State) (c : Cmd) (x : Ctx) (hdr : SegHdr) (tok pos : Nat) : Except AccFault State :=
  let sh := x.shape
  let blist := x.tblist + 4 * x.tailBlocks hdr.p * (pos / 32)
  let one (a : State × List Host.Cell) (n : Nat) : Except AccFault (State × List Host.Cell) :=
    let l := n / 2 / sh.heads
    let h := n / 2 % sh.heads
    let v := n % 2 == 1
    match a.1.cmdRead c ((c.op2 2).toNat + sh.rb * (tok * sh.layers * sh.heads * 2 + n)) sh.rb with
    | .error e => .error e
    | .ok (s, bs) =>
      match s.spaceCells c hdr blist (rowOff sh 0 l h v (pos % 32)) (words32 (sh.rb / 32) (cleanRow sh bs)) with
      | .error e => .error e
      | .ok (s, cells) => .ok (s, a.2 ++ cells)
  match foldE one (upTo 0 (2 * sh.layers * sh.heads)) (s, []) with
  | .error e => .error e
  | .ok (s, cells) => .ok (s.cmdStore c cells)

/-- A KVA appends one token (R240): the tail block if it begins one, the rows, then the tail length as a release at dev
scope. -/
def State.kvaToken (s : State) (c : Cmd) : Except AccFault State :=
  let x := c.ctx
  match s.segHdr c with
  | .error e => .error e
  | .ok (s, hdr) =>
    match s.mapTail c x with
    | .error e => .error e
    | .ok (s, te) =>
      let pos := (if c.beat = 0 then te.len else c.done) + c.beat
      let claim := if c.beat = 0 then te.len else c.done
      match (if pos % 32 = 0 then s.kvaBlock c x hdr te else .ok (s, te)) with
      | .error e => .error e
      | .ok (s, te) =>
        match s.kvaRows c x hdr c.beat pos with
        | .error e => .error e
        | .ok s =>
          match s.cmdCells c x.tailVa (bytesOf ((pos + 1) % 2 ^ 32 + te.base * 2 ^ 32 + te.used * 2 ^ 64) 12) with
          | .error e => .error e
          | .ok (s, cells) =>
            .ok (((s.cmdStore c cells).showWriter (cmdWriter c.id) maskDev).modCmd c.id fun c =>
              { c with beat := c.beat + 1, done := claim })

/-- The beats of 256 bytes of one token of a KVA (R221, R239). -/
def Cmd.kvaTokenBeats (c : Cmd) : Nat := ceilDiv (2 * c.ctx.shape.layers * c.ctx.shape.heads * c.ctx.shape.rb) 256

/-- A beat of a KVA: the last one of a token appends the token whole. A QUOTA sends the PF's vector (R366). -/
def State.kvaStep (s : State) (c : Cmd) : State :=
  if c.sub + 1 < c.kvaTokenBeats then s.modCmd c.id fun c => { c with sub := c.sub + 1 }
  else
  match (s.kvaToken c).map fun s => s.modCmd c.id fun c => { c with sub := 0 } with
  | .error (.quota, va) => (s.cmdFault c (.quota, va)).quotaVector
  | r => s.cmdStep c r

end Sys2Proof.Machine
end

