-- ==== Sys2Proof/Machine/Segment.lean ====
section
/-!
DEFINITION. The segment instructions (spec/12_segments_linking_repair.md R282 to R292), and sealing
(spec/09_isa_memory_lanes.md R203; spec/06_consistency.md R138; spec/22_partitions_translation.md R363, R365).
-/
namespace Sys2Proof.Machine

/-! ### A thread's own records accesses -/

/-- The accesses that a thread's instruction makes to records, in the form of a command that is never queued. -/
def State.asCmd (s : State) (i : Instr) (k : Nat) (t : Thread) : Cmd :=
  { s.newCmd i k t (.own (coreOf k)) 0 [] with id := 2 ^ 20 + k }

/-- A fault of such an access: recoverable or precise. -/
def State.recFault (s : State) (i : Instr) (k : Nat) (e : AccFault) : State := s.storeFault i k e.1 (BitVec.ofNat 64 e.2)

/-- A release at dev scope of a thread's earlier stores and of what it has seen (R127, R286). -/
def State.releaseDev (s : State) (k : Nat) (t : Thread) : State :=
  ((s.drainAll k).showThread k maskDev).showIds t.seen maskDev

/-- The instruction writes one register and the thread goes on, as an acquire of what its core then sees. -/
def State.put1Seen (s : State) (k : Nat) (d : Reg) (v : Word) : State :=
  (s.modThread k fun t => { t with seen := s.visibleTo (coreOf k) }).put1 k d v

/-! ### Sealing (R203, R285) -/

/-- The pages of a region, checked for SEAL and UNSEAL: each must be mapped, inside the region and writable (R203). -/
def State.regionPages (s : State) (o vf core va len : Nat) : Nat → Nat → Except AccFault (List TlbEnt)
  | 0, _ => .ok []
  | fuel + 1, a =>
    if va + len ≤ a then .ok []
    else
      match s.leafFor o vf core a with
      | .error e => .error (e, a)
      | .ok t =>
        match s.place vf (bits t.leaf.toNat 55 16 * 65536) with
        | .error e => .error (e, a)
        | .ok _ =>
          if t.va < va ∨ va + len < t.va + t.size then .error (.sealRange, va)
          else if !t.leaf.getLsbD 3 then .error (.pageProtect, a)
          else
            match s.regionPages o vf core va len fuel (t.va + t.size) with
            | .error e => .error e
            | .ok ts => .ok (t :: ts)

/-- Drop the translations of a partition that meet a region (R119, R355). -/
def State.dropTlb (s : State) (vf va len : Nat) : State :=
  { s with tlb := s.tlb.filter fun t => !(t.vf == vf && decide (t.va < va + len) && decide (va < t.va + t.size)) }

/-- Every store already in the coherence order to a range of physical addresses is performed at dev scope (R138). -/
def State.settleRange (s : State) (p n : Nat) : State :=
  s.showIds ((s.flights.filter fun f => f.bytes.any fun c => decide (p ≤ c.1) && decide (c.1 < p + n)).map (·.id)) maskDev

/-- Every store to a page is performed at dev scope (R138). -/
def State.settlePage (s : State) (vf : Nat) (t : TlbEnt) : State :=
  match s.place vf (bits t.leaf.toNat 55 16 * 65536) with
  | .ok p => s.settleRange p.key t.size
  | .error _ => s

/-- Change one byte of a page's entry, as an atomic at dev scope by the device (R365): the stores to it that precede it in the
coherence order are performed first, and it changes what they leave. -/
def State.entryByte (s : State) (t : TlbEnt) (n : Nat) (f : Nat → Nat) : State :=
  let s := s.settleRange (t.pte + n) 1
  s.devStore (t.pte + n) [BitVec.ofNat 8 (f (s.readByte agHeadgate (t.pte + n)).toNat)]

/-- Set the seal bit of a page's entry (R203). -/
def State.sealEntry (s : State) (t : TlbEnt) : State := s.entryByte t 0 fun x => x ||| 32

/-- Clear SEAL and RCNT of a page's entry (R204, R363): bit 5, and bits 12:11. -/
def State.unsealEntry (s : State) (t : TlbEnt) : State :=
  (s.entryByte t 0 fun x => x - x / 32 % 2 * 32).entryByte t 1 fun x => x - x / 8 % 4 * 8

/-- A page's entry as it stands in memory is sealed. -/
def State.entrySealed (s : State) (t : TlbEnt) : Bool := (s.readByte agHeadgate t.pte).getLsbD 5

/-- Seal a page as its entry then stands, after the stores to the entry that precede the seal in the coherence order (R365): a
page that is sealed stays sealed (R203). -/
def State.sealOnce (s : State) (t : TlbEnt) : State :=
  let s := s.settleRange t.pte 8
  if s.entrySealed t then s else s.sealEntry t

/-- Unseal a page as its entry then stands: a page that is not sealed is left as it is (R204, R365). -/
def State.unsealOnce (s : State) (t : TlbEnt) : State :=
  let s := s.settleRange t.pte 8
  if s.entrySealed t then s.unsealEntry t else s

/-- The stores that threads of a partition still hold for a range of physical addresses leave their queues: they precede
a seal or an invalidation (R138, R355). -/
def State.drainRange (s : State) (vf p n : Nat) : State :=
  (s.threads.filter fun x => x.2.vf == vf && x.2.storeq.any fun q =>
      q.bytes.any fun c => decide (p ≤ c.1) && decide (c.1 < p + n)).foldl (fun (st : State) x => st.drainAll x.1) s

/-- The stores of a partition's threads to a page leave their queues. -/
def State.drainPage (s : State) (vf : Nat) (t : TlbEnt) : State :=
  match s.place vf (bits t.leaf.toNat 55 16 * 65536) with
  | .ok p => s.drainRange vf p.key t.size
  | .error _ => s

/-- Seal pages (R203): the stores to them that the partition's threads hold leave their queues and are performed, then the bits
are set, then the translations go. -/
def State.sealPages (s : State) (vf va len : Nat) (ts : List TlbEnt) : State :=
  let s := ts.foldl (fun (st : State) t => (st.drainPage vf t).settlePage vf t) s
  (ts.foldl (fun (st : State) t => st.sealOnce t) s).dropTlb vf va len

/-! ### SEGNEW (R283) -/

/-- The fields of a new segment (R283); none is SEG_SHAPE. -/
def segFields (a0 a1 : Word) (rmask : DWord) : Option Seg :=
  let x := a0.toNat
  let y := a1.toNat
  let g : Seg :=
    { n := bits x 15 0, shape := { layers := bits y 15 0, heads := bits y 23 16, hdim := bits y 28 24, f8 := x.testBit 23 }
      state := 1, h := bits x 22 16, summed := false, rmask := rmask, nblk := 0, links := 0, blist := 0 }
  if g.n = 0 ∨ g.shape.bad = true ∨ 64 < g.h ∨ bits x 31 24 ≠ 0 ∨ bits y 31 29 ≠ 0 then none else some g

/-- The lowest FREE id from `id` on (R283). -/
def State.freeSeg (s : State) (c : Cmd) (hdr : SegHdr) : Nat → Nat → Except AccFault (Option Nat)
  | 0, _ => .ok none
  | fuel + 1, id =>
    match s.segOf c hdr id with
    | .error e => .error e
    | .ok (_, none) => .ok none
    | .ok (_, some g) => if g.state = 0 then .ok (some id) else s.freeSeg c hdr fuel (id + 1)

/-- Writable checks of a range: the cells are not kept. -/
def State.writable (s : State) (c : Cmd) (va n : Nat) : Except AccFault State :=
  match s.cmdCells c va (List.replicate n 0) with
  | .error e => .error e
  | .ok (s, _) => .ok s

/-- A new segment with its storage (R283), or the fault. -/
def State.segMake (s : State) (c : Cmd) (g : Seg) (blist : Nat) : Except AccFault (State × Nat) :=
  match s.segHdr c with
  | .error e => .error e
  | .ok (s, hdr) =>
    let nblk := g.blocks hdr.p
    match s.writable c blist (4 * nblk) with
    | .error e => .error e
    | .ok s =>
      match s.freeSeg c hdr hdr.nseg 1 with
      | .error e => .error e
      | .ok none => .ok (s, 0)
      | .ok (some id) =>
        match s.allocPool c.vf nblk with
        | none => .error (.quota, blist)
        | some (s, bs) =>
          match s.cmdCells c blist (bs.flatMap fun b => bytesOf b 4),
                s.tableCells c (s.segVa c.vf id) ({ g with nblk := nblk, blist := blist }).bytes with
          | .error e, _ => .error e
          | _, .error e => .error e
          | .ok (s, cells), .ok tc =>
            .ok ((bs.foldl (fun (st : State) b => st.zeroBlock b) s).devCells (cells ++ tc), id)

/-- SEGNEW (R283, R291). -/
def execSegnew (g : Guard) (d a b : Reg) (s : State) : Out :=
  let i : Instr := .segnew g d a b
  word i s fun k t =>
    let blist := t.pair b
    if t.inTask then s.trap k .taskIrrevocable
    else
      match segFields (t.r a) (t.reg (a.toNat + 1)) (pairOf (t.reg (a.toNat + 2)) (t.reg (a.toNat + 3))) with
      | none => s.trap k .segShape
      | some seg =>
        if blist.toNat % 65536 ≠ 0 then s.trap k .misaligned blist
        else
          match (s.releaseDev k t).segMake (s.asCmd i k t) seg blist.toNat with
          | .error (.quota, va) => (s.recFault i k (.quota, va)).quotaVector
          | .error e => s.recFault i k e
          | .ok (s, id) => s.put1 k d (BitVec.ofNat 32 id)

/-- Free a pool block of a partition: the stores that its threads still hold for the block are performed, the owner becomes 0, and
the bytes stand as they are (R366). A block that the partition does not own is left alone, which R283 does not say of SEGNEW.DEL
(the model's choice, notes/assumptions/29.md). -/
def State.freeBlock (s : State) (vf i : Nat) : State :=
  if (s.poolTag i).owner = vf + 1 then
    let s := (s.drainRange vf (s.blockKey i) s.poolBlock).settleRange (s.blockKey i) s.poolBlock
    { s with pool := NMap.erase s.pool i }
  else s

/-- The pool block indices of a list (R273). -/
def State.blockList (s : State) (c : Cmd) (blist n : Nat) : Except AccFault (List Nat) :=
  match s.cmdRead c blist (4 * n) with
  | .error e => .error e
  | .ok (_, bs) => .ok ((wordsOf bs).map (·.toNat))

/-- The pages that hold a block list, without the write check. -/
def State.listPages (s : State) (o vf core : Nat) : Nat → Nat → Nat → List TlbEnt
  | 0, _, _ => []
  | fuel + 1, a, stop =>
    if stop ≤ a then []
    else
      match s.leafFor o vf core a with
      | .error _ => []
      | .ok t => t :: s.listPages o vf core fuel (t.va + t.size) stop

/-! ### SEGSUM (R284) -/

/-- SEGSUM (R284, R291): its records are read, as all that it reads, after its thread's earlier stores (R132). -/
def execSegsum (g : Guard) (nosig : Bool) (a c : Reg) (s : State) : Out :=
  let i : Instr := .segsum g nosig a c
  word i s fun k t =>
    let sg := sigOperand t nosig c
    let cmd := s.newCmd i k t (.sluice (coreOf k)) 0
      ([t.r a] ++ (match sg with | some x => [loWord x, hiWord x] | none => []))
    if t.inTask then s.trap k .taskIrrevocable
    else if !t.storeq.isEmpty then s.stall
    else
      match (s.forUnit k cmd).segHdr cmd with
      | .error e => s.issueFault i k e.1 (BitVec.ofNat 64 e.2)
      | .ok (s1, hdr) =>
        match s1.segOf cmd hdr (t.r a).toNat with
        | .error e => s.issueFault i k e.1 (BitVec.ofNat 64 e.2)
        | .ok (_, none) => s.trap k .segId
        | .ok (s2, some seg) =>
          if seg.state = 0 then s.trap k .segId
          else if seg.state ≠ 1 then s.trap k .segState
          else
            match sigFault sg with
            | some (e, x) => s.issueFault i k e x
            | none =>
              if s.fenced.contains cmd.unit.code then s.issueFault i k .engineFenced 0
              else if s.cmdWaits t cmd.unit then s.stall
              else s2.issueCmd k t cmd false

/-- The exact values of a K row (R271, R284). -/
def rowValues (sh : KvShape) (bs : List Byte) : List FVal :=
  let sc : Int := if sh.f8 then (BitVec.ofNat 8 (fieldAt bs sh.d 1) : Byte).toInt else 0
  (rowElems sh bs).map fun x => (decodeFloat (if sh.f8 then .f8a else .bf16) x).scale sc

/-- The bound of one element over rows: the rounded minimum and maximum (R284). -/
def boundOf (vs : List FVal) : Nat × Nat :=
  if vs.any fun v => v.isNan || v.isInf then (infBits .f32 true, infBits .f32 false)
  else
    match vs with
    | [] => (0, 0)
    | v :: rest =>
      let lo := rest.foldl (fun a x => if cmpVal x a < 0 then x else a) v
      let hi := rest.foldl (fun a x => if cmpVal a x < 0 then x else a) v
      ((narrow .f32 .rdn false lo).1, (narrow .f32 .rup false hi).1)

/-- The summary record of (b, l, h) (R274, R284). -/
def State.summaryOf (s : State) (c : Cmd) (hdr : SegHdr) (g : Seg) (b l h : Nat) : Except AccFault (State × List Byte) :=
  let rows := min 32 (g.n - 32 * b)
  match foldE (fun (x : State × List (List FVal)) r =>
      match x.1.spaceRead c hdr g.blist (rowOff g.shape b l h false r) (g.shape.rb / 32) with
      | .error e => .error e
      | .ok (s, bs) => .ok (s, x.2 ++ [rowValues g.shape bs])) (upTo 0 rows) (s, ([] : List (List FVal))) with
  | .error e => .error e
  | .ok (s, vss) =>
    let bounds := (upTo 0 g.shape.d).map fun i => boundOf (vss.map fun vs => vs.getD i (.fin false 0 0))
    .ok (s, (bounds.flatMap fun x => bytesOf x.1 4) ++ bounds.flatMap fun x => bytesOf x.2 4)

/-- The whole of a SEGSUM: the summary, then SUMMED (R284). -/
def State.segsumAll (s : State) (c : Cmd) : Except AccFault State :=
  match s.segHdr c with
  | .error e => .error e
  | .ok (s, hdr) =>
    match s.segOf c hdr (c.op 0).toNat with
    | .error e => .error e
    | .ok (_, none) => .error (.segId, 0)
    | .ok (s, some g) =>
      let lh := g.shape.layers * g.shape.heads
      let one (x : State) (n : Nat) : Except AccFault State :=
        let b := n / lh
        let l := n % lh / g.shape.heads
        let h := n % g.shape.heads
        match x.summaryOf c hdr g b l h with
        | .error e => .error e
        | .ok (s, bs) =>
          match s.spaceCells c hdr g.blist (g.sumAt b l h) (words32 (g.shape.d / 4) bs) with
          | .error e => .error e
          | .ok (s, cells) => .ok (s.cmdStore c cells)
      match foldE one (upTo 0 (g.nb * lh)) s with
      | .error e => .error e
      | .ok s =>
        match s.tableCells c (s.segVa c.vf (c.op 0).toNat) ({ g with summed := true }).bytes with
        | .error e => .error e
        | .ok tc => .ok ((s.showWriter (cmdWriter c.id) maskDev).devCells tc)

/-! ### LINK and UNLINK (R282, R286, R287) -/

/-- ORDER of a context: the slots of its LIVE entries in order (R275). -/
def State.orderOf (s : State) (c : Cmd) (x : Ctx) : Except AccFault (State × List Nat) :=
  match s.cmdRead c x.orderVa x.nord with
  | .error e => .error e
  | .ok (s, bs) => .ok (s, bs.map (·.toNat))

/-- The link entries of an order. -/
def State.entriesOf (s : State) (c : Cmd) (x : Ctx) (order : List Nat) : Except AccFault (State × List (Nat × LinkE)) :=
  foldE (fun (a : State × List (Nat × LinkE)) n =>
    match a.1.linkOf c x n with
    | .error e => .error e
    | .ok (s, e) => .ok (s, a.2 ++ [(n, e)])) order (s, [])

/-- Entries with their positions restored (R277): BASE is the sum of the lengths before. -/
def rebase : Nat → List (Nat × LinkE) → List (Nat × LinkE)
  | _, [] => []
  | p, (n, e) :: es => (n, { e with base := p }) :: rebase (p + e.len) es

/-- The cells of a context's records after a change of ORDER (R275, R277), with `above` written at the new NORD: an UNLINK
writes 0 there (R337). -/
def State.ctxCells (s : State) (c : Cmd) (x : Ctx) (es : List (Nat × LinkE)) (above : List Byte) : Except AccFault (State × List Host.Cell) :=
  let es := rebase 0 es
  let total := es.foldl (fun n e => n + e.2.len) 0
  let parts : List (Nat × List Byte) :=
    [(x.va + 1, [BitVec.ofNat 8 es.length]), (x.orderVa, (es.map fun e => BitVec.ofNat 8 e.1) ++ above), (x.tailVa + 4, bytesOf total 4)] ++
      es.map fun e => (x.entryVa e.1, e.2.bytes)
  foldE (fun (a : State × List Host.Cell) (p : Nat × List Byte) =>
    match a.1.cmdCells c p.1 p.2 with
    | .error e => .error e
    | .ok (s, cells) => .ok (s, a.2 ++ cells)) parts (s, [])

/-- The mask words of every layer of an overlay: READY 0, PENDING R (R286). -/
def maskBytes (layers : Nat) (r : DWord) : List Byte :=
  (upTo 0 layers).flatMap fun _ => List.replicate 8 0 ++ bytesOf r.toNat 8

/-- A repair entry (R282). -/
def repairEntry (x : Ctx) (slot rcnt ova epoch : Nat) : Entry :=
  { entry := BitVec.ofNat 32 x.rentry, flags := BitVec.ofNat 32 (1 + 4 + x.rgrain * 256 + slot * 65536), lo := 0
    hi := BitVec.ofNat 32 rcnt, arg := BitVec.ofNat 64 ova, tstamp := BitVec.ofNat 32 epoch, parent := noTask }

/-- Push a repair entry, or the fault of R56. -/
def State.pushRepair (s : State) (q : Nat) (e : Entry) : Except AccFault State :=
  match s.pushNew q e with
  | .pushed s => .ok s
  | .badEntry => .error (.badEntry, 0)
  | .spillFault va => .error (.spillwayFault, va.toNat)

/-- The repairs that FOLLOW starts again, for the entries behind the new one (R286). -/
def State.followAll (s : State) (c : Cmd) (x : Ctx) (es : List (Nat × LinkE)) :
    Except AccFault (State × List Host.Cell × List (Nat × LinkE)) :=
  foldE (fun (a : State × List Host.Cell × List (Nat × LinkE)) (e : Nat × LinkE) =>
    match a.1.ovlOf c e.2.ova with
    | .error er => .error er
    | .ok (s, o) =>
      if o.rcnt = 0 then .ok (s, a.2.1, a.2.2 ++ [e])
      else
        let ep := (o.epoch + 1) % 2 ^ 32
        match s.cmdCells c e.2.ova (bytesOf (o.value + 1).toNat 8), s.cmdCells c (e.2.ova + 28) (bytesOf ep 4),
              s.cmdCells c (ovlMaskVa e.2.ova 0) (maskBytes x.shape.layers o.rmask) with
        | .ok (s, c1), .ok (_, c2), .ok (_, c3) =>
          (match s.pushRepair x.rq (repairEntry x e.1 o.rcnt e.2.ova ep) with
           | .error er => .error er
           | .ok s => .ok (s, a.2.1 ++ c1 ++ c2 ++ c3, a.2.2 ++ [(e.1, { e.2 with prc := o.rcnt * x.shape.layers })]))
        | .error er, _, _ => .error er
        | _, .error er, _ => .error er
        | _, _, .error er => .error er) es (s, [], [])

/-- The atomic step of a LINK once its checks have passed (R286). -/
def State.linkStep (s : State) (c : Cmd) (x : Ctx) (seg : Seg) (id slot k ova : Nat) (follow : Bool)
    (old : List (Nat × LinkE)) : Except AccFault State :=
  let r : DWord := BitVec.ofNat 64 seg.repairMask
  let rn := popCount seg.repairMask 64
  let hdr : Ovl := { value := if 0 < rn then 1 else 0, ctx := x.va, slot := slot, rcnt := rn, noops := 0, epoch := 0, rmask := r }
  let new : LinkE := { seg := id, state := 1, len := seg.n, base := 0, ova := ova, prc := rn * x.shape.layers }
  match s.writable c ova (ovlSize x.shape rn) with
  | .error e => .error e
  | .ok s =>
    match s.cmdCells c ova hdr.bytes, s.cmdCells c (ovlMaskVa ova 0) (maskBytes x.shape.layers r),
          s.tableCells c (s.segVa c.vf id) ({ seg with links := seg.links + 1 }).bytes with
    | .ok (s, c1), .ok (_, c2), .ok tc =>
      (match (if 0 < rn then s.pushRepair x.rq (repairEntry x slot rn ova 0) else .ok s) with
       | .error e => .error e
       | .ok s =>
         match (if follow then s.followAll c x (old.drop k) else .ok (s, [], old.drop k)) with
         | .error e => .error e
         | .ok (s, c3, after) =>
           match s.ctxCells c x (old.take k ++ [(slot, new)] ++ after) [] with
           | .error e => .error e
           | .ok (s, c4) => .ok (s.devCells (c1 ++ c2 ++ c3 ++ c4 ++ tc)))
    | .error e, _, _ => .error e
    | _, .error e, _ => .error e
    | _, _, .error e => .error e

/-- A slot may be used again (R278). -/
def State.reusable (s : State) (c : Cmd) (e : LinkE) : Except AccFault (State × Bool) :=
  if e.state = 0 then .ok (s, true)
  else if e.state = 2 then
    match s.ovlOf c e.ova with
    | .error er => .error er
    | .ok (s, o) => .ok (s, o.value == 0)
  else .ok (s, false)

/-- A KVG whose entry was unlinked no longer reads an overlay that a later LINK names (R238). -/
def State.forgetOverlay (s : State) (vf ova : Nat) : State :=
  { s with cmds := s.cmds.map fun c =>
      if c.vf = vf then
        { c with kv := c.kv.map fun e => if e.dead.isSome ∧ e.ova = ova then { e with dead := some 0 } else e }
      else c }

/-- LINK after its context is read: the rest of its checks in their order, then its step (R286). The answer is |R|, or the
precise cause, or a fault of an access. -/
def State.linkChecks (s : State) (c : Cmd) (x : Ctx) (id slot k ova : Nat) (follow : Bool) :
    Except AccFault (State × Except Cause Nat) :=
  match s.segHdr c with
  | .error e => .error e
  | .ok (s, hdr) =>
    match s.segOf c hdr id with
    | .error e => .error e
    | .ok (s, none) => .ok (s, .error .segId)
    | .ok (s, some seg) =>
      if seg.state = 0 then .ok (s, .error .segId)
      else if seg.state ≠ 2 then .ok (s, .error .segState)
      else if seg.shape ≠ x.shape then .ok (s, .error .segShape)
      else if x.slots ≤ slot then .ok (s, .error .linkBad)
      else
        match s.linkOf c x slot, s.tailOf c x with
        | .error e, _ => .error e
        | _, .error e => .error e
        | .ok (s, le), .ok (_, te) =>
          match s.reusable c le with
          | .error e => .error e
          | .ok (s, ok) =>
            let q := s.queue x.rq
            let rn := popCount seg.repairMask 64
            if !ok || decide (x.nord < k) || ova % 256 != 0 || decide (2 ^ 32 ≤ te.base + te.len + seg.n) then
              .ok (s, .error .linkBad)
            else if (0 < rn ∨ follow = true) ∧ ¬ (q.en = true ∧ q.vf = c.vf) then .ok (s, .error .queueUnbound)
            else if (0 < rn ∨ follow = true) ∧ q.ordered = true then .ok (s, .error .badEntry)
            else
              match s.orderOf c x with
              | .error e => .error e
              | .ok (s, order) =>
                match s.entriesOf c x order with
                | .error e => .error e
                | .ok (s, es) =>
                  match s.linkStep c x seg id slot k ova follow es with
                  | .error e => .error e
                  | .ok s => .ok (s.forgetOverlay c.vf ova, .ok rn)

/-- LINK (R286, R291). -/
def execLink (g : Guard) (follow : Bool) (d a b : Reg) (s : State) : Out :=
  let i : Instr := .link g follow d a b
  word i s fun k t =>
    let cva := t.pair a
    let c := s.asCmd i k t
    let y := (t.reg (b.toNat + 1)).toNat
    let ova := (pairOf (t.reg (b.toNat + 2)) (t.reg (b.toNat + 3))).toNat
    if t.inTask then s.trap k .taskIrrevocable
    else if cva.toNat % 64 ≠ 0 then s.trap k .linkBad
    else if s.kvaRuns t.vf cva.toNat then s.stall
    else
      let s0 := s.releaseDev k t
      match s0.cmdRead c cva.toNat 64 with
      | .error e => s.recFault i k e
      | .ok (s1, bs) =>
        let x := Ctx.read cva.toNat bs
        if x.resv || x.rentry == 0 then s.trap k .linkBad
        else
          match s1.linkChecks c x (t.r b).toNat (bits y 7 0) (bits y 15 8) ova follow with
          | .error e => s.recFault i k e
          | .ok (_, .error cause) => s.trap k cause
          | .ok (s2, .ok rn) => s2.put1Seen k d (BitVec.ofNat 32 rn)

/-- Read the entries of a spillway, oldest first. -/
def State.spillEntries (s : State) (q : Queue) : Nat → Nat → Except AccFault (List Entry)
  | 0, _ => .ok []
  | n + 1, i =>
    match s.access agHeadgate q.vf hubCore (q.place i) .read with
    | .error e => .error (e, q.place i)
    | .ok l =>
      match s.spillEntries q n (i + 1) with
      | .error e => .error e
      | .ok es => .ok (Entry.ofWords (wordsOf (s.readLoc agHeadgate l (q.place i) 32)) :: es)

/-- Write entries into a spillway from a place on. -/
def State.writeSpill (s : State) (q : Queue) : Nat → List Entry → State
  | _, [] => s
  | i, e :: es =>
    (match s.access agHeadgate q.vf hubCore (q.place i) .write with
     | .error _ => s
     | .ok l => s.devPut l (q.place i) (bytesOfWords e.words)).writeSpill q (i + 1) es

/-- The Headgate removes every entry of a queue whose ARG is an overlay (R287): the entries removed. Where a place of the spillway
cannot be read, only the entries on chip go; a place that cannot be written keeps what it holds; R287 names no fault (the model's
choice, notes/assumptions/29.md). -/
def State.removeRepairs (s : State) (n ova : Nat) : State × List Entry :=
  let q := s.queue n
  let hit (e : Entry) : Bool := e.arg.toNat == ova
  let chip := q.ents.filter fun e => !hit e.1
  let gone := (q.ents.map (·.1)).filter hit
  match s.spillEntries q q.spcnt q.sphead with
  | .error _ => (s.modQueue n fun q => { q with ents := chip }, gone)
  | .ok es =>
    let left := (es.zip q.spseq).filter fun e => !hit e.1
    let s := if left.length = es.length then s else s.writeSpill q q.sphead (left.map (·.1))
    (s.modQueue n fun q => { q with ents := chip, spcnt := left.length, spseq := left.map (·.2) }, gone ++ es.filter hit)

/-- The KVGs that wait on an entry end their wait (R238, R287): the READY mask of their layer stands as it is now. -/
def State.killEntry (s : State) (vf ctx slot : Nat) : State :=
  { s with cmds := s.cmds.map fun c =>
      if c.vf = vf ∧ c.recd ≠ [] ∧ (c.op2 0).toNat = ctx then
        { c with kv := c.kv.map fun e =>
            if e.tail = false ∧ e.len ≠ 0 ∧ e.slot = slot ∧ e.dead = none then
              match s.cmdRead c (ovlMaskVa e.ova ((c.op 2).toNat % 65536)) 8 with
              | .ok (_, bs) => { e with dead := some (BitVec.ofNat 64 (natOf bs)) }
              | .error _ => { e with dead := some 0 }
            else e }
      else c }

/-- UNLINK once its entry is known to be LIVE (R287): the number of entries removed. -/
def State.unlinkStep (s : State) (c : Cmd) (x : Ctx) (slot : Nat) (le : LinkE) : Except AccFault (State × Nat) :=
  match s.orderOf c x with
  | .error e => .error e
  | .ok (s, order) =>
    match s.entriesOf c x (order.filter fun n => n != slot), s.segHdr c with
    | .error e, _ => .error e
    | _, .error e => .error e
    | .ok (s, es), .ok (_, hdr) =>
      match s.ctxCells c x es [0], s.cmdCells c (x.entryVa slot) ({ le with state := 2 }).bytes, s.segOf c hdr le.seg with
      | .ok (s, c1), .ok (_, c2), .ok (_, seg) =>
        (match (match seg with
           | some g => s.tableCells c (s.segVa c.vf le.seg) ({ g with links := g.links - 1 }).bytes
           | none => .ok []) with
         | .error e => .error e
         | .ok tc =>
           let s := (s.killEntry c.vf x.va slot).devCells (c1 ++ c2 ++ tc)
           let (s, gone) := s.removeRepairs x.rq le.ova
           .ok (gone.foldl (fun (st : State) e => st.completeEntry c.vf e) s, gone.length))
      | .error e, _, _ => .error e
      | _, .error e, _ => .error e
      | _, _, .error e => .error e

/-- UNLINK (R287, R291). -/
def execUnlink (g : Guard) (d a b : Reg) (s : State) : Out :=
  let i : Instr := .unlink g d a b
  word i s fun k t =>
    let cva := t.pair a
    let slot := (t.r b).toNat
    let c := s.asCmd i k t
    if t.inTask then s.trap k .taskIrrevocable
    else if cva.toNat % 64 ≠ 0 then s.trap k .linkBad
    else if s.kvaRuns t.vf cva.toNat then s.stall
    else
      let s0 := s.releaseDev k t
      match s0.cmdRead c cva.toNat 64 with
      | .error e => s.recFault i k e
      | .ok (s1, bs) =>
        let x := Ctx.read cva.toNat bs
        if x.slots ≤ slot then s.trap k .linkBad
        else
          match s1.linkOf c x slot with
          | .error e => s.recFault i k e
          | .ok (s2, le) =>
            if le.state ≠ 1 then s.trap k .linkBad
            else
              match s2.unlinkStep c x slot le with
              | .error e => s.recFault i k e
              | .ok (s3, n) => s3.put1Seen k d (BitVec.ofNat 32 n)

/-! ### KVR (R288) -/

/-- The places that a KVR of layer l and repair index q may write: the header, the layer's mask words, the link entry, and the
row's words (R114, R288). -/
def kvrWrites (x : Ctx) (o : Ovl) (ova l q : Nat) : List Nat :=
  [ova, ovlMaskVa ova l, x.entryVa o.slot] ++
    (upTo 0 (2 * x.shape.heads * x.shape.rb / 32)).map fun w => ovlRowVa x.shape ova o.rcnt l q 0 false + 32 * w

/-- The source sectors of a KVR of n bytes (R288). -/
def kvrSectors (core : Nat) (cr : Crew) (sa : Word) (n : Nat) : List (Nat × Bool) :=
  (sectorRange (crewAddr core cr sa.toNat) n).map fun q => (q, false)

/-- KVR (R288): the header is read at issue. Operands: the source, OVA, layer and index, EPOCH, and the row's bytes. -/
def execKvr (g : Guard) (a b c : Reg) (s : State) : Out :=
  let i : Instr := .kvr g a b c
  word i s fun k t =>
    let ova := t.pair a
    let sa := t.r c
    let lq := (t.r b).toNat
    match s.crew? (t.crewKey k) with
    | none => s.scrTrap k .scratchRange sa
    | some cr =>
      let cmd := s.newCmd i k t (.sluice (coreOf k)) 0 ([sa, loWord ova, hiWord ova] ++ t.rs b 2)
      match s.scrCause k t cr sa.toNat 64 32 true with
      | some e => s.scrTrap k e sa
      | none =>
      if ova.toNat % 256 ≠ 0 then s.issueFault i k .misaligned ova
      else if !t.storeq.isEmpty then s.stall
      else
        match (s.forUnit k cmd).ovlOf cmd ova.toNat with
        | .error e => s.issueFault i k e.1 (BitVec.ofNat 64 e.2)
        | .ok (s1, o) =>
          match s1.ctxOf cmd o.ctx with
          | .error e => s.issueFault i k e.1 (BitVec.ofNat 64 e.2)
          | .ok (s2, x) =>
            let n := 2 * x.shape.heads * x.shape.rb
            match s.scrCause k t cr sa.toNat n 32 true with
            | some e => s.scrTrap k e sa
            | none =>
              if o.rcnt ≤ bits lq 22 16 ∨ x.shape.layers ≤ bits lq 15 0 then s.issueFault i k .kvrRow ova
              else if s.fenced.contains cmd.unit.code then s.issueFault i k .engineFenced ova
              else
                match (kvrWrites x o ova.toNat (bits lq 15 0) (bits lq 22 16)).find? fun va => s2.sealedAt cmd va with
                | some va => s.issueFault i k .sealed (BitVec.ofNat 64 va)
                | none =>
                  if s.cmdWaits t cmd.unit true then s.stall
                  else
                    s.guardReads k t (s2.issueCmd k t { cmd with
                      ops := cmd.ops ++ [BitVec.ofNat 32 n], want := kvrSectors (coreOf k) cr sa n } true)

/-- The KVR is performed (R288): the row and its flip, or a no-op. -/
def State.kvrAll (s : State) (c : Cmd) : Except AccFault State :=
  let ova := (c.op2 1).toNat
  let l := bits (c.op 3).toNat 15 0
  let q := bits (c.op 3).toNat 22 16
  match s.ovlOf c ova with
  | .error e => .error e
  | .ok (s, o) =>
    match s.ctxOf c o.ctx with
    | .error e => .error e
    | .ok (s, x) =>
      let j := repairToken o.rmask q
      match s.linkOf c x o.slot, s.cmdRead c (ovlMaskVa ova l) 16 with
      | .error e, _ => .error e
      | _, .error e => .error e
      | .ok (s, le), .ok (_, mb) =>
        let ready := fieldAt mb 0 8
        let pending := fieldAt mb 8 8
        if le.state ≠ 1 ∨ le.ova ≠ ova ∨ (c.op 4).toNat ≠ o.epoch ∨ ready.testBit j = true then
          match s.cmdCells c (ova + 26) (bytesOf (o.noops + 1) 2) with
          | .error e => .error e
          | .ok (s, cells) => .ok (s.devCells cells)
        else
          let n := 2 * x.shape.heads * x.shape.rb
          let row := cleanRows x.shape (2 * x.shape.heads) (s.readScr (s.cmdScr c (c.op 0).toNat) n)
          let mask := bytesOf (ready + (if ready.testBit j then 0 else 2 ^ j)) 8 ++
            bytesOf (pending - (if pending.testBit j then 2 ^ j else 0)) 8
          match s.cmdCells c (ovlRowVa x.shape ova o.rcnt l q 0 false) row, s.cmdCells c (ovlMaskVa ova l) mask,
                s.cmdCells c (x.entryVa o.slot) ({ le with prc := (le.prc + 2 ^ 32 - 1) % 2 ^ 32 }).bytes with
          | .ok (s, c1), .ok (_, c2), .ok (_, c3) =>
            .ok (((s.cmdStore c c1).showWriter (cmdWriter c.id) maskDev).devCells (c2 ++ c3))
          | .error e, _, _ => .error e
          | _, .error e, _ => .error e
          | _, _, .error e => .error e

/-! ### RSTAT and ROTQ (R289, R290) -/

/-- What RSTAT reads of an entry, as 64 bits (R289). -/
def State.rstatEntry (s : State) (c : Cmd) (x : Ctx) (sel : RstatSel) (slot layer : Nat) : Except AccFault (State × Nat) :=
  match s.linkOf c x slot with
  | .error e => .error e
  | .ok (s, le) =>
    match sel with
    | .base => .ok (s, le.base)
    | .prc => .ok (s, le.prc)
    | .state =>
      (match s.reusable c le, s.orderOf c x with
       | .error e, _ => .error e
       | _, .error e => .error e
       | .ok (s, ok), .ok (_, order) =>
         let idx := order.idxOf slot
         .ok (s, (if ok then 0 else le.state) + (if idx < order.length then idx else 255) * 256))
    | .ready =>
      (match s.cmdRead c (ovlMaskVa le.ova layer) 8 with
       | .error e => .error e
       | .ok (s, bs) => .ok (s, natOf bs))
    | .pending =>
      (match s.cmdRead c (ovlMaskVa le.ova layer + 8) 8 with
       | .error e => .error e
       | .ok (s, bs) => .ok (s, natOf bs))
    | .out =>
      (match s.ovlOf c le.ova with
       | .error e => .error e
       | .ok (s, o) => .ok (s, if o.value.toInt < 0 then 0 else min o.value.toNat (2 ^ 32 - 1)))
    | .noops =>
      (match s.ovlOf c le.ova with
       | .error e => .error e
       | .ok (s, o) => .ok (s, o.noops))
    | .tail => .ok (s, 0)

/-- The read of an RSTAT (R289): the value, or LINK_BAD. -/
def State.rstatRead (s : State) (c : Cmd) (sel : RstatSel) (cva slot layer : Nat) : Except AccFault (State × Nat) :=
  if cva % 64 ≠ 0 then .error (.linkBad, cva)
  else
    match s.cmdRead c cva 64 with
    | .error e => .error e
    | .ok (s, bs) =>
      let x := Ctx.read cva bs
      if sel = .tail then
        match s.tailOf c x with
        | .error e => .error e
        | .ok (s, te) => .ok (s, te.len)
      else if x.slots ≤ slot ∨ ((sel = .ready ∨ sel = .pending) ∧ x.shape.layers ≤ layer) then .error (.linkBad, 0)
      else s.rstatEntry c x sel slot layer

/-- A fault of RSTAT (R289): precise, but for a recoverable one, which is logged as an LD.ACQ's is, the thread parking at the next
instruction (R126). -/
def State.rstatFault (s : State) (i : Instr) (k : Nat) (e : AccFault) : State :=
  if e.1.recoverable then s.loadFault i k e.1 (BitVec.ofNat 64 e.2) true else s.recFault i k e

/-- RSTAT (R289): read as an LD.ACQ at dev scope. -/
def execRstat (g : Guard) (sel : RstatSel) (d a b : Reg) (s : State) : Out :=
  let i : Instr := .rstat g sel d a b
  word i s fun k t =>
    let y := (t.r b).toNat
    match (s.drainAll k).rstatRead (s.asCmd i k t) sel (t.pair a).toNat (bits y 7 0) (bits y 31 16) with
    | .error (.linkBad, _) => s.trap k .linkBad
    | .error e => s.rstatFault i k e
    | .ok (s', v) =>
      let s' := s'.modThread k fun t => { t with seen := s'.visibleTo (coreOf k) }
      s.guardReads k t
        (if sel == .ready || sel == .pending then s'.put2 k d (BitVec.ofNat 64 v) else s'.put1 k d (BitVec.ofNat 32 v))

/-- A rotated query pair with its flags (R290). -/
def rotateQuery (f : NumFmt) (x0 x1 pos w : Nat) : Nat × Nat × FFlags :=
  match rotatePair (decodeFloat f x0) (decodeFloat f x1) pos w with
  | none => (canonNaN f, canonNaN f, fNV)
  | some (r0, r1) =>
    let a := narrow f .rne false r0
    let b := narrow f .rne false r1
    (a.1, b.1, a.2 ||| b.2)

/-- ROTQ (R290). -/
def execRotq (g : Guard) (bf : Bool) (d a b c : Reg) (s : State) : Out :=
  word (.rotq g bf d a b c) s fun k t =>
    let pos := (t.r b).toNat
    let w := (t.r c).toNat
    if bf then
      let r := rotateQuery .bf16 (elemOf (t.r a) 16 0) (elemOf (t.r a) 16 1) pos w
      s.floatDone k t r.2.2 fun t => t.setReg d.toNat (BitVec.ofNat 32 (r.1 + r.2.1 * 65536))
    else
      let r := rotateQuery .f32 (t.r a).toNat (t.reg (a.toNat + 1)).toNat pos w
      s.floatDone k t r.2.2 fun t => t.setRegs d.toNat [BitVec.ofNat 32 r.1, BitVec.ofNat 32 r.2.1]

end Sys2Proof.Machine
end

