-- ==== Sys2Proof/Machine/Siphon.lean ====
section
/-!
DEFINITION. The Siphon (spec/10_isa_copy_engines.md R243 to R246): the job card, the three codecs and the completion
record.
-/
namespace Sys2Proof.Machine

/-- A job card (R243). -/
structure Card where
  src    : Nat
  dst    : Nat
  srclen : Nat
  dstcap : Nat
  ring   : Nat
  rsz    : Nat
  codec  : Nat
  sig    : Bool
  sigva  : DWord
  tag    : Nat

/-- The card in 64 bytes. -/
def Card.read (bs : List Byte) : Card :=
  let x := natOf bs
  { src := bits x 63 0, dst := bits x 127 64, srclen := bits x 159 128, dstcap := bits x 191 160, ring := bits x 255 192
    rsz := bits x 260 256, codec := bits x 263 261, sig := x.testBit 264, sigva := BitVec.ofNat 64 (bits x 351 288)
    tag := bits x 415 352 }

/-- JOB_CARD (R243); an empty range overlaps none. -/
def cardBad (bs : List Byte) (c : Card) : Bool :=
  let x := natOf bs
  bits x 287 265 != 0 || bits x 511 416 != 0 || decide (3 ≤ c.codec) || c.rsz == 0 || decide (16 < c.rsz) ||
  c.ring % 32 != 0 || (c.sig && c.sigva.toNat % 16 != 0) || (!c.sig && c.sigva != 0) ||
  (c.srclen != 0 && c.dstcap != 0 && decide (c.src < c.dst + c.dstcap) && decide (c.dst < c.src + c.srclen))

/-- The card of a job. -/
def Cmd.card (c : Cmd) : Card := Card.read c.recd

/-- JOB (R243): the card is read by the Siphon at issue. -/
def execJob (g : Guard) (a : Reg) (s : State) : Out :=
  let i : Instr := .job g a
  word i s fun k t =>
    let va := t.pair a
    let cmd := s.newCmd i k t .siphon 0 [loWord va, hiWord va]
    match operandCause va 64 with
    | some e => s.issueFault i k e va
    | none =>
      if !t.storeq.isEmpty then s.stall
      else
        match (s.forUnit k cmd).cmdRead cmd va.toNat 64 with
        | .error e => s.issueFault i k e.1 (BitVec.ofNat 64 e.2)
        | .ok (s1, bs) =>
          if cardBad bs (Card.read bs) then s.issueFault i k .jobCard va
          else if s.fenced.contains cmd.unit.code then s.issueFault i k .engineFenced va
          else if s.cmdWaits t cmd.unit true then s.stall
          else s.guardReads k t (s1.issueCmd k t { cmd with recd := bs } true)

/-! ### Reading the stream and the output -/

/-- What reading a token gives. -/
inductive Parse (α : Type) where
  | ok (x : α) (pos : Nat)
  | bad
  | fault (e : AccFault)

/-- A byte of the stream: BAD_STREAM at its end (R245). -/
def State.jobByte (s : State) (c : Cmd) (n : Nat) : Parse Nat :=
  if c.card.srclen ≤ n then .bad
  else
    match s.cmdRead c (c.card.src + n) 1 with
    | .error e => .fault e
    | .ok (_, bs) => .ok (natOf bs) (n + 1)

/-- n bytes of the stream from a byte offset. -/
def State.jobBytes (s : State) (c : Cmd) (pos : Nat) : Nat → Parse (List Byte)
  | 0 => .ok [] pos
  | n + 1 =>
    match s.jobByte c pos with
    | .bad => .bad
    | .fault e => .fault e
    | .ok b p =>
      match s.jobBytes c p n with
      | .ok bs q => .ok (BitVec.ofNat 8 b :: bs) q
      | .bad => .bad
      | .fault e => .fault e

/-- n bits of the stream from a bit offset, the first the least significant (RFC 1951). -/
def State.jobBits (s : State) (c : Cmd) (pos : Nat) : Nat → Parse Nat
  | 0 => .ok 0 pos
  | n + 1 =>
    match s.jobByte c (pos / 8) with
    | .bad => .bad
    | .fault e => .fault e
    | .ok b _ =>
      match s.jobBits c (pos + 1) n with
      | .ok x q => .ok (b / 2 ^ (pos % 8) % 2 + 2 * x) q
      | .bad => .bad
      | .fault e => .fault e

/-- A byte of the output as it stands in memory, reached as a write reaches it; a reserved tail reads as zero (R84). -/
def State.outByte (s : State) (c : Cmd) (o : Nat) : Except AccFault Byte :=
  match s.cmdAccess c (c.card.dst + o) .write with
  | .error e => .error e
  | .ok l => .ok ((s.cmdPiece c l (c.card.dst + o) 1).headD 0)

/-- Write one output byte. -/
def State.putByte (s : State) (c : Cmd) (o : Nat) (b : Byte) : Except AccFault State :=
  match s.cmdCells c (c.card.dst + o) [b] with
  | .error e => .error e
  | .ok (s, cells) => .ok (s.cmdStore c cells)

/-- What a token's output gives: the state with what was written, and whether the capacity was passed or a fault met at an output
offset. -/
inductive Put where
  | ok (s : State) (o : Nat)
  | over (s : State)
  | fault (s : State) (e : AccFault) (o : Nat)

/-- Write literal bytes from output offset o, up to DSTCAP (R245). -/
def State.putAll (s : State) (c : Cmd) : Nat → List Byte → Put
  | o, [] => .ok s o
  | o, b :: bs =>
    if c.card.dstcap ≤ o then .over s
    else
      match s.putByte c o b with
      | .error e => .fault s e o
      | .ok s => s.putAll c (o + 1) bs

/-- Copy n bytes from d back, one at a time (R245). -/
def State.putMatch (s : State) (c : Cmd) (d : Nat) : Nat → Nat → Put
  | o, 0 => .ok s o
  | o, n + 1 =>
    if c.card.dstcap ≤ o then .over s
    else
      match s.outByte c (o - d) with
      | .error e => .fault s e o
      | .ok b =>
        match s.putByte c o b with
        | .error e => .fault s e o
        | .ok s => s.putMatch c d (o + 1) n

/-! ### The end of a job, and its faults (R244, R246) -/

/-- A job ends; its record waits for JOB_COMPLETE. -/
def State.jobEnd (s : State) (c : Cmd) (status outlen inused : Nat) (cause : Nat := 0) (addr : DWord := 0) : State :=
  s.modCmd c.id fun c => { c with
    job := some { status := status, outlen := outlen, inused := inused, cause := cause, addr := addr } }

/-- A job goes on at a restart point: an input offset and an output offset (R246). -/
def State.jobAt (s : State) (c : Cmd) (pos o : Nat) : State := s.modCmd c.id fun c => { c with beat := pos, done := o }

/-- A job meets a fault (R246): PAGE_NOT_PRESENT stops it at its last restart point; any other fault, or one that nothing
serves, ends it with STATUS FAULT. `used` counts the stream bytes of the whole tokens before, `o` the bytes written to DST
(R244). -/
def State.jobFault (s : State) (c : Cmd) (e : AccFault) (used o : Nat) : State :=
  if e.1.recoverable && (s.part c.vf).fqOn then
    match s.fileFault c.vf e.1 (BitVec.ofNat 64 e.2) (faultStamp c.thr true) with
    | (s, none) => s
    | (s, some id) => s.modCmd c.id fun c => { c with
        tokens := (used, o)
        fault := some { cause := e.1, va := BitVec.ofNat 64 e.2, fid := some id, logged := true, resolved := false, met := s.now } }
  else s.jobEnd c 3 o used e.1.code (BitVec.ofNat 64 e.2)

/-! ### STORED and BREF (R245) -/

/-- Copy n bytes of STORED, each read and then written: input and output offsets are the same. -/
def State.storedBytes (s : State) (c : Cmd) : Nat → Nat → Put
  | 0, o => .ok s o
  | n + 1, o =>
    match s.jobByte c o with
    | .bad => .ok s o
    | .fault e => .fault s e o
    | .ok b _ =>
      match s.putAll c o [BitVec.ofNat 8 b] with
      | .ok s o => s.storedBytes c n o
      | r => r

/-- A 256-byte beat of STORED. -/
def State.storedBeat (s : State) (c : Cmd) : State :=
  let total := min c.card.srclen c.card.dstcap
  match s.storedBytes c (min 256 (total - c.beat)) c.beat with
  | .over s => s
  | .fault s e o => s.jobFault c e o o
  | .ok s o => if total ≤ o then s.jobEnd c (if c.card.dstcap < c.card.srclen then 1 else 0) o o else s.jobAt c o o

/-- A token of BREF: a literal run, or a match (length, distance). -/
inductive BToken where
  | lit (bs : List Byte)
  | copy (len dist : Nat)

/-- Read a BREF token. -/
def State.brefToken (s : State) (c : Cmd) (pos : Nat) : Parse BToken :=
  match s.jobByte c pos with
  | .bad => .bad
  | .fault e => .fault e
  | .ok h p =>
    if h < 128 then
      match s.jobBytes c p (h + 1) with
      | .ok bs q => .ok (.lit bs) q
      | .bad => .bad
      | .fault e => .fault e
    else
      match s.jobBytes c p 2 with
      | .ok bs q => .ok (.copy (h - 128 + 3) (natOf bs)) q
      | .bad => .bad
      | .fault e => .fault e

/-- A token of BREF is decoded: each token boundary is a restart point. -/
def State.brefStep (s : State) (c : Cmd) : State :=
  match s.brefToken c c.beat with
  | .bad => s.jobEnd c 2 c.done c.beat
  | .fault e => s.jobFault c e c.beat c.done
  | .ok tok p =>
    match (match tok with
      | .lit bs => some (s.putAll c c.done bs)
      | .copy n d => if d = 0 ∨ c.done < d then none else some (s.putMatch c d c.done n)) with
    | none => s.jobEnd c 2 c.done c.beat
    | some (.over s) => s.jobEnd c 1 c.card.dstcap c.beat
    | some (.fault s e o) => s.jobFault c e c.beat o
    | some (.ok s o) => if c.card.srclen ≤ p then s.jobEnd c 0 o p else s.jobAt c p o

/-! ### DEFLATE (RFC 1951, R245) -/

/-- How many codes have each length 0 to 15. -/
def lengthCounts (ls : List Nat) : List Nat := (upTo 0 16).map fun n => (ls.filter fun l => l == n).length

/-- The unused code space of a set of lengths: negative when it is over-subscribed. -/
def codeSlack (counts : List Nat) : Int :=
  (upTo 1 15).foldl (fun (left : Int) n => 2 * left - counts.getD n 0) 1

/-- A canonical code: the counts of each length, and the symbols in order of code. -/
structure Huff where
  counts : List Nat
  syms   : List Nat

/-- The canonical code of a list of lengths. -/
def Huff.of (ls : List Nat) : Huff :=
  { counts := lengthCounts ls
    syms := (upTo 1 15).flatMap fun n => (ls.zip (upTo 0 ls.length)).filterMap fun (l, i) => if l = n then some i else none }

/-- The lengths form a usable code: complete, or at most one code of length 1 in all. -/
def lengthsOk (ls : List Nat) : Bool :=
  let cs := lengthCounts ls
  codeSlack cs == 0 || (decide (0 < codeSlack cs) && ls.length == cs.getD 0 0 + cs.getD 1 0 && decide (cs.getD 1 0 ≤ 1))

/-- Read one symbol: bit by bit, comparing with the first code of each length. -/
def State.huffSym (s : State) (c : Cmd) (h : Huff) : Nat → Nat → Nat → Nat → Nat → Nat → Parse Nat
  | 0, _, _, _, _, _ => .bad
  | fuel + 1, len, code, first, index, pos =>
    match s.jobBits c pos 1 with
    | .bad => .bad
    | .fault e => .fault e
    | .ok b p =>
      let code := code + b
      let n := h.counts.getD len 0
      if code < first + n then .ok (h.syms.getD (index + (code - first)) 0) p
      else s.huffSym c h fuel (len + 1) (2 * code) (2 * (first + n)) (index + n) p

/-- Read one symbol of a code. -/
def State.symbol (s : State) (c : Cmd) (h : Huff) (pos : Nat) : Parse Nat := s.huffSym c h 15 1 0 0 0 pos

/-- Base and extra bits of a length symbol. -/
def lengthBase : List (Nat × Nat) :=
  [(3, 0), (4, 0), (5, 0), (6, 0), (7, 0), (8, 0), (9, 0), (10, 0), (11, 1), (13, 1), (15, 1), (17, 1), (19, 2), (23, 2),
   (27, 2), (31, 2), (35, 3), (43, 3), (51, 3), (59, 3), (67, 4), (83, 4), (99, 4), (115, 4), (131, 5), (163, 5), (195, 5),
   (227, 5), (258, 0)]

/-- Base and extra bits of a distance symbol. -/
def distBase : List (Nat × Nat) :=
  [(1, 0), (2, 0), (3, 0), (4, 0), (5, 1), (7, 1), (9, 2), (13, 2), (17, 3), (25, 3), (33, 4), (49, 4), (65, 5), (97, 5),
   (129, 6), (193, 6), (257, 7), (385, 7), (513, 8), (769, 8), (1025, 9), (1537, 9), (2049, 10), (3073, 10), (4097, 11),
   (6145, 11), (8193, 12), (12289, 12), (16385, 13), (24577, 13)]

/-- The fixed codes. -/
def fixedLit : List Nat :=
  List.replicate 144 8 ++ List.replicate 112 9 ++ List.replicate 24 7 ++ List.replicate 8 8
/-- The fixed distance codes: 32 of length 5, of which 30 and 31 stand for nothing. -/
def fixedDist : List Nat := List.replicate 32 5

/-- The order of the code-length lengths. -/
def clOrder : List Nat := [16, 17, 18, 0, 8, 7, 9, 6, 10, 5, 11, 4, 12, 3, 13, 2, 14, 1, 15]

/-- Read `n` code-length lengths of 3 bits, in their order. -/
def State.clLengths (s : State) (c : Cmd) (pos : Nat) : Nat → Parse (List Nat)
  | 0 => .ok [] pos
  | n + 1 =>
    match s.jobBits c pos 3 with
    | .bad => .bad
    | .fault e => .fault e
    | .ok x p =>
      match s.clLengths c p n with
      | .ok xs q => .ok (x :: xs) q
      | .bad => .bad
      | .fault e => .fault e

/-- Read `n` code lengths with their repeats, after those in `acc` (latest first). -/
def State.codeLengths (s : State) (c : Cmd) (h : Huff) (n : Nat) : Nat → List Nat → Nat → Parse (List Nat)
  | 0, _, _ => .bad
  | fuel + 1, acc, pos =>
    if n = acc.length then .ok acc.reverse pos
    else if n < acc.length then .bad
    else
      match s.symbol c h pos with
      | .bad => .bad
      | .fault e => .fault e
      | .ok x p =>
        if x < 16 then s.codeLengths c h n fuel (x :: acc) p
        else
          let (base, extra, v) : Nat × Nat × Option Nat :=
            if x = 16 then (3, 2, acc.head?) else if x = 17 then (3, 3, some 0) else (11, 7, some 0)
          match v with
          | none => .bad
          | some v =>
            match s.jobBits c p extra with
            | .bad => .bad
            | .fault e => .fault e
            | .ok r q => s.codeLengths c h n fuel (List.replicate (base + r) v ++ acc) q

/-- The code-length description of a dynamic block. -/
def State.dynTables (s : State) (c : Cmd) (pos : Nat) : Parse (List Nat × List Nat) :=
  match s.jobBits c pos 14 with
  | .bad => .bad
  | .fault e => .fault e
  | .ok x p =>
    let nlen := x % 32 + 257
    let ndist := x / 32 % 32 + 1
    let ncode := x / 1024 + 4
    match s.clLengths c p ncode with
    | .bad => .bad
    | .fault e => .fault e
    | .ok cl q =>
      let ls := (upTo 0 19).map fun n => cl.getD (clOrder.idxOf n) 0
      if codeSlack (lengthCounts ls) ≠ 0 ∨ 286 < nlen ∨ 30 < ndist then .bad
      else
        match s.codeLengths c (Huff.of ls) (nlen + ndist) 400 [] q with
        | .bad => .bad
        | .fault e => .fault e
        | .ok all r =>
          let lit := all.take nlen
          let dist := all.drop nlen
          if lit.getD 256 0 = 0 ∨ lengthsOk lit = false ∨ (lengthsOk dist = false) then .bad else .ok (lit, dist) r

/-- A token of a compressed block. -/
inductive DToken where
  | lit (b : Nat)
  | stop
  | copy (len dist : Nat)

/-- Read a token of a compressed block. -/
def State.defToken (s : State) (c : Cmd) (hl hd : Huff) (pos : Nat) : Parse DToken :=
  match s.symbol c hl pos with
  | .bad => .bad
  | .fault e => .fault e
  | .ok x p =>
    if x < 256 then .ok (.lit x) p
    else if x = 256 then .ok .stop p
    else
      match lengthBase[x - 257]? with
      | none => .bad
      | some (lb, le) =>
        match s.jobBits c p le with
        | .bad => .bad
        | .fault e => .fault e
        | .ok lx q =>
          match s.symbol c hd q with
          | .bad => .bad
          | .fault e => .fault e
          | .ok y r =>
            match distBase[y]? with
            | none => .bad
            | some (db, de) =>
              match s.jobBits c r de with
              | .bad => .bad
              | .fault e => .fault e
              | .ok dx u => .ok (.copy (lb + lx) (db + dx)) u

/-- Decode the tokens of a compressed block; `c` carries the restart point of the block's start. Each token's output is
written before the next is read (R246). `last` says that the block is the final one. -/
def State.defTokens (s : State) (c : Cmd) (hl hd : Huff) (last : Bool) : Nat → Nat → Nat → State
  | 0, _, _ => s
  | fuel + 1, pos, o =>
    let used := ceilDiv pos 8
    match s.defToken c hl hd pos with
    | .bad => s.jobEnd c 2 o used
    | .fault e => s.jobFault c e used o
    | .ok .stop p => if last then s.jobEnd c 0 o (ceilDiv p 8) else s.jobAt c p o
    | .ok (.lit b) p =>
      (match s.putAll c o [BitVec.ofNat 8 b] with
       | .over s => s.jobEnd c 1 c.card.dstcap used
       | .fault s e o => s.jobFault c e used o
       | .ok s o' => s.defTokens c hl hd last fuel p o')
    | .ok (.copy n d) p =>
      if o < d then s.jobEnd c 2 o used
      else
        match s.putMatch c d o n with
        | .over s => s.jobEnd c 1 c.card.dstcap used
        | .fault s e o => s.jobFault c e used o
        | .ok s o' => s.defTokens c hl hd last fuel p o'

/-- The bytes of a stored block: each is a literal (R245). -/
def State.defStored (s : State) (c : Cmd) (last : Bool) : Nat → Nat → Nat → State
  | 0, pos, o => if last then s.jobEnd c 0 o (pos / 8) else s.jobAt c pos o
  | n + 1, pos, o =>
    match s.jobByte c (pos / 8) with
    | .bad => s.jobEnd c 2 o (pos / 8)
    | .fault e => s.jobFault c e (pos / 8) o
    | .ok b _ =>
      match s.putAll c o [BitVec.ofNat 8 b] with
      | .over s => s.jobEnd c 1 c.card.dstcap (pos / 8)
      | .fault s e o => s.jobFault c e (pos / 8) o
      | .ok s o' => s.defStored c last n (pos + 8) o'

/-- Decode one block of DEFLATE: its start is a restart point. -/
def State.deflateBlock (s : State) (c : Cmd) : State :=
  let used := ceilDiv c.beat 8
  match s.jobBits c c.beat 3 with
  | .bad => s.jobEnd c 2 c.done used
  | .fault e => s.jobFault c e used c.done
  | .ok h p =>
    let last := h % 2 == 1
    match h / 2 with
    | 0 =>
      (match s.jobBytes c (ceilDiv p 8) 4 with
       | .bad => s.jobEnd c 2 c.done used
       | .fault e => s.jobFault c e used c.done
       | .ok bs q =>
         let n := natOf (bs.take 2)
         if natOf (bs.drop 2) ≠ 65535 - n then s.jobEnd c 2 c.done used else s.defStored c last n (8 * q) c.done)
    | 1 => s.defTokens c (Huff.of fixedLit) (Huff.of fixedDist) last (8 * c.card.srclen + 1) p c.done
    | 2 =>
      (match s.dynTables c p with
       | .bad => s.jobEnd c 2 c.done used
       | .fault e => s.jobFault c e used c.done
       | .ok (lit, dist) q => s.defTokens c (Huff.of lit) (Huff.of dist) last (8 * c.card.srclen + 1) q c.done)
    | _ => s.jobEnd c 2 c.done used

/-- A step of the decoder (R245): a beat of STORED, a token of BREF, a block of DEFLATE. An empty stream is OK. -/
def State.siphonStep (s : State) (c : Cmd) : State :=
  if c.card.srclen = 0 then s.jobEnd c 0 0 0
  else
    match c.card.codec with
    | 0 => if c.card.dstcap = 0 then s.jobEnd c 1 0 0 else s.storedBeat c
    | 1 => s.brefStep c
    | _ => s.deflateBlock c

/-! ### Completion (R244) -/

/-- The completion record. -/
def jobRecord (c : Card) (e : JobEnd) : List Byte :=
  bytesOf (e.status + c.codec * 2 ^ 8 + e.outlen * 2 ^ 32 + e.inused * 2 ^ 64 + e.cause % 128 * 2 ^ 96 + c.tag * 2 ^ 128 +
    e.addr.toNat * 2 ^ 192) 32

/-- PROD of the ring of a finished job and whether it has room, or its header cannot be reached as a write reaches it (R244);
what of the header lies in a reserved tail reads as zero (R84). -/
def State.ringState (s : State) (c : Cmd) : Except AccFault (Loc × Nat × Bool) :=
  match s.cmdAccess c c.card.ring .write with
  | .error e => .error e
  | .ok l =>
    let prod := natOf (s.cmdPiece c l c.card.ring 8)
    let cons := natOf (s.cmdPiece c { l with key := l.key + 8 } (c.card.ring + 8) 8)
    .ok (l, prod, (prod + 2 ^ 64 - cons) % 2 ^ 64 != 2 ^ c.card.rsz)

/-- RING_BAD (R244): the job ends with no record. -/
def State.ringBad (s : State) (c : Cmd) : State :=
  ((s.showWriter (cmdWriter c.id) maskDev).dropCmd c.id).errVector c.vf Cause.ringBad.code (BitVec.ofNat 64 c.card.ring)

/-- A job's signal (R244): a fault of it goes to the error vector, for no thread takes part (R223). -/
def State.jobSignal (s : State) (c : Cmd) : State :=
  if c.card.sig then
    match s.cmdSignal c c.card.sigva with
    | .ok s => s
    | .error e => s.errVector c.vf e.1.code (BitVec.ofNat 64 e.2)
  else s

/-- The completion of a job (R244): the record, then PROD as an atomic release, then the signal. -/
def State.jobComplete (s : State) (c : Cmd) (e : JobEnd) : State :=
  match s.ringState c with
  | .error _ => s.ringBad c
  | .ok (l, prod, room) =>
    if !room then s
    else
      match s.cmdCells c (c.card.ring + 32 * (1 + prod % 2 ^ c.card.rsz)) (jobRecord c.card e),
            s.cmdCells c c.card.ring (bytesOf (prod + 1) 8) with
      | .error _, _ | _, .error _ => s.ringBad c
      | .ok (s, cells), .ok (_, count) =>
        let mask := if l.tgt = 3 then maskSys else maskDev
        let s := ((s.keep l.ent).cmdStore c cells).showWriter (cmdWriter c.id) mask
        let s := s.writeAtom (cmdWriter c.id) c.agent mask count [] c.vf
        ((s.showWriter (cmdWriter c.id) mask).jobSignal c).dropCmd c.id

end Sys2Proof.Machine
end

