-- ==== Sys2Proof/Machine/Matrix.lean ====
section
/-!
DEFINITION. The matrix engine (spec/11_isa_matrix.md R251 to R267): arming and signing, fragments, the engine queue, and
the operations on tiles.
-/
namespace Sys2Proof.Machine

/-! ### The queue (R252, R253) -/

/-- The operations of a core's matrix engine, in queue order. -/
def State.matQueue (s : State) (core : Nat) : List MatOp := s.mats.filter fun m => m.core == core

/-- The engine's queue is full. -/
def State.matFull (s : State) (core : Nat) : Bool := decide (8 ≤ (s.matQueue core).length)

/-- The physical tile of a tile name, when it is granted (R251). -/
def State.granted (s : State) (ck : Nat) (t : Tile) : Option Nat := (s.crew? ck).bind fun cr => cr.tiles[t.toNat]?

/-- The state with a matrix operation changed. -/
def State.modMat (s : State) (id : Nat) (f : MatOp → MatOp) : State :=
  { s with mats := s.mats.map fun m => if m.id = id then f m else m }

/-- The operation is a team operation. -/
def MatOp.isTeam (m : MatOp) : Bool :=
  match m.i with
  | .mma _ _ _ _ _ _ _ _ _ _ _ _ => true
  | .mmas _ _ _ _ _ _ _ _ _ _ _ _ => true
  | _ => false

/-- The operation is one that the thread waits for at a WAITA (R253). -/
def MatOp.pendingOf (m : MatOp) (k : Nat) (t : Thread) : Bool :=
  m.core == coreOf k && m.crew == t.crew &&
    (if m.isTeam then decide (m.gang0 ≤ t.gang) && decide (t.gang < m.gang0 + m.team) else m.thr == k && m.gang0 == t.gang)

/-- WAITA holds the thread back (R139, R253). -/
def State.matPending (s : State) (k : Nat) (t : Thread) : Bool := !t.sig.isEmpty || s.mats.any fun m => m.pendingOf k t

/-- A new operation of a thread. -/
def State.newMat (s : State) (i : Instr) (k : Nat) (t : Thread) (tile : Nat) : MatOp :=
  { id := s.nextId, core := coreOf k, crew := t.crew, thr := k, i := i, gang0 := t.gang, team := 1, sa := 0, idx := 0
    tile := tile, started := none, want := [], got := [], vals := [], flags := 0 }

/-- An operation enters the queue; an MMAS takes its sectors as an engine read command (R252, R262). -/
def State.pushMat (s : State) (m : MatOp) : State :=
  let s := { s with mats := s.mats ++ [m], nextId := s.nextId + 1 }
  let (s, want, got) := s.takeAll m.id m.want
  s.modMat m.id fun m => { m with want := want, got := got }

/-! ### CONV (R255) -/

/-- The gangs of team q. -/
def teamMask (team q : Nat) : Word := BitVec.ofNat 32 ((2 ^ team - 1) * 2 ^ (q * team))

/-- CONV (R255). -/
def execConv (g : Guard) (c : Conv) (team : BitVec 4) (s : State) : Out :=
  word (.conv g c team) s fun k t =>
    let ck := t.crewKey k
    match s.crew? ck with
    | none => s.trap k .convMismatch
    | some cr =>
      let r := cr.conv c.toNat
      if cr.team = 0 ∨ cr.ngang / cr.team ≤ team.toNat then s.trap k .convMismatch
      else if r.st = .armed ∧ r.count ≠ 0 then s.trap k .convMismatch
      else
        (s.modCrew ck fun cr => cr.setConv c.toNat
          { r with st := .armed, members := teamMask cr.team team.toNat, expect := 32 * cr.team, count := 0, op := none
                   rel := [] }).retire k

/-! ### Signing MMA and MMAS (R256, R257) -/

/-- A register that is a team arming: the first gang of the team (R255). -/
def Crew.teamOf (cr : Crew) (r : ConvReg) : Option Nat :=
  if cr.team = 0 ∨ r.expect ≠ 32 * cr.team then none
  else ((upTo 0 (cr.ngang / cr.team)).find? fun q => r.members == teamMask cr.team q).map fun q => q * cr.team

/-- What a signature of MMA or MMAS needs: the fragment registers, whether a scale register is held, and the address. -/
structure Signing where
  tile  : Nat
  gang0 : Nat
  frag  : List Nat
  sr    : Option Nat
  sa    : Word
  op    : OpRec

/-- The registers that a signer holds (R257). -/
def Signing.hold (x : Signing) (k : Nat) (t : Thread) : List Nat :=
  x.frag ++ (match x.sr with
    | some r => if 32 * (t.gang - x.gang0) + laneInGang k < 64 then [r] else []
    | none => [])

/-- The holds of a register's signers pass to the operation that has issued (R257). -/
def State.passHolds (s : State) (ck : Nat) (c : Conv) (id : Nat) : State :=
  s.modCrewThreads ck fun _ t => { t with held := t.held.map fun h => if h.1 = c.toNat then (16 + id, h.2) else h }

/-- The thread signs (R37, R256): the last signature issues the operation. -/
def State.signMat (s : State) (i : Instr) (k : Nat) (t : Thread) (cr : Crew) (c : Conv) (x : Signing)
    (sectors : List (Nat × Bool)) : State :=
  let ck := t.crewKey k
  let r := cr.conv c.toNat
  if t.sig.any fun m => m.1 == c then s.park k (.conv c)
  else if r.mismatch x.op then s.trap k .convMismatch
  else if r.count + 1 = r.expect ∧ s.matFull (coreOf k) = true then s.stall
  else
    let s := s.modThread k fun t => { t with held := t.held ++ (x.hold k t).map fun n => (c.toNat, n) }
    match s.addSignature k t c x.op with
    | (s, false) => s.retire k
    | (s, true) =>
      let m : MatOp := { s.newMat i k t x.tile with gang0 := x.gang0, team := cr.team, sa := x.sa.toNat, want := sectors }
      ((s.passHolds ck c m.id).pushMat m).retire k

/-- The scoreboard's view of the full fragments (R30, R46, R150): an answer when one of them keeps the thread back. -/
def State.fragGate (s : State) (k : Nat) (t : Thread) (g : Guard) (regs : List Nat) : Option State :=
  let n : Info := { g := g, reads := regs }
  if n.stopsAtLog t then some (s.park k .fault)
  else if n.breaksWindow t then some (s.trap k .laViolation)
  else if n.busy t then some s.stall
  else none

/-- The fragments of an MMA or MMAS whose register is a team arming, with its guard (R256): as the scoreboard sees them. -/
def State.fragments (s : State) (k : Nat) (t : Thread) (i : Instr) : Option (Guard × List Nat) :=
  let size (c : Conv) : Option Nat :=
    (s.crew? (t.crewKey k)).bind fun cr => (cr.teamOf (cr.conv c.toNat)).map fun _ => 32 / cr.team
  let scale (sc : Bool) (sr : Reg) : List Nat := if sc then [sr.toNat] else []
  match i with
  | .mma g _ _ _ _ _ sc sr _ a b c => (size c).map fun n => (g, regNums a n ++ regNums b n ++ scale sc sr)
  | .mmas g _ _ _ _ _ sc sr _ a b c => (size c).map fun n => (g, regNums a n ++ [b.toNat] ++ scale sc sr)
  | _ => none

/-- The checks of R256 up to the fragments, then `next` with the crew, the first gang and the registers per operand. -/
def State.signCheck (s : State) (i : Instr) (k : Nat) (t : Thread) (tile : Tile) (c : Conv)
    (next : Crew → Nat → Nat → Nat → State) : State :=
  match s.granted (t.crewKey k) tile, s.crew? (t.crewKey k) with
  | some p, some cr =>
    (match s.convCheck k { t with sig := [] } c with
     | some s' => s'
     | none =>
       match cr.teamOf (cr.conv c.toNat) with
       | none => s.trap k .convMismatch
       | some g0 =>
         if s.fenced.contains (matrixUnit (coreOf k)) then s.imprecise i k .engineFenced 0 else next cr p g0 (32 / cr.team))
  | _, _ => s.trap k .tileGrant

/-- MMA (R256, R259). -/
def execMma (g : Guard) (ty : MmaType) (af8b bf8b ua ub sc : Bool) (sr : Reg) (tile : Tile) (a b : Reg) (c : Conv)
    (s : State) : Out :=
  let i : Instr := .mma g ty af8b bf8b ua ub sc sr tile a b c
  word i s fun k t =>
    s.signCheck i k t tile c fun cr p g0 n =>
      let frag := regNums a n ++ regNums b n
      let regs := frag ++ (if sc then [sr.toNat] else [])
      if regs.any fun r => decide (8 * t.alloc ≤ r) then s.trap k .regRange
      else
        match s.fragGate k t g regs with
        | some s' => s'
        | none =>
          s.signMat i k t cr c
            { tile := p, gang0 := g0, frag := frag, sr := if sc then some sr.toNat else none, sa := 0
              op := opRecord i (tile.setWidth 8) a (b.setWidth 32) } []

/-- MMAS (R256, R259, R262). -/
def execMmas (g : Guard) (ty : MmaType) (af8b bf8b ua ub sc : Bool) (sr : Reg) (tile : Tile) (a b : Reg) (c : Conv)
    (s : State) : Out :=
  let i : Instr := .mmas g ty af8b bf8b ua ub sc sr tile a b c
  word i s fun k t =>
    s.signCheck i k t tile c fun cr p g0 n =>
      let frag := regNums a n
      let regs := frag ++ [b.toNat] ++ (if sc then [sr.toNat] else [])
      let sa := t.r b
      if regs.any fun r => decide (8 * t.alloc ≤ r) then s.trap k .regRange
      else if sa.toNat % 2048 ≠ 0 then s.trap k .misaligned (sa.setWidth 64)
      else if !cr.inAlloc sa.toNat 4096 then s.trap k .scratchRange (sa.setWidth 64)
      else
        match s.fragGate k t g regs with
        | some s' => s'
        | none =>
          s.signMat i k t cr c
            { tile := p, gang0 := g0, frag := frag, sr := if sc then some sr.toNat else none, sa := sa
              op := opRecord i (tile.setWidth 8) a sa }
            ((sectorRange (crewAddr (coreOf k) cr sa.toNat) 4096).map fun q => (q, false))

/-! ### Per-thread operations (R264) -/

/-- The frame of a per-thread matrix instruction: TILE_GRANT, then R253 and the queue, then its issue. -/
def State.matIssue (s : State) (i : Instr) (k : Nat) (t : Thread) (tile : Tile) (go : Nat → State) : State :=
  match s.granted (t.crewKey k) tile with
  | none => s.trap k .tileGrant
  | some p =>
    if s.fenced.contains (matrixUnit (coreOf k)) then s.imprecise i k .engineFenced 0
    else if !t.sig.isEmpty || s.matFull (coreOf k) then s.stall
    else go p

/-- ACLR (R264). -/
def execAclr (g : Guard) (iz : Bool) (tile : Tile) (s : State) : Out :=
  let i : Instr := .aclr g iz tile
  word i s fun k t => s.matIssue i k t tile fun p => (s.pushMat (s.newMat i k t p)).retire k

/-- ANCH (R264). -/
def execAnch (g : Guard) (tile : Tile) (anchor : BitVec 8) (s : State) : Out :=
  let i : Instr := .anch g tile anchor
  word i s fun k t => s.matIssue i k t tile fun p => (s.pushMat (s.newMat i k t p)).retire k

/-- APUT: its quad is held until it starts (R264, R269). -/
def execAput (g : Guard) (tile : Tile) (a b : Reg) (s : State) : Out :=
  let i : Instr := .aput g tile a b
  word i s fun k t => s.matIssue i k t tile fun p =>
    let m : MatOp := { s.newMat i k t p with idx := t.r b }
    let s := s.modThread k fun t => { t with held := t.held ++ (regNums a 4).map fun n => (16 + m.id, n) }
    (s.pushMat m).retire k

/-- The result of a matrix operation is still outstanding: its destinations are pending until it completes. -/
def matOutst (i : Instr) (t : Thread) (id : Nat) (dests : List Nat) (isFloat : Bool) : Outst :=
  { i := i, pc := t.pc, cb := t.cb, dests := dests, vals := [], flags := 0, isFloat := isFloat, isMem := false, target := 0
    port := 12, va := 0, mat := some id, at_ := t.issued + 1 }

/-- AFLAG (R264, R266). -/
def execAflag (g : Guard) (an : Bool) (tile : Tile) (a b : Reg) (s : State) : Out :=
  let i : Instr := .aflag g an tile a b
  word i s fun k t => s.matIssue i k t tile fun p =>
    let m : MatOp := { s.newMat i k t p with idx := if an then 0 else t.r b }
    (s.pushMat m).issueLong k 0 (matOutst i t m.id [a.toNat] false)

/-- The value of one element as AGET reads it (R88, R265). -/
def agetValue (i32 : Bool) (rm : RMode) (x : Elem) (anchor : Int) : Word × FFlags :=
  if i32 then
    if x.fl ≠ 0 then (0, fNV)
    else
      let r := toIntRange (-2147483648) 2147483647 rm (.fin (decide (x.s.toInt < 0)) x.s.toInt.natAbs anchor)
      (BitVec.ofNat 32 (modPow r.1 32), r.2)
  else
    let r := roundAcc .f32 rm false x anchor
    (BitVec.ofNat 32 r.1, r.2)

/-- The element number of an index register: row × 64 + column (R264). -/
def elemIndex (gb : Word) : Nat := bits gb.toNat 11 6 * 64 + bits gb.toNat 5 0

/-- All that AGET reads: the values and the union of their flags (R265). -/
def ATile.aget (t : ATile) (i32 w4 : Bool) (rm : RMode) (gb : Word) : List Word × FFlags :=
  let n := elemIndex gb
  let rs := (if w4 then upTo (n / 4 * 4) 4 else [n]).map fun e => agetValue i32 rm (t.elem e) t.anchor
  (rs.map (·.1), rs.foldl (fun f r => f ||| r.2) 0)

/-- A DRAIN issued before an operation on the tile has not read row 63 yet (R242). -/
def State.drainAhead (s : State) (core tile id : Nat) : Bool :=
  s.cmds.any fun c =>
    match c.i with
    | .drain _ _ _ _ _ _ _ _ _ => c.drainTile == core * 16 + tile && decide (c.id < id) && decide (c.beat < 64)
    | _ => false

/-- AGET (R264, R265). While an enable bit of FCTL is set its trap is precise (R178): it waits until the queue is empty and
reads at once. -/
def execAget (g : Guard) (la : BitVec 4) (rm : RMode) (i32 w4 : Bool) (tile : Tile) (a b : Reg) (s : State) : Out :=
  let i : Instr := .aget g la rm i32 w4 tile a b
  word i s fun k t => s.matIssue i k t tile fun p =>
    let dests := regNums a (if w4 then 4 else 1)
    if t.floatTraps then
      if !(s.matQueue (coreOf k)).isEmpty || s.drainAhead (coreOf k) p s.nextId then s.stall
      else
        let r := (s.tile (coreOf k * 16 + p)).aget i32 w4 rm (t.r b)
        match trapCause t.fctl r.2 with
        | some c => s.trap k c
        | none =>
          let s := (s.modThread k fun t => (t.orFlags r.2).setRegs a.toNat r.1).retire k
          if la = 0 then s else s.modThread k fun t => { t with wins := t.openWin la.toNat dests true }
    else
      let m : MatOp := { s.newMat i k t p with idx := t.r b }
      (s.pushMat m).issueLong k la.toNat (matOutst i t m.id dests true)

/-! ### Fragments (R258, R260, R263) -/

/-- Element width of an input type (R260). -/
def mmaWidth : MmaType → Nat
  | .bf16 | .f16 => 16
  | .i8 | .f8 => 8
  | .i4 => 4

/-- The depth K (R260). -/
def mmaDepth (ty : MmaType) : Nat := 512 / mmaWidth ty

/-- The value of an input element (R78, R261). -/
def mmaElem (ty : MmaType) (f8b u : Bool) (x : Nat) : FVal :=
  match ty with
  | .bf16 => decodeFloat .bf16 x
  | .f16 => decodeFloat .f16 x
  | .f8 => decodeFloat (if f8b then .f8b else .f8a) x
  | .i8 => intVal (if u then (x : Int) else signedOf 8 x)
  | .i4 => intVal (if u then (x : Int) else signedOf 4 x)

/-- The elements packed in words (R81). -/
def unpackElems (w : Nat) (ws : List Word) : List Nat := ws.flatMap fun x => (upTo 0 (32 / w)).map fun i => elemOf x w i

/-- The team thread of a team index (R258). -/
def State.teamThread (s : State) (m : MatOp) (ti : Nat) : Option Thread :=
  (List.find? (fun (x : Nat × Thread) => x.2.gang == m.gang0 + ti / 32 && laneInGang x.1 == ti % 32)
    (s.crewThreads (m.core * 64 + m.crew))).map (·.2)

/-- The 16 row (or column) registers of row (or column) i of an operand at register `a` (R258). -/
def State.fragWords (s : State) (m : MatOp) (a : Reg) (i : Nat) : List Word :=
  let n := 32 / m.team
  (upTo 0 (16 / n)).flatMap fun h =>
    match s.teamThread m (i + 64 * h) with
    | some t => t.rs a n
    | none => List.replicate n 0

/-- The scales of a team thread's SR (R263). -/
def State.teamScale (s : State) (m : MatOp) (sr : Reg) (ti : Nat) : Int × Int :=
  match s.teamThread m ti with
  | some t => (signedOf 8 (elemOf (t.r sr) 8 0), signedOf 8 (elemOf (t.r sr) 8 1))
  | none => (0, 0)

/-- Add the products of a row of A and a column of B to an element (R87). -/
def addProducts (anchor s : Int) : List FVal → List FVal → Elem → Elem
  | a :: as, b :: bs, x => addProducts anchor s as bs (x.add (contribution a b s anchor))
  | _, _, x => x

/-- A tile with every element changed, in order. -/
def ATile.mapElems (t : ATile) (f : Nat → Elem → Elem) : ATile :=
  { t with els := (upTo 0 4096).filterMap fun n =>
      let x := f n (t.elem n)
      if x.s = 0 ∧ x.fl = 0 then none else some (n, x) }

/-- The effect of MMA or MMAS on its tile (R261): `bw` gives the words of column j of B. -/
def State.mmaTile (s : State) (m : MatOp) (ty : MmaType) (af8b bf8b ua ub sc : Bool) (sr a : Reg) (bw : Nat → List Word) :
    ATile :=
  let w := mmaWidth ty
  let rows := (upTo 0 64).map fun i => (unpackElems w (s.fragWords m a i)).map (mmaElem ty af8b ua)
  let cols := (upTo 0 64).map fun j => (unpackElems w (bw j)).map (mmaElem ty bf8b ub)
  let sa := (upTo 0 64).map fun i => if sc then (s.teamScale m sr i).1 else 0
  let sb := (upTo 0 64).map fun j => if sc then (s.teamScale m sr j).2 else 0
  let t := s.tile (m.core * 16 + m.tile)
  t.mapElems fun n x =>
    addProducts t.anchor (sa.getD (n / 64) 0 + sb.getD (n % 64) 0) (rows.getD (n / 64) []) (cols.getD (n % 64) []) x

/-- Column j of an MMAS's image (R261). -/
def State.imageColumn (s : State) (m : MatOp) (j : Nat) : List Word :=
  match s.crew? (m.core * 64 + m.crew) with
  | some cr => wordsOf (s.readScr (crewAddr m.core cr (m.sa + 64 * j)) 64)
  | none => List.replicate 16 0

/-! ### Starting and completing (R252, R257, R261, R262) -/

/-- The tile after an operation's effect, and the values it read with their flags. -/
def State.matEffect (s : State) (m : MatOp) : ATile × List Word × FFlags :=
  let t := s.tile (m.core * 16 + m.tile)
  let n := elemIndex m.idx
  match m.i with
  | .mma _ ty af8b bf8b ua ub sc sr _ a b _ => (s.mmaTile m ty af8b bf8b ua ub sc sr a (s.fragWords m b), [], 0)
  | .mmas _ ty af8b bf8b ua ub sc sr _ a _ _ => (s.mmaTile m ty af8b bf8b ua ub sc sr a (s.imageColumn m), [], 0)
  | .aclr _ iz _ => ({ anchor := if iz then 0 else -64, els := [] }, [], 0)
  | .anch _ _ an => ({ t with anchor := an.toInt }, [], 0)
  | .aput _ _ a _ =>
    let q := match s.thread? m.thr with | some th => th.rs a 4 | none => []
    (t.setElem n { s := BitVec.ofNat 128 (natOfWords q), fl := BitVec.ofNat 4 (bits m.idx.toNat 15 12) }, [], 0)
  | .aget _ _ rm i32 w4 _ _ _ => (t, t.aget i32 w4 rm m.idx)
  | .aflag _ an _ _ _ =>
    (t, [if an then BitVec.ofInt 32 t.anchor
         else BitVec.ofNat 32 ((upTo 0 8).foldl (fun x k => x + (t.elem (n / 8 * 8 + k)).fl.toNat * 16 ^ k) 0)], 0)
  | _ => (t, [], 0)

/-- The partition of a crew runs (R351). -/
def State.crewRuns (s : State) (ck : Nat) : Bool :=
  match s.crew? ck with
  | some c => s.mayRun c.vf ck
  | none => true

/-- The head of a core's queue can start: it is not running, its sectors are taken, no DRAIN issued before it still reads
its tile, and its partition runs (R242, R252, R262, R352). -/
def State.matStartable (s : State) (core : Nat) : Option MatOp :=
  match s.matQueue core with
  | [] => none
  | m :: _ =>
    if m.started.isNone && m.want.isEmpty && !s.drainAhead core m.tile m.id && !s.fenced.contains (matrixUnit core) &&
        s.crewRuns (core * 64 + m.crew) then some m
    else none

/-- An operation starts: its registers and image are read and released, its effect on the tile is performed (R257, R261,
R262). -/
def State.startMat (s : State) (m : MatOp) : State :=
  let (t, vals, fl) := s.matEffect m
  let s := (s.setTile (m.core * 16 + m.tile) t).setSectors (m.got.map (·.1)) .ready
  let s := s.modMat m.id fun m => { m with started := some s.now, got := [], vals := vals, flags := fl }
  (s.modCrewThreads (m.core * 64 + m.crew) fun _ t => { t with held := t.held.filter fun h => h.1 != 16 + m.id }).takeWaiting

/-- MATRIX_OP_START: the core's engine starts the head of its queue. -/
def execMatrixOpStart (s : State) : Out :=
  match s.matStartable (s.who.headD 0) with
  | some m => .next (s.startMat m)
  | none => .next s

/-- The fixed run time of an operation (R252). -/
def MatOp.cycles (m : MatOp) : Nat :=
  match m.i with
  | .mma _ _ _ _ _ _ _ _ _ _ _ _ => 8
  | .mmas _ _ _ _ _ _ _ _ _ _ _ _ => 8
  | .aclr _ _ _ => 16
  | .aget _ _ _ _ _ _ _ _ => 2
  | _ => 1

/-- The head of a core's queue has run its time. -/
def State.matDone (s : State) (core : Nat) : Option MatOp :=
  match s.matQueue core with
  | [] => none
  | m :: _ =>
    match m.started with
    | some n => if n + m.cycles ≤ s.now then some m else none
    | none => none

/-- The destinations of an AGET or AFLAG receive their values, but for those that a younger word has written since (R253), and
its flags enter FSTAT (R265). -/
def Thread.matResult (t : Thread) (m : MatOp) : Thread :=
  match t.outs.find? fun o => o.mat == some m.id with
  | none => t
  | some o =>
    { (((o.dests.zip m.vals).filter fun x => !o.dead.contains x.1).foldl (fun (t : Thread) x => t.setReg x.1 x.2)
        (t.orFlags m.flags)) with outs := t.outs.filter fun o => o.mat != some m.id }

/-- The result of an operation whose thread is evicted: it is outstanding with its values, and reaches the registers once the
thread is restored (R370, R385). -/
def Thread.matArrived (t : Thread) (m : MatOp) : Thread :=
  { t with outs := t.outs.map fun o => if o.mat = some m.id then { o with mat := none, vals := m.vals, flags := m.flags } else o }

/-- An operation completes and leaves the queue. -/
def State.completeMat (s : State) (m : MatOp) : State :=
  let s := s.modThread m.thr fun t => t.matResult m
  { s with mats := s.mats.filter fun x => x.id != m.id, evicted := s.evicted.map fun e => { e with t := e.t.matArrived m } }

/-- MATRIX_OP_COMPLETE: the operation that the core's engine runs completes. -/
def execMatrixOpComplete (s : State) : Out :=
  match s.matDone (s.who.headD 0) with
  | some m => .next (s.completeMat m)
  | none => .next s

end Sys2Proof.Machine
end

