-- ==== Sys2Proof/Machine/Select.lean ====
section
/-!
DEFINITION. Page selection, sampling select, tree masks and token merging (spec/13_selection_merging_masks.md R294 to
R312).
-/
namespace Sys2Proof.Machine

/-! ### What these commands share (R294, R295) -/

/-- Two ranges of bytes meet. -/
def overlap (a n b m : Nat) : Bool := decide (a < b + m) && decide (b < a + n) && decide (0 < n) && decide (0 < m)

/-- The precise causes of scratchpad operands, each (address, bytes): every alignment to 32 bytes first, then every range. -/
def scratchOperands (cr : Crew) (xs : List (Word × Nat)) : Option (Cause × Word) :=
  match xs.find? fun x => x.1.toNat % 32 != 0 with
  | some x => some (.misaligned, x.1)
  | none => (xs.find? fun x => !cr.inAlloc x.1.toNat x.2).map fun x => (.scratchRange, x.1)

/-- Every range that a command writes lies in the task's regions (R294). -/
def State.taskWrites (s : State) (k : Nat) (t : Thread) (cr : Crew) (xs : List (Word × Nat)) : Bool :=
  !t.inTask || xs.all fun x => s.ownRegion k t cr x.1.toNat x.2

/-- The sectors of a range of a crew, as read or written. -/
def wantRange (core : Nat) (cr : Crew) (a : Word) (n : Nat) (write : Bool) : List (Nat × Bool) :=
  (sectorRange (crewAddr core cr a.toNat) n).map fun q => (q, write)

/-- The command that a unit serves next: the first one of a running partition, once it has its sectors and unless a fault has
stopped it; commands are served in arrival order, so those behind it wait (R21, R222, R294, R351). -/
def State.unitHead (s : State) (u : EngUnit) : Option Cmd :=
  if s.fenced.contains u.code then none
  else
    match s.firstOf u with
    | some c => if c.ready then some c else none
    | none => none

/-- The command's result is in place: its sectors are READY and it leaves its unit. -/
def State.endSelect (s : State) (c : Cmd) : State := (s.finishAll c.id).dropCmd c.id

/-- The whole of a command's output area, before its values are written: what the spec gives no value is open
(notes/assumptions/4.md). -/
def State.openArea (s : State) (c : Cmd) (a n : Nat) : State := s.writeScr a ((upTo 0 n).map fun i => Config.openByte c.id i)

/-! ### Page selection (R296 to R298) -/

/-- The parameters of a PSEL in gb+1: NC, k and QH; none when they are out of range (R296). -/
def pselParams (x : Nat) : Option (Nat × Nat × Nat) :=
  let nc := bits x 12 0
  let k := bits x 22 16
  if nc = 0 ∨ 4096 < nc ∨ k = 0 ∨ 64 < k ∨ bits x 15 13 ≠ 0 ∨ x.testBit 23 = true ∨ bits x 31 28 ≠ 0 then none
  else some (nc, k, bits x 27 24 + 1)

/-- The output of a PSEL in bytes (R296). -/
def pselSize (k qh : Nat) : Nat := alignUp (32 + 4 * k * qh) 32

/-- The LIVE entries of a context, as a PSEL's map read finds them (R137, R297). -/
def State.liveEntries (s : State) (c : Cmd) (x : Ctx) : Except AccFault (State × List KvEntry) :=
  foldE (fun (a : State × List KvEntry) n =>
    match a.1.mapLink c x n with
    | .error e => .error e
    | .ok (s, le) =>
      .ok (s, if le.state = 1 then a.2 ++ [{ KvEntry.zero 0 with slot := n, len := le.len, base := le.base, seg := le.seg }] else a.2))
    (upTo 0 x.slots) (s, [])

/-- What a PSEL reads at issue: the context descriptor, the tail entry, the segment table's header and the LIVE entries
(R297). -/
def State.pselFetch (s : State) (c : Cmd) (x : Ctx) : Except AccFault (State × Cmd) :=
  match s.cmdRead c x.va 64 with
  | .error e => .error e
  | .ok (s, xb) =>
    match s.cmdRead c x.tailVa 32 with
    | .error e => .error e
    | .ok (s, tb) =>
      if (TailE.read tb).resv then .error (.kvContext, x.tailVa)
      else
      match s.cmdRead c (s.part c.vf).segtab.toNat 64 with
      | .error e => .error e
      | .ok (s, hb) =>
        match s.liveEntries c x with
        | .error e => .error e
        | .ok (s, kv) => .ok (s, { c with recd := xb ++ hb ++ tb, kv := kv })

/-- The sectors of a PSEL (R295, R296). -/
def pselSectors (core : Nat) (cr : Crew) (ws : List Word) : List (Nat × Bool) :=
  let op (n : Nat) : Word := ws.getD n 0
  let (nc, n, qh) := (pselParams (op 6).toNat).getD (0, 0, 0)
  (wantRange core cr (op 4) (4 * nc) false ++ wantRange core cr (op 5) (op 7).toNat false).eraseDups ++
    wantRange core cr (op 0) (pselSize n qh) true

/-- PSEL (R296). Operands: OUT, CTX, layer and head, CL, QA, the parameters, and the query's bytes. -/
def execPsel (g : Guard) (d a b : Reg) (s : State) : Out :=
  let i : Instr := .psel g d a b
  word i s fun k t =>
    let out := t.r d
    let q := t.rs a 4
    let ctx := t.pair a
    let cl := q.getD 3 0
    let qa := t.r b
    let prm := t.reg (b.toNat + 1)
    let c := s.newCmd i k t (.weir (dieOf (coreOf k))) 0 (out :: q ++ [qa, prm])
    match pselParams prm.toNat, s.crew? (t.crewKey k) with
    | none, _ => s.trap k .selectBad
    | _, none => s.scrTrap k .scratchRange out
    | some (nc, n, qh), some cr =>
      let size := pselSize n qh
      match scratchOperands cr [(out, size), (cl, 4 * nc), (qa, 4)] with
      | some (e, x) => s.scrTrap k e x
      | none =>
        if !t.storeq.isEmpty then s.stall
        else
          match (s.forUnit k c).ctxOf c ctx.toNat with
          | .error e => s.issueFault i k e.1 (BitVec.ofNat 64 e.2)
          | .ok (s1, x) =>
            if x.malformed then s.issueFault i k .kvContext ctx
            else
              let qn := 4 * x.shape.d * qh
              if !cr.inAlloc qa.toNat qn then s.scrTrap k .scratchRange qa
              else if overlap out.toNat size cl.toNat (4 * nc) || overlap out.toNat size qa.toNat qn then s.trap k .selectBad
              else if !s.taskWrites k t cr [(out, size)] then s.scrTrap k .taskIrrevocable out
              else if decide (x.shape.layers ≤ (q.getD 2 0).toNat % 65536) || decide (x.shape.heads ≤ (q.getD 2 0).toNat / 65536) then
                s.issueFault i k .kvContext ctx
              else if s.fenced.contains c.unit.code then s.issueFault i k .engineFenced 0
              else
                match s1.pselFetch c x with
                | .error e => s.issueFault i k e.1 (BitVec.ofNat 64 e.2)
                | .ok (s2, c) =>
                  if s.cmdWaits t c.unit then s.stall
                  else
                    let ws := c.ops ++ [BitVec.ofNat 32 qn]
                    s.guardReads k t (s2.issueCmd k t { c with ops := ws, want := pselSectors (coreOf k) cr ws } false)

/-- A term of a bound: the greater of q × lo and q × hi; none when the bound is +∞ (R297). -/
def boundTerm (q lo hi : FVal) : Option FVal :=
  if q.isNan || q.isInf then none
  else if q.isZero then some (.fin false 0 0)
  else
    match q, lo, hi with
    | .fin _ _ _, .fin _ _ _, .fin _ _ _ =>
      (match mulVal q lo, mulVal q hi with
       | some x, some y => some (if cmpVal x y < 0 then y else x)
       | _, _ => none)
    | _, _, _ => none

/-- The bound of a query row against a summary's minima and maxima, exact (R297). -/
def boundSum (qs los his : List FVal) : FVal :=
  let ts := (qs.zip (los.zip his)).map fun (q, lo, hi) => boundTerm q lo hi
  if ts.any Option.isNone then .inf false else (sumVals .rne (ts.filterMap id)).getD (.inf false)

/-- What a candidate's handle names (R297). -/
inductive Candidate where
  | skip
  | tail
  | block (los his : List FVal)

/-- F32 values in bytes. -/
def floatsOf (bs : List Byte) : List FVal := (wordsOf bs).map f32Val

/-- Classify a candidate: a block's summary record is read (R297). -/
def State.candidate (s : State) (c : Cmd) (x : Ctx) (layer head : Nat) (h : Word) : Except AccFault (State × Candidate) :=
  let e := h.toNat / 2 ^ 24
  let b := h.toNat % 2 ^ 24
  if h = 0xFFFFFFFF then .ok (s, .skip)
  else if e < x.slots then
    match c.kv.find? fun v => v.slot == e with
    | none => .ok (s, .skip)
    | some v =>
      if ceilDiv v.len 32 ≤ b then .ok (s, .skip)
      else
        match s.segOf c c.segHdr v.seg with
        | .error er => .error er
        | .ok (_, none) => .error (.kvContext, x.entryVa e)
        | .ok (s, some g) =>
          if g.shape.layers ≤ layer ∨ g.shape.heads ≤ head then .ok (s, .skip)
          else
            match s.spaceRead c c.segHdr g.blist (g.sumAt b layer head) (g.shape.d / 4) with
            | .error er => .error er
            | .ok (s, bs) => .ok (s, .block (floatsOf (bs.take (4 * g.shape.d))) (floatsOf (bs.drop (4 * g.shape.d))))
  else if e = x.slots then .ok (s, if ceilDiv (TailE.read (c.recd.drop 128)).len 32 ≤ b then .skip else .tail)
  else .ok (s, .skip)

/-- The bound of a candidate for a query row; none for a skipped one. -/
def Candidate.bound (q : List FVal) : Candidate → Option FVal
  | .skip => none
  | .tail => some (.inf false)
  | .block lo hi => some (boundSum q lo hi)

/-- The handles a query row keeps (R298): by bound descending, then list position. -/
def keepRow (k : Nat) (cs : List (Word × Candidate)) (q : List FVal) : List Word :=
  let xs := cs.filterMap fun (h, c) => (c.bound q).map fun b => (h, b)
  let best := ((sortBy (fun a b => decide (0 ≤ cmpVal a.2 b.2)) xs).take k).map (·.1)
  best ++ List.replicate (k - best.length) 0xFFFFFFFF

/-- A PSEL that is resumed has kept no record: it reads its records again (R295, R297). -/
def State.pselAgain (s : State) (c : Cmd) : Except AccFault (State × Cmd) :=
  if !c.recd.isEmpty then .ok (s, c)
  else
    match s.ctxOf c (c.op2 1).toNat with
    | .error e => .error e
    | .ok (s, x) => if x.malformed then .error (.kvContext, x.va) else s.pselFetch c x

/-- PSEL on the records as it has read them (R297, R298). -/
def State.pselFetched (s : State) (c : Cmd) : Except AccFault State :=
  let x := Ctx.read (c.op2 1).toNat (c.recd.take 64)
  let lh := (c.op 3).toNat
  let (nc, k, qh) := (pselParams (c.op 6).toNat).getD (0, 0, 0)
  let list := wordsOf (s.readScr (s.cmdScr c (c.op 4).toNat) (4 * nc))
  let d := x.shape.d
  let qs := (upTo 0 qh).map fun h => floatsOf (s.readScr (s.cmdScr c ((c.op 5).toNat + 4 * d * h)) (4 * d))
  match foldE (fun (a : State × List (Word × Candidate)) h =>
      match a.1.candidate c x (lh % 65536) (lh / 65536) h with
      | .error e => .error e
      | .ok (s, cd) => .ok (s, a.2 ++ [(h, cd)])) list (s, []) with
  | .error e => .error e
  | .ok (s, cs) =>
    let skipped := (cs.filter fun z => (z.2.bound []).isNone).length
    let inf := (cs.filter fun z => qs.any fun q => z.2.bound q == some (.inf false)).length
    let out := s.cmdScr c (c.op 0).toNat
    let s := (s.openArea c out (pselSize k qh)).writeScr (out + 32) (bytesOfWords (qs.flatMap fun q => keepRow k cs q))
    .ok ((s.writeScr out (bytesOf (skipped + inf * 2 ^ 32) 32)).endSelect c)

/-- The whole of a PSEL (R297, R298). -/
def State.pselAll (s : State) (c : Cmd) : Except AccFault State :=
  match s.pselAgain c with
  | .error e => .error e
  | .ok (s, c) => s.pselFetched c

/-- PSEL_COMPLETE: a die's Weir performs its next PSEL (R294, R297, R298). -/
def execPselComplete (s : State) : Out :=
  match s.unitHead (.weir (s.who.headD 0)) with
  | some c => .next (s.cmdStep c (s.pselAll c))
  | none => .next s

/-! ### Sampling select (R299 to R302) -/

/-- The sectors of a TOPK or TOPP of n input bytes and an output of `size` bytes (R295). -/
def selectSectors (core : Nat) (cr : Crew) (spin : Bool) (ws : List Word) (n size : Nat) : List (Nat × Bool) :=
  (if spin then wantRange core cr (ws.getD 1 0) n false else []) ++ wantRange core cr (ws.getD 0 0) size true

/-- The input and output bytes of a TOPK or TOPP (R299). -/
def topkSizes (pairs : Bool) (n kk : Nat) : Nat × Nat := (n * (if pairs then 8 else 4), alignUp (32 + 8 * kk) 32)
/-- Those of a TOPP. -/
def toppSizes (n : Nat) : Nat × Nat := (8 * n, alignUp (32 + 8 * n) 32)

/-- A TOPK or TOPP whose parameters are in range (R299): `n` input bytes, aligned to `al`, and an output of `size` bytes.
Operands: OUT, IN, the parameters. -/
def State.selectIssue (s : State) (i : Instr) (k : Nat) (t : Thread) (spin : Bool) (d a b : Reg) (al : Nat) (sz : Nat × Nat) :
    State :=
  let (n, size) := sz
  let out := t.r d
  let inp : DWord := if spin then (t.r a).setWidth 64 else t.pair a
  let c := s.newCmd i k t .select 0 ([out, loWord inp, hiWord inp] ++ t.rs b 3)
  match s.crew? (t.crewKey k) with
  | none => s.scrTrap k .scratchRange out
  | some cr =>
    if out.toNat % 32 ≠ 0 then s.scrTrap k .misaligned out
    else if spin && inp.toNat % al != 0 then s.scrTrap k .misaligned (loWord inp)
    else if !cr.inAlloc out.toNat size then s.scrTrap k .scratchRange out
    else if spin && !cr.inAlloc inp.toNat n then s.scrTrap k .scratchRange (loWord inp)
    else if spin && overlap (out.toNat / 32) (size / 32) (inp.toNat / 32) ((inp.toNat + n + 31) / 32 - inp.toNat / 32) then
      s.trap k .selectBad
    else if !s.taskWrites k t cr [(out, size)] then s.scrTrap k .taskIrrevocable out
    else
      match (if spin then none else operandCause inp al) with
      | some e => s.issueFault i k e inp
      | none =>
        if s.fenced.contains c.unit.code then s.issueFault i k .engineFenced 0
        else if s.cmdWaits t c.unit then s.stall
        else
          s.issueCmd k t { c with want := selectSectors (coreOf k) cr spin c.ops n size } false

/-- TOPK (R299, R300). -/
def execTopk (g : Guard) (pairs spin : Bool) (d a b : Reg) (s : State) : Out :=
  let i : Instr := .topk g pairs spin d a b
  word i s fun k t =>
    let n := (t.r b).toNat
    let ibase := (t.reg (b.toNat + 1)).toNat
    let kk := (t.reg (b.toNat + 2)).toNat
    if n = 0 ∨ 2 ^ 24 < n ∨ kk = 0 ∨ 1024 < kk ∨ 2 ^ 32 < ibase + n ∨ (pairs = true ∧ ibase ≠ 0) then s.trap k .selectBad
    else s.selectIssue i k t spin d a b (if pairs then 8 else 4) (topkSizes pairs n kk)

/-- TOPP (R299, R301, R302). -/
def execTopp (g : Guard) (draw spin : Bool) (d a b : Reg) (s : State) : Out :=
  let i : Instr := .topp g draw spin d a b
  word i s fun k t =>
    let n := (t.r b).toNat
    if n = 0 ∨ 4096 < n ∨ (f32Val (t.reg (b.toNat + 1))).isNan = true then s.trap k .selectBad
    else s.selectIssue i k t spin d a b 8 (toppSizes n)

/-- The entries (value, index) of words. -/
def pairEntries : List Word → List (Word × Word)
  | v :: x :: ws => (v, x) :: pairEntries ws
  | _ => []

/-- The order of TOPK and TOPP: value descending, index ascending; equal ones keep their input order (R300, R301). -/
def entryBefore (a b : Word × Word) : Bool :=
  let c := cmpVal (f32Val a.1) (f32Val b.1)
  decide (0 < c) || (c == 0 && decide (a.2.toNat ≤ b.2.toNat))

/-- The entries' bytes. -/
def entryBytes (es : List (Word × Word)) : List Byte := bytesOfWords (es.flatMap fun e => [e.1, e.2])

/-- A TOPK's output: the entries written, the filling, and the status words (R300, R302). -/
def topkResult (k : Nat) (es : List (Word × Word)) : List (Word × Word) × List Word :=
  let good := es.filter fun e => !(f32Val e.1).isNan
  let best := (sortBy entryBefore good).take k
  (best ++ List.replicate (k - best.length) (0x7FC00000, 0xFFFFFFFF),
   [BitVec.ofNat 32 best.length, BitVec.ofNat 32 (es.length - good.length), 0xFFFFFFFF, 0xFFFFFFFF, 0, 0, 0, 0])

/-- TOPP's mass of a value: RNE(v × 2^64) (R301). -/
def massOf (v : Word) : Nat :=
  match f32Val v with
  | .fin _ m e => (onGrid false m e (-64)).toNat
  | _ => 0

/-- TOPP excludes the value (R301). -/
def toppExcludes (v : Word) : Bool :=
  match f32Val v with
  | .nan _ => true
  | .inf _ => true
  | .fin neg m e => (neg && m != 0) || decide (0 < cmpVal (.fin neg m e) (intVal 1))

/-- The running sums of a list. -/
def sumsFrom : Nat → List Nat → List Nat
  | _, [] => []
  | a, x :: xs => (a + x) :: sumsFrom (a + x) xs

/-- P of R301. -/
def toppThreshold (p : Word) : Nat :=
  match f32Val p with
  | .inf neg => if neg then 0 else 2 ^ 64 + 1
  | .nan _ => 0
  | .fin neg m e => if neg then 0 else if 0 < cmpVal (.fin false m e) (intVal 1) then 2 ^ 64 + 1 else (onGrid false m e (-64)).toNat

/-- The kept count grows over equal probabilities (R301). -/
def toppExtend (vs : List Word) : Nat → Nat → Nat
  | 0, m => m
  | fuel + 1, m =>
    if m < vs.length ∧ cmpVal (f32Val (vs.getD m 0)) (f32Val (vs.getD (m - 1) 0)) = 0 then toppExtend vs fuel (m + 1) else m

/-- A TOPP's output: the kept entries and the status words (R301, R302). -/
def toppResult (draw : Bool) (p r : Word) (es : List (Word × Word)) : List (Word × Word) × List Word :=
  let xs := sortBy entryBefore (es.filter fun e => !toppExcludes e.1)
  let cs := sumsFrom 0 (xs.map fun e => massOf e.1)
  let n := xs.length
  let first := cs.findIdx fun c => decide (toppThreshold p ≤ c)
  let m := if n = 0 then 0 else toppExtend (xs.map (·.1)) n (min n (first + 1))
  let mass := if m = 0 then 0 else cs.getD (m - 1) 0
  let w := if mass = 0 then 0 else (cs.take m).findIdx fun c => decide (r.toNat * mass < c * 2 ^ 32)
  let chosen := draw && m != 0
  (xs.take m,
   [BitVec.ofNat 32 m, BitVec.ofNat 32 (es.length - n), if chosen then (xs.getD w (0, 0)).2 else 0xFFFFFFFF,
    if chosen then BitVec.ofNat 32 w else 0xFFFFFFFF] ++ wordsOfNat mass 3 ++ [0])

/-- The input bytes of a TOPK or TOPP: global, or the crew's scratchpad. -/
def State.selectInput (s : State) (c : Cmd) (spin : Bool) (n : Nat) : Except AccFault (State × List Byte) :=
  if spin then .ok (s, s.readScr (s.cmdScr c (c.op 1).toNat) n) else s.cmdRead c (c.op2 1).toNat n

/-- The whole of a TOPK or TOPP (R300 to R302). -/
def State.selectAll (s : State) (c : Cmd) : Except AccFault State :=
  let n := (c.op 3).toNat
  let put (s : State) (size : Nat) (r : List (Word × Word) × List Word) : State :=
    let out := s.cmdScr c (c.op 0).toNat
    (((s.openArea c out size).writeScr (out + 32) (entryBytes r.1)).writeScr out (bytesOfWords r.2)).endSelect c
  match c.i with
  | .topk _ pairs spin _ _ _ =>
    (match s.selectInput c spin (n * (if pairs then 8 else 4)) with
     | .error e => .error e
     | .ok (s, bs) =>
       let ws := wordsOf bs
       let es := if pairs then pairEntries ws else (ws.zip (upTo 0 n)).map fun (v, e) => (v, c.op 4 + BitVec.ofNat 32 e)
       .ok (put s (alignUp (32 + 8 * (c.op 5).toNat) 32) (topkResult (c.op 5).toNat es)))
  | .topp _ draw spin _ _ _ =>
    (match s.selectInput c spin (8 * n) with
     | .error e => .error e
     | .ok (s, bs) => .ok (put s (alignUp (32 + 8 * n) 32) (toppResult draw (c.op 4) (c.op 5) (pairEntries (wordsOf bs)))))
  | _ => .ok s

/-- SELECT_COMPLETE: the select unit performs its next command (R294, R300 to R302). -/
def execSelectComplete (s : State) : Out :=
  match s.unitHead .select with
  | some c => .next (s.cmdStep c (s.selectAll c))
  | none => .next s

/-! ### Tree masks (R303) -/

/-- A key is an ancestor of the query, or committed (R303). -/
def ancestor (j : Word) (v : DWord) (n : Word) : Bool :=
  decide (j.toNat < n.toNat) || (decide (j.toNat - n.toNat < 64) && v.getLsbD (j.toNat - n.toNat))

/-- ANC (R303). -/
def execAnc (g : Guard) (pd : Pred) (a b c : Reg) (s : State) : Out :=
  word (.anc g pd a b c) s fun k t => s.putP k pd (ancestor (t.r a) (t.pair b) (t.r c))

/-! ### Token merging (R304 to R308) -/

/-- RS, the stride of feature rows (R307). -/
def featStride (df : Nat) : Nat := 32 * ceilDiv (4 * df) 32
/-- The size of a map (R306). -/
def mapSize (n : Nat) : Nat := alignUp (32 + 2 * n) 32

/-- A merge's shape. -/
structure Merge where
  key  : Word
  feat : Word
  size : Word
  outf : Word
  mapa : Word
  n    : Nat
  r    : Nat
  dk16 : Nat
  df   : Nat
  parent : Word

/-- The operands of a TMRG: the quads ga and gb (R307). -/
def Merge.of (ws : List Word) : Merge :=
  { key := ws.getD 0 0, feat := ws.getD 1 0, size := ws.getD 2 0, outf := ws.getD 3 0, mapa := ws.getD 4 0
    n := bits (ws.getD 5 0).toNat 15 0, r := bits (ws.getD 5 0).toNat 31 16, dk16 := bits (ws.getD 6 0).toNat 4 0
    df := bits (ws.getD 6 0).toNat 26 16, parent := ws.getD 7 0 }

/-- The sectors that a merge command reads and writes (R295). -/
def wantRanges (core : Nat) (cr : Crew) (ins outs : List (Word × Nat)) : List (Nat × Bool) :=
  (ins.flatMap fun z => wantRange core cr z.1 z.2 false).eraseDups ++ outs.flatMap fun z => wantRange core cr z.1 z.2 true

/-- M, the survivors. -/
def Merge.m (x : Merge) : Nat := x.n - x.r
/-- The ranges a TMRG reads: keys, features, sizes. -/
def Merge.inputs (x : Merge) : List (Word × Nat) :=
  [(x.key, 32 * x.dk16 * x.n), (x.feat, featStride x.df * x.n), (x.size, 4 * x.n)]
/-- The ranges it writes: the rows with their sizes, and the map. -/
def Merge.outputs (x : Merge) : List (Word × Nat) := [(x.outf, featStride x.df * x.m + 4 * x.m), (x.mapa, mapSize x.n)]

/-- MERGE_SHAPE by the numbers alone (R307, check 2). -/
def Merge.shapeBad (x : Merge) (g2 : Word) : Bool :=
  x.n % 2 == 1 || decide (x.n < 2) || decide (4096 < x.n) || decide (x.n / 2 < x.r) || x.dk16 == 0 || decide (16 < x.dk16) ||
  x.df == 0 || decide (1024 < x.df) || bits g2.toNat 15 5 != 0 || bits g2.toNat 31 27 != 0

/-- An output meets the other one or an input, sector by sector (R307, check 4). -/
def Merge.overlaps (x : Merge) : Bool :=
  let r (p q : Word × Nat) : Bool := overlap (p.1.toNat / 32) (ceilDiv p.2 32) (q.1.toNat / 32) (ceilDiv q.2 32)
  match x.outputs with
  | [o, m] => r o m || x.inputs.any fun i => r o i || r m i
  | _ => false

/-- The parent of a new map (R307, checks 5 and 6): the DEPTH of the new map, or the cause. -/
def Crew.mergeDepth (cr : Crew) (x : Merge) : Except Cause Nat :=
  if x.parent = 0xFFFFFFFF then .ok 1
  else
    match cr.mapOf x.parent with
    | none => .error .mapInvalid
    | some (m, _) => if m.m ≠ x.n ∨ m.depth = 8 ∨ m.child = true then .error .mergeShape else .ok (m.depth + 1)

/-- TMRG (R307). Operands: the two quads, then the map's handle and its DEPTH. -/
def execTmrg (g : Guard) (d a b : Reg) (s : State) : Out :=
  let i : Instr := .tmrg g d a b
  word i s fun k t =>
    let ck := t.crewKey k
    let core := coreOf k
    let ws := t.rs a 4 ++ t.rs b 4
    let x := Merge.of ws
    match s.crew? ck with
    | none => s.scrTrap k .scratchRange x.key
    | some cr =>
      if x.shapeBad (ws.getD 6 0) then s.trap k .mergeShape
      else
        match scratchOperands cr (x.inputs ++ x.outputs) with
        | some (e, w) => s.scrTrap k e w
        | none =>
          if x.overlaps then s.trap k .mergeShape
          else
            match cr.mergeDepth x, cr.mapSlots.find? fun z => !z.1.live with
            | .error e, _ => s.trap k e
            | .ok _, none => s.trap k .mergeShape
            | .ok depth, some (old, slot) =>
              let task := if t.inTask then (s.task? ck).map (·.handle) else none
              let new : MapEntry := { live := true, serial := (old.serial + 1) % 65536, n := x.n, m := x.m, depth := depth
                                      parent := x.parent, child := false, addr := x.mapa.toNat, task := task }
              let h := cr.mapHandle slot new
              let c := s.newCmd i k t (.confluence (dieOf core)) 0 (ws ++ [h, BitVec.ofNat 32 depth])
              if !s.taskWrites k t cr x.outputs then s.scrTrap k .taskIrrevocable x.outf
              else if s.fenced.contains c.unit.code then s.issueFault i k .engineFenced 0
              else if s.cmdWaits t c.unit then s.stall
              else
                let s := s.modCrew ck fun cr => { cr with maps := (cr.mapSlots.map fun (m, n) =>
                  if n = slot then new
                  else if m.live && cr.mapHandle n m == x.parent then { m with child := true } else m) }
                (s.setReg k d h).issueCmd k t { c with want := wantRanges core cr x.inputs x.outputs } false

/-- The exact similarity of two keys; none when it is invalid (R308). -/
def similarity (a b : List FVal) : Option FVal :=
  if (a ++ b).any fun v => v.isNan || v.isInf then none
  else sumVals .rne ((a.zip b).filterMap fun (x, y) => mulVal x y)

/-- One similarity ranks strictly above another; an invalid one ranks below every value (R308). -/
def ranksAbove (a b : Option FVal) : Bool :=
  match a, b with
  | some x, some y => decide (0 < cmpVal x y)
  | some _, none => true
  | none, _ => false

/-- The first element with the highest rank: ties keep the earlier one. -/
def bestOf {α : Type} (f : α → Option FVal) : List α → Option α
  | [] => none
  | x :: xs =>
    match bestOf f xs with
    | none => some x
    | some y => if ranksAbove (f y) (f x) then some y else some x

/-- The merge of one element over a group of (size, value) (R308). -/
def mergeElem (g : List (Nat × FVal)) : Nat :=
  let total := g.foldl (fun n x => n + x.1) 0
  let pos := g.any fun x => x.2 == .inf false
  let neg := g.any fun x => x.2 == .inf true
  if (g.any fun x => x.2.isNan) || (pos && neg) then canonNaN .f32
  else if pos then infBits .f32 false
  else if neg then infBits .f32 true
  else if total = 0 then canonNaN .f32
  else
    match sumVals .rne (g.filterMap fun x => mulVal (intVal x.1) x.2) with
    | some (.fin s m e) =>
      if m = 0 then withSign .f32 s 0 else (narrowExact .f32 .rne false s { n := m, d := total, e := e }).1
    | _ => canonNaN .f32

/-- What TMRG decides: the chosen members of A, and the best match of each member (R308). -/
def mergeChoice (n r : Nat) (keys : List (List FVal)) : List (Nat × Nat) :=
  let as := (upTo 0 (n / 2)).map fun i => 2 * i
  let bs := (upTo 0 (n / 2)).map fun i => 2 * i + 1
  let key (t : Nat) : List FVal := keys.getD t []
  let best := as.filterMap fun a =>
    let cands := bs.map fun b => (b, similarity (key a) (key b))
    (bestOf (fun z => z.2) cands).map fun z => (a, z.1, z.2)
  ((sortBy (fun x y => !ranksAbove y.2.2 x.2.2) best).take r).map fun z => (z.1, z.2.1)

/-- The whole of a TMRG (R306, R308). -/
def State.tmrgAll (s : State) (c : Cmd) : State :=
  let x := Merge.of c.ops
  let rs := featStride x.df
  let at_ (w : Word) (o : Nat) : Nat := s.cmdScr c (w.toNat + o)
  let keys := (upTo 0 x.n).map fun t =>
    (unpack16 (s.readScr (at_ x.key (32 * x.dk16 * t)) (32 * x.dk16))).map (decodeFloat .bf16)
  let feat (t : Nat) : List Byte := s.readScr (at_ x.feat (rs * t)) rs
  let size (t : Nat) : Nat := natOf (s.readScr (at_ x.size (4 * t)) 4)
  let chosen := mergeChoice x.n x.r keys
  let into (b : Nat) : List Nat := (upTo 0 x.n).filter fun a => chosen.contains (a, b)
  let survivors := (upTo 0 x.n).filter fun t => !(chosen.any fun z => z.1 == t)
  let row (t : Nat) : List Byte × Nat :=
    let g := into t ++ [t]
    if g.length = 1 then (feat t, size t)
    else
      let total := g.foldl (fun n u => n + size u) 0
      let els := (upTo 0 x.df).map fun e => mergeElem (g.map fun u => (size u, decodeFloat .f32 (fieldAt (feat u) (4 * e) 4)))
      ((els.flatMap fun v => bytesOf v 4) ++ (upTo (4 * x.df) (rs - 4 * x.df)).map fun i => Config.openByte c.id (rs * t + i), min total (2 ^ 32 - 1))
  let number (t : Nat) : Nat :=
    let u := match chosen.find? fun z => z.1 == t with | some z => z.2 | none => t
    survivors.idxOf u
  let rows := survivors.map row
  let header := (c.op 8).toNat + x.n * 2 ^ 32 + x.m * 2 ^ 48 + (c.op 9).toNat * 2 ^ 64 + bits (c.op 8).toNat 15 8 * 2 ^ 72 + x.parent.toNat * 2 ^ 96
  let s := s.writeScr (at_ x.outf 0) ((rows.flatMap (·.1)) ++ rows.flatMap fun r => bytesOf r.2 4)
  let s := (s.openArea c (at_ x.mapa 0) (mapSize x.n)).writeScr (at_ x.mapa 32) ((upTo 0 x.n).flatMap fun t => bytesOf (number t) 2)
  (s.writeScr (at_ x.mapa 0) (bytesOf header 32)).endSelect c
where
  /-- The 16-bit numbers of bytes. -/
  unpack16 (bs : List Byte) : List Nat := (upTo 0 (bs.length / 2)).map fun i => fieldAt bs (2 * i) 2

/-- TMRG_COMPLETE: a die's Confluence unit performs the TMRG at its head. -/
def execTmrgComplete (s : State) : Out :=
  match s.unitHead (.confluence (s.who.headD 0)) with
  | some c => (match c.i with | .tmrg _ _ _ _ => .next (s.tmrgAll c) | _ => .next s)
  | none => .next s

/-- The ranges that a TUNM reads and writes, from its operands (R310). -/
def tunmRanges (ws : List Word) : List (Word × Nat) × List (Word × Nat) :=
  let op (n : Nat) : Word := ws.getD n 0
  let rs := featStride (op 2).toNat
  ([(op 1, rs * (op 6).toNat), (op 4, mapSize (op 5).toNat)], [(op 3, rs * (op 5).toNat)])

/-- TUNM (R310). Operands: the handle, SRC, DF, DST, and the map's address, N and M. -/
def execTunm (g : Guard) (a b c : Reg) (s : State) : Out :=
  let i : Instr := .tunm g a b c
  word i s fun k t =>
    let h := t.r a
    let src := t.r b
    let df := (t.reg (b.toNat + 1)).toNat
    let dst := t.r c
    let core := coreOf k
    match (s.crew? (t.crewKey k)).bind fun cr => (cr.mapOf h).map fun m => (cr, m.1) with
    | none => s.trap k .mapInvalid
    | some (cr, m) =>
      let rs := featStride df
      let ins : List (Word × Nat) := [(src, rs * m.m), (BitVec.ofNat 32 m.addr, mapSize m.n)]
      let outs : List (Word × Nat) := [(dst, rs * m.n)]
      if m.child || df == 0 || decide (1024 < df) ||
          (ins.any fun z => overlap dst.toNat (rs * m.n) z.1.toNat z.2) then s.trap k .mergeShape
      else
        match scratchOperands cr ([(src, rs * m.m)] ++ outs) with
        | some (e, w) => s.scrTrap k e w
        | none =>
          let cmd := s.newCmd i k t (.confluence (dieOf core)) 0
            [h, src, BitVec.ofNat 32 df, dst, BitVec.ofNat 32 m.addr, BitVec.ofNat 32 m.n, BitVec.ofNat 32 m.m]
          if !s.taskWrites k t cr outs then s.scrTrap k .taskIrrevocable dst
          else if s.fenced.contains cmd.unit.code then s.issueFault i k .engineFenced 0
          else if s.cmdWaits t cmd.unit then s.stall
          else
            s.issueCmd k t { cmd with want := wantRanges core cr (tunmRanges cmd.ops).1 (tunmRanges cmd.ops).2 } false

/-- The whole of a TUNM (R310). -/
def State.tunmAll (s : State) (c : Cmd) : State :=
  let rs := featStride (c.op 2).toNat
  let n := (c.op 5).toNat
  let m := (c.op 6).toNat
  let rows := (upTo 0 n).flatMap fun t =>
    let v := natOf (s.readScr (s.cmdScr c ((c.op 4).toNat + 32 + 2 * t)) 2)
    if v < m then s.readScr (s.cmdScr c ((c.op 1).toNat + rs * v)) rs else List.replicate rs 0
  (s.writeScr (s.cmdScr c (c.op 3).toNat) rows).endSelect c

/-- TUNM_COMPLETE: a die's Confluence unit performs the TUNM at its head. -/
def execTunmComplete (s : State) : Out :=
  match s.unitHead (.confluence (s.who.headD 0)) with
  | some c => (match c.i with | .tunm _ _ _ _ => .next (s.tunmAll c) | _ => .next s)
  | none => .next s

/-- The frame of TMAP: the entry that a valid handle names, or MAP_INVALID (R311). -/
def State.mapOp (s : State) (k : Nat) (t : Thread) (h : Word) (go : MapEntry → Nat → State) : State :=
  match (s.crew? (t.crewKey k)).bind fun cr => cr.mapOf h with
  | none => s.trap k .mapInvalid
  | some (m, n) => go m n

/-- TMAP.INFO (R311). -/
def execTmapInfo (g : Guard) (d a : Reg) (s : State) : Out :=
  word (.tmapInfo g d a) s fun k t => s.mapOp k t (t.r a) fun m _ =>
    s.put2 k d (pairOf (BitVec.ofNat 32 (m.n + m.m * 65536)) (BitVec.ofNat 32 m.depth))

/-- TMAP.PARENT (R311). -/
def execTmapParent (g : Guard) (d a : Reg) (s : State) : Out :=
  word (.tmapParent g d a) s fun k t => s.mapOp k t (t.r a) fun m _ => s.put1 k d m.parent

/-- A merge command of the crew names a map. -/
def State.mapInFlight (s : State) (ck : Nat) (h : Word) : Bool :=
  s.cmds.any fun c => c.crew == ck &&
    (match c.i with
     | .tmrg _ _ _ _ => c.op 8 == h || c.op 7 == h
     | .tunm _ _ _ _ => c.op 0 == h
     | _ => false)

/-- TMAP.FREE (R311). -/
def execTmapFree (g : Guard) (a : Reg) (s : State) : Out :=
  word (.tmapFree g a) s fun k t => s.mapOp k t (t.r a) fun m slot =>
    let ck := t.crewKey k
    if m.child then s.trap k .mergeShape
    else if t.inTask && (m.task.isNone || m.task != (s.task? ck).map (·.handle)) then s.trap k .taskIrrevocable
    else if s.mapInFlight ck (t.r a) then s.stall
    else (s.modCrew ck fun cr => cr.dropMaps fun _ n => n == slot).retire k

/-- SZB (R309). -/
def execSzb (g : Guard) (rm : RMode) (d a : Reg) (s : State) : Out :=
  word (.szb g rm d a) s fun k t => s.floatReg k t d (fLnSize rm (t.r a).toNat)

end Sys2Proof.Machine
end

