-- ==== Sys2Proof/Machine/Seal.lean ====
section
/-!
DEFINITION. SEAL, UNSEAL and SEGSEAL, which wait for or are refused by the engine commands that touch a region
(spec/09_isa_memory_lanes.md R203, R204; spec/06_consistency.md R138; spec/12_segments_linking_repair.md R285), TLBINV
(spec/21_privileged_state_traps.md R355) and DLOG (spec/23_preemption_migration.md R379 to R381).
-/
namespace Sys2Proof.Machine

/-! ### What a command touches (R204) -/

/-- A range of virtual addresses that a command reads or writes. -/
structure Touch where
  va    : Nat
  n     : Nat
  write : Bool

/-- A range that is read. -/
def reads (va n : Nat) : Touch := { va := va, n := n, write := false }
/-- A range that is written. -/
def writes (va n : Nat) : Touch := { va := va, n := n, write := true }

/-- The places of a box: its elements one by one, or, decoded, the pages of its typed tensor (R230, R233). -/
def State.boxTouch (s : State) (c : Cmd) (store : Bool) : List Touch :=
  let t := c.tlr
  let cs := coords ((c.ops.drop 1).take 5)
  let points : List Touch :=
    if t.decode then
      match s.typedBase c t.base with
      | .error _ => [reads t.base 65536]
      | .ok l => (upTo 0 t.count).filterMap fun e =>
          (t.typedPlace cs e).map fun j => reads (t.base + 65536 * (j % 2 ^ 32 / pageElems l.elem l.geom)) 65536
    else
      (upTo 0 t.count).filterMap fun e =>
        (t.place cs e).map fun h => { va := h / 2, n := max 1 (t.size2 / 2), write := store }
  [reads (c.op2 6).toNat 64] ++ (if t.fmt = 9 then [writes t.desc 16] else []) ++ points

/-- The blocks of a block list, by virtual address (R272), and the list itself. -/
def State.listTouch (s : State) (c : Cmd) (hdr : SegHdr) (blist n : Nat) (write : Bool) : List Touch :=
  reads blist (4 * n) ::
    (match s.cmdRead c blist (4 * n) with
     | .error _ => []
     | .ok (_, bs) => (wordsOf bs).map fun w => { va := hdr.poolva + w.toNat * hdr.p, n := hdr.p, write := write })

/-- A segment's blocks and its descriptor. -/
def State.segTouch (s : State) (c : Cmd) (hdr : SegHdr) (id : Nat) (write : Bool) : List Touch :=
  match s.segOf c hdr id with
  | .ok (_, some g) => { va := s.segVa c.vf id, n := 64, write := false } :: s.listTouch c hdr g.blist g.nblk write
  | _ => []

/-- The records of a context: the descriptor, ORDER, the link entries and the tail entry (R275). -/
def Ctx.touch (x : Ctx) (write : Bool) : Touch := { va := x.va, n := x.tailVa + 32 - x.va, write := write }

/-- What a KVG reads beside its context (R204): the rotation table, the overlays and the blocks of its handles. -/
def State.kvgTouch (s : State) (c : Cmd) : List Touch :=
  let x := c.ctx
  [x.touch false, reads x.rtab (32 + 2 * x.shape.d)] ++ c.kv.flatMap fun e =>
    if e.len = 0 then []
    else if e.tail then s.listTouch c c.segHdr e.blist (x.tailBlocks c.segHdr.p) false
    else reads e.ova (ovlSize x.shape e.rcnt) :: s.segTouch c c.segHdr e.seg false

/-- The ranges of global memory that an accepted command reads or writes before it completes (R204). -/
def State.touches (s : State) (c : Cmd) : List Touch :=
  match c.i with
  | .acpL _ _ _ _ _ _ _ _ => [reads (c.op2 2).toNat 32]
  | .acpS _ _ _ _ _ _ _ _ => [writes (c.op2 2).toNat 32]
  | .bcp _ _ dir _ _ _ _ _ _ => s.boxTouch c (dir != .load)
  | .drain _ _ _ _ _ _ _ _ _ => s.boxTouch c true
  | .mcast _ _ len _ _ _ _ _ => [reads (c.op2 1).toNat (mcastLen len)]
  | .kvg _ _ _ _ _ _ _ _ _ _ => s.kvgTouch c
  | .kva _ _ _ _ _ _ _ =>
    let x := c.ctx
    [x.touch true, reads (c.op2 2).toNat (2 * x.shape.layers * x.shape.heads * x.shape.rb * c.kvaTokens)] ++
      (match s.segHdr c with
       | .ok (_, hdr) => s.listTouch c hdr x.tblist (x.tailBlocks hdr.p * x.tailcap) true
       | .error _ => [])
  | .kvr _ _ _ _ =>
    (match s.ovlOf c (c.op2 1).toNat with
     | .ok (_, o) =>
       (match s.ctxOf c o.ctx with
        | .ok (_, x) => [x.touch true, writes (c.op2 1).toNat (ovlSize x.shape o.rcnt)]
        | .error _ => [writes (c.op2 1).toNat 64])
     | .error _ => [])
  | .job _ _ =>
    let j := c.card
    [reads (c.op2 0).toNat 64, reads j.src j.srclen, writes j.dst j.dstcap, writes j.ring (32 * (1 + 2 ^ j.rsz))]
  | .segsum _ _ _ _ =>
    (match s.segHdr c with
     | .ok (_, hdr) => s.segTouch c hdr (c.op 0).toNat false ++ s.segTouch c hdr (c.op 0).toNat true
     | .error _ => [])
  | .psel _ _ _ _ =>
    (match s.pselAgain c with
     | .ok (s, c) =>
       (Ctx.read (c.op2 1).toNat (c.recd.take 64)).touch false :: c.kv.flatMap fun e => s.segTouch c c.segHdr e.seg false
     | .error _ => [])
  | .topk _ pairs spin _ _ _ => if spin then [] else [reads (c.op2 1).toNat ((c.op 3).toNat * (if pairs then 8 else 4))]
  | .topp _ _ spin _ _ _ => if spin then [] else [reads (c.op2 1).toNat (8 * (c.op 3).toNat)]
  | _ => []

/-- A command in flight touches a range in a way that counts. -/
def State.touched (s : State) (vf : Nat) (counts : Touch → Bool) (va n : Nat) : Bool :=
  s.cmds.any fun c => c.vf == vf && (s.touches c).any fun x => counts x && overlap va n x.va x.n

/-- A command in flight touches a range; with `store`, only its writes count. -/
def State.inFlight (s : State) (vf : Nat) (store : Bool) (va n : Nat) : Bool := s.touched vf (fun x => x.write || !store) va n

/-- A command in flight reads a range (R283). -/
def State.inReading (s : State) (vf va n : Nat) : Bool := s.touched vf (fun x => !x.write) va n

/-! ### SEAL and UNSEAL (R203, R204) -/

/-- The checks of a region before its pages (R203): the cause with its address, if one decides. -/
def regionCause (t : Thread) (va len : DWord) : Option (Cause × DWord) :=
  if len = 0 ∨ va.toNat % 65536 ≠ 0 ∨ len.toNat % 65536 ≠ 0 then some (.sealRange, va)
  else if 2 ^ 56 < va.toNat + len.toNat then some (.addrRange, va)
  else if t.inTask then some (.taskIrrevocable, 0)
  else none

/-- The frame of SEAL and UNSEAL: the checks, then `go` with the pages of the region. -/
def State.regionOp (s : State) (i : Instr) (k : Nat) (t : Thread) (va len : DWord) (go : List TlbEnt → State) : State :=
  match regionCause t va len with
  | some (e, a) => s.trap k e a
  | none =>
    match s.regionPages (coreOf k) t.vf (tlbPort k) va.toNat len.toNat (len.toNat / 65536) va.toNat with
    | .error e => s.recFault i k e
    | .ok ts => go ts

/-- SEAL (R203): the bundle is not ready while an engine command that writes the region is in flight. -/
def execSeal (g : Guard) (a b : Reg) (s : State) : Out :=
  let i : Instr := .seal g a b
  word i s fun k t =>
    let va := t.pair a
    let len := t.pair b
    s.regionOp i k t va len fun ts =>
      if s.inFlight t.vf true va.toNat len.toNat then s.stall
      else
        ((s.releaseDev k t).sealPages t.vf va.toNat len.toNat ts).retire k

/-- UNSEAL (R204): 1 while a command that touches the region is in flight, else the seal bits go and 0. -/
def execUnseal (g : Guard) (d a b : Reg) (s : State) : Out :=
  let i : Instr := .unseal g d a b
  word i s fun k t =>
    let va := t.pair a
    let len := t.pair b
    s.regionOp i k t va len fun ts =>
      if s.inFlight t.vf false va.toNat len.toNat then s.put1 k d 1
      else
        let s := ts.foldl (fun (st : State) e => st.unsealOnce e) (s.releaseDev k t)
        (s.dropTlb t.vf va.toNat len.toNat).put1 k d 0

/-! ### SEGNEW.DEL (R283) -/

/-- SEGNEW.DEL (R283, R291): 1 while the segment has links or an engine command in flight reads its blocks. -/
def execSegnewDel (g : Guard) (d a : Reg) (s : State) : Out :=
  let i : Instr := .segnewDel g d a
  word i s fun k t =>
    let id := (t.r a).toNat
    let c := s.asCmd i k t
    if t.inTask then s.trap k .taskIrrevocable
    else
      match s.segHdr c with
      | .error e => s.recFault i k e
      | .ok (s1, hdr) =>
        match s1.segOf c hdr id with
        | .error e => s.recFault i k e
        | .ok (_, none) => s.trap k .segId
        | .ok (s2, some seg) =>
          if seg.state = 0 then s.trap k .segId
          else if seg.links ≠ 0 then s2.put1 k d 1
          else
            match s2.blockList c seg.blist seg.nblk, s2.tableCells c (s2.segVa t.vf id) ({ seg with state := 0 }).bytes with
            | .error e, _ => s.recFault i k e
            | _, .error e => s.recFault i k e
            | .ok bs, .ok tc =>
              if bs.any fun b => s.inReading t.vf (hdr.poolva + b * hdr.p) hdr.p then s2.put1 k d 1
              else
              let stop := seg.blist + 4 * seg.nblk
              let ts := s2.listPages c.agent t.vf c.core (4 * seg.nblk / 65536 + 2) seg.blist stop
              let s3 : State := bs.foldl (fun (st : State) b => st.freeBlock t.vf b) s2
              let s3 : State := (ts.foldl (fun (st : State) e => st.unsealOnce e) s3).dropTlb t.vf seg.blist (4 * seg.nblk)
              (s3.devCells tc).put1 k d 0

/-! ### SEGSEAL (R285) -/

/-- SEGSEAL (R285, R291). -/
def execSegseal (g : Guard) (a : Reg) (s : State) : Out :=
  let i : Instr := .segseal g a
  word i s fun k t =>
    let id := (t.r a).toNat
    let c := s.asCmd i k t
    if t.inTask then s.trap k .taskIrrevocable
    else
      match s.segHdr c with
      | .error e => s.recFault i k e
      | .ok (s1, hdr) =>
        match s1.segOf c hdr id with
        | .error e => s.recFault i k e
        | .ok (_, none) => s.trap k .segId
        | .ok (s2, some seg) =>
          if seg.state = 0 then s.trap k .segId
          else if seg.state ≠ 1 ∨ seg.summed = false then s.trap k .segState
          else
            let len := alignUp (4 * seg.nblk) 65536
            match s2.blockList c seg.blist seg.nblk, s2.tableCells c (s2.segVa t.vf id) ({ seg with state := 2 }).bytes,
                  s2.regionPages c.agent t.vf c.core seg.blist len (len / 65536) seg.blist with
            | .error e, _, _ => s.recFault i k e
            | _, .error e, _ => s.recFault i k e
            | _, _, .error e => s.recFault i k e
            | .ok bs, .ok tc, .ok ts =>
              if (bs.any fun b => s.inFlight t.vf true (hdr.poolva + b * hdr.p) hdr.p) || s.inFlight t.vf true seg.blist len then
                s.stall
              else
                let s3 := s2.releaseDev k t
                let s3 : State := bs.foldl (fun (st : State) b =>
                  (st.drainRange t.vf (st.blockKey b) st.poolBlock).settleRange (st.blockKey b) st.poolBlock) s3
                let s3 := { s3 with pool := bs.foldl (fun p b => NMap.modify p b fun x => { x with sealed := true }) s3.pool }
                ((s3.sealPages t.vf seg.blist len ts).devCells tc).retire k

/-! ### TLBINV (R355) -/

/-- Invalidate the translations of a partition that meet a predicate; every access through one of them is performed at dev
scope first (R355). -/
def State.tlbInv (s : State) (vf : Nat) (hit : TlbEnt → Bool) : State :=
  let ts := s.tlb.filter fun e => e.vf == vf && hit e
  let s := ts.foldl (fun (st : State) e => (st.drainPage vf e).settlePage vf e) s
  { s with tlb := s.tlb.filter fun e => !(e.vf == vf && hit e) }

/-- TLBINV.PAGE (R355). -/
def execTlbinvPage (g : Guard) (a : Reg) (s : State) : Out :=
  word (.tlbinvPage g a) s fun k t =>
    let va := t.pair a
    if 2 ^ 56 ≤ va.toNat then s.trap k .addrRange va
    else (s.tlbInv t.vf fun e => decide (e.va ≤ va.toNat) && decide (va.toNat < e.va + e.size)).retire k

/-- TLBINV.RANGE (R355): a length of 0 invalidates nothing. -/
def execTlbinvRange (g : Guard) (a b : Reg) (s : State) : Out :=
  word (.tlbinvRange g a b) s fun k t =>
    let va := t.pair a
    let len := t.pair b
    if 2 ^ 56 ≤ va.toNat ∨ 2 ^ 56 < va.toNat + len.toNat then s.trap k .addrRange va
    else (s.tlbInv t.vf fun e => overlap va.toNat len.toNat e.va e.size).retire k

/-- TLBINV.ALL (R355). -/
def execTlbinvAll (g : Guard) (s : State) : Out :=
  word (.tlbinvAll g) s fun k t => (s.tlbInv t.vf fun _ => true).retire k

/-! ### The dirty bitmap (R379 to R381) -/

/-- A word of a VF's dirty bitmap. -/
def State.dirtyWord (s : State) (vf w : Nat) : DWord :=
  BitVec.ofNat 64 (((s.part vf).dirty.filter fun b => b / 64 == w && decide (b < s.dirtyBits vf)).foldl
    (fun x b => x + 2 ^ (b % 64)) 0)

/-- The state with a word of a VF's dirty bitmap cleared. -/
def State.clearDirty (s : State) (vf w : Nat) : State :=
  s.modPart vf fun p => { p with dirty := p.dirty.filter fun b => b / 64 != w }

/-- DLOG (R381). -/
def execDlog (g : Guard) (d a : Reg) (s : State) : Out :=
  word (.dlog g d a) s fun k t =>
    let w := (t.r a).toNat
    if ceilDiv (s.dirtyBits t.vf) 64 ≤ w then s.trap k .sysregBad
    else if t.inTask then s.trap k .taskIrrevocable
    else (s.clearDirty t.vf w).put2 k d (s.dirtyWord t.vf w)

end Sys2Proof.Machine
end

