-- ==== Sys2Proof/Machine/Signal.lean ====
section
/-!
DEFINITION. Signals (spec/10_isa_copy_engines.md R247, R248; spec/06_consistency.md R135).
-/
namespace Sys2Proof.Machine

/-- The stores that a signal change by a thread releases (R127, R135). -/
def State.signalRelease (s : State) (k : Nat) (t : Thread) : List Nat :=
  t.seen ++ s.flightsOf (t.writer k)

/-- SIGDEC and SIGADD (R247): an addend, and whether a zero notifies. In a task they are deferred (R64). -/
def State.sigChange (s : State) (i : Instr) (k : Nat) (t : Thread) (va add : DWord) (notify : Bool) : State :=
  match operandCause va 16 with
  | some e => s.trap k e va
  | none =>
    match s.storeAccess k t va fun _ => true with
    | .error e => s.storeFault i k e va
    | .ok l =>
      let s := s.keep l.ent
      if t.inTask then
        match s.bufferRec (t.crewKey k) (.signal va add notify) with
        | (s, true) => s.retire k
        | (s, false) => s
      else
        let s := s.drainAll k
        (s.changeSignal (t.writer k) (coreOf k) t.vf l va.toNat add notify (s.signalRelease k t) t.relNeed).sent i k t l va true

/-- SIGDEC (R247). -/
def execSigdec (g : Guard) (a : Reg) (s : State) : Out :=
  word (.sigdec g a) s fun k t => s.sigChange (.sigdec g a) k t (t.pair a) (0 - 1) true

/-- SIGADD (R247): never notifies. -/
def execSigadd (g : Guard) (a b : Reg) (s : State) : Out :=
  word (.sigadd g a b) s fun k t => s.sigChange (.sigadd g a b) k t (t.pair a) (t.pair b) false

/-- A recoverable fault of a SIGWAIT or SIGREAD is logged and parks the thread at the next instruction; every other one is
precise (R247). -/
def State.sigFaultAt (s : State) (i : Instr) (k : Nat) (e : Cause) (va : DWord) : State :=
  if e.recoverable then s.loadFault i k e va true else s.trap k e va

/-- SIGWAIT (R247): a condition that holds is an acquire of the change it observes, whose released set the thread then sees
(R135); otherwise the thread parks on SIGNAL (R248). A wait that has
ended goes on. -/
def execSigwait (g : Guard) (cond : SigCond) (a b : Reg) (s : State) : Out :=
  let i : Instr := .sigwait g cond a b
  word i s fun k t =>
    let va := t.pair a
    match operandCause va 16 with
    | some e => s.trap k e va
    | none =>
      match s.access (coreOf k) t.vf (tlbPort k) va.toNat .read with
      | .error e => s.sigFaultAt i k e va
      | .ok l =>
        if s.holdRead k t l va.toNat 8 then s.holdThread k
        else
          let s := ((s.drainAll k).seeAtoms (coreOf k) maskSys l.key 8).sawLoad k t l va.toNat 8
          let x := if inTail l va.toNat then 0 else BitVec.ofNat 64 (natOf (s.readBytes (coreOf k) l.key 8))
          if t.passed || sigHolds cond x (t.pair b) then s.retire k else s.park k (.signal va cond (t.pair b))

/-- SIGREAD (R247): an LD.ACQ at dev scope. -/
def execSigread (g : Guard) (la : BitVec 4) (d a : Reg) (s : State) : Out :=
  let i : Instr := .sigread g la d a
  word i s fun k t =>
    let va := t.pair a
    match operandCause va 16 with
    | some e => s.trap k e va
    | none =>
      match s.access (coreOf k) t.vf (tlbPort k) va.toNat .read with
      | .error e => s.sigFaultAt i k e va
      | .ok l =>
        if s.holdRead k t l va.toNat 8 then s.holdThread k
        else
          let s := s.forWindow k l
          let vs := wordsOfNat (natOf (s.threadRead k t l va.toNat 8)) 2
          (s.sawLoad k t l va.toNat 8).issueLoad i k t la.toNat (regNums d 2) vs 0 false l va

end Sys2Proof.Machine
end

