-- ==== Sys2Proof/Machine/Tasks.lean ====
section
/-!
DEFINITION. Tasks (spec/03_tasks_queues_split.md R51 to R76): TPOP, TSPAWN, TDONE, TSPLIT, TABORT and TSTAT, the Headgate's
dispatch, the commit record by record, completion, the counted cycles; and the two events of spec/02 that end or mend a
crew: the end of a crew (R50) and a lane group that is deadlocked on registers (R44).
-/
namespace Sys2Proof.Machine

/-! ### Shared -/

/-- The partition's line is down: the Headgate dispatches and commits for it (R351, R374). -/
def State.lineDown (s : State) (vf : Nat) : Bool := (s.part vf).line == .running

/-- The record of an evicted thread is rewritten (R371). -/
def State.rewriteEvicted (s : State) (v : Evicted) (f : Thread → Thread) : State :=
  let r := s.evictedRecord v
  let t := f r.t
  let s := s.storeEvicted v 0 (t.record r.core r.lane r.slot true)
  { s with evicted := s.evicted.map fun x => if x.same v then { x with t := t } else x }

/-- Every thread of a crew is changed, resident or evicted. -/
def State.modWholeCrew (s : State) (ck : Nat) (f : Thread → Thread) : State :=
  (s.crewEvicted ck).foldl (fun (st : State) v => st.rewriteEvicted v f) (s.modCrewThreads ck fun _ t => f t)

/-- The thread is parked on a convergence register. -/
def Thread.onConv (t : Thread) : Bool :=
  match t.phase with
  | .parked (.conv _) _ => true
  | _ => false

/-- Every resident thread of the crew waits on a convergence register. -/
def State.crewOnConv (s : State) (ck : Nat) : Bool := (s.crewThreads ck).all fun x => x.2.onConv

/-- The thread goes on at the instruction after the TPOP or TDONE at which it is parked. -/
def Thread.pastConv (t : Thread) (inTask : Bool) : Thread := { t.next with inTask := inTask, passed := true }

/-! ### TPOP (R57) -/

/-- A crew's TPOP is signed by a further thread, which parks; the last signature makes the request of the Headgate. -/
def State.signPop (s : State) (i : Instr) (k : Nat) (t : Thread) (cr : Crew) (nb any : Bool) (d : Reg) (q : QNum) (c : Conv) :
    State :=
  let op := opRecord i d 0 (q.setWidth 32)
  if (cr.conv c.toNat).mismatch op then s.trap k .convMismatch
  else
    match s.addSignature k t c op with
    | (s, false) => s.park k (.conv c)
    | (s, true) =>
      (s.modCrew (t.crewKey k) fun cr => { cr with
        pop := some { nb := nb, any := any, q := q.toNat, d := d.toNat, cm := c, since := s.now }, popD := d.toNat }).park k
        (.conv c)

/-- TPOP (R57). A thread that returns to it while the request stands waits again. -/
def execTpop (g : Guard) (nb any : Bool) (d : Reg) (q : QNum) (c : Conv) (s : State) : Out :=
  let i : Instr := .tpop g nb any d q c
  word i s fun k t =>
    match s.crew? (t.crewKey k) with
    | none => s.trap k .queueUnbound
    | some cr =>
      let r := cr.conv c.toNat
      if cr.pop.isSome then s.park k (.conv c)
      else if t.inTask then s.trap k .taskState
      else if !any && !cr.queues.contains q.toNat then s.trap k .queueUnbound
      else if r.st = .orphaned then s.trap k .convOrphan
      else if r.st = .idle then s.trap k .convNotArmed
      else if r.expect ≠ (s.crewThreads (t.crewKey k)).length then s.trap k .taskState
      else
        match s.convCheck k t c with
        | some s' => s'
        | none => s.signPop i k t cr nb any d q c

/-! ### TSPAWN (R60) -/

/-- The queue can take a push of a partition (R55, R60). -/
def State.queueOpen (s : State) (vf q : Nat) : Bool := (s.queue q).en && (s.queue q).vf == vf

/-- TSPAWN (R60): in a task the entry is held in the write buffer. -/
def execTspawn (g : Guard) (a : Reg) (q : QNum) (s : State) : Out :=
  let i : Instr := .tspawn g a q
  word i s fun k t =>
    let task := if t.inTask then s.task? (t.crewKey k) else none
    let depth := match task with | some x => x.e.depth + 1 | none => 0
    let e := (Entry.ofWords (t.rs a 8)).pushedBy depth (match task with | some x => x.handle | none => noTask)
    if !s.queueOpen t.vf q.toNat then s.trap k .queueUnbound
    else if 10 ≤ depth then s.trap k .depth
    else if (s.queue q.toNat).rejects e true then s.trap k .badEntry
    else if task.isSome then
      match s.bufferRec (t.crewKey k) (.push q.toNat e) with
      | (s, true) => s.retire k
      | (s, false) => s
    else
      match s.pushNew q.toNat e with
      | .pushed s => s.retire k
      | .badEntry => s.trap k .badEntry
      | .spillFault va => s.storeFault i k .spillwayFault va

/-! ### TDONE (R63) -/

/-- A signer of TDONE adds to the commit's released set (R136): every store that is visible to it, its own among them, and the
sets of its FENCE.RELs. -/
def State.releaseAtDone (s : State) (k : Nat) (t : Thread) : State :=
  let s := s.drainAll k
  let ids := s.visibleTo (coreOf k) ++ s.flightsOf (t.writer k)
  s.modTask (t.crewKey k) fun x => { x with rel := x.rel ++ (ids.map fun n => (n, maskDev)) ++ t.relNeed }

/-- TDONE (R63). One that names an armed convergence register other than that of the crew's TPOP is accepted: the spec gives it
no cause (DESIGN CHOICE, notes/assumptions/25.md). Every signer parks; the last one opens the way to the commit. A signer that returns to it during the
commit waits again. -/
def execTdone (g : Guard) (c : Conv) (s : State) : Out :=
  let i : Instr := .tdone g c
  word i s fun k t =>
    let ck := t.crewKey k
    if !t.inTask then s.trap k .taskState
    else if ((s.task? ck).bind (·.signer)).isSome then s.park k (.conv c)
    else
      match s.convCheck k t c with
      | some s' => s'
      | none =>
        let op := opRecord i 0 0 (c.setWidth 32)
        if (((s.crew? ck).map fun cr => (cr.conv c.toNat).mismatch op).getD false) then s.trap k .convMismatch
        else
          match (s.releaseAtDone k t).addSignature k t c op with
          | (s, false) => s.park k (.conv c)
          | (s, true) => (s.modTask ck fun x => { x with signer := some k }).park k (.conv c)

/-! ### Register deadlock (R44) -/

/-- The thread waits for a register grant. -/
def Thread.onGrant (t : Thread) : Bool := t.waits?.isSome

/-- A lane group is deadlocked on registers (R44). -/
def State.deadlocked (s : State) (core lg : Nat) : Bool :=
  let ts := s.lgThreads core lg
  let window := 2 ^ (10 + bits (s.coreRegs core).furcfg.toNat 16 13)
  !ts.isEmpty && ((ts.all fun x => x.2.onGrant) ||
    ((ts.any fun x => x.2.onGrant) && decide (window ≤ s.now - (s.lg (core * 4 + lg)).lastIssue)))

/-- The running tasks with a thread in the lane group: (crew, task). -/
def State.lgTasks (s : State) (core lg : Nat) : List (Nat × Task) :=
  s.crews.filterMap fun (ck, cr) =>
    cr.task.bind fun t =>
      if ck / 64 = core ∧ ((s.crewThreads ck).any fun x => lgrpOf x.1 == lg) = true then some (ck, t) else none

/-- The task of the greatest dispatch. -/
def youngest : List (Nat × Task) → Option (Nat × Task)
  | [] => none
  | x :: xs =>
    match youngest xs with
    | none => some x
    | some y => if y.2.dispatch < x.2.dispatch then some x else some y

/-- The task of a crew has used up its time (R68). -/
def State.timeUp (s : State) (ck : Nat) : Bool :=
  match s.task? ck with
  | some t => decide (0 < (s.queue t.q).tallow) && decide ((s.queue t.q).tallow ≤ t.elapsed) && t.signer.isNone
  | none => false

/-- The task of a crew is the one that a lane group deadlocked on registers aborts (R44). -/
def State.grantOut (s : State) (ck : Nat) : Bool :=
  (upTo 0 4).any fun lg => s.deadlocked (ck / 64) lg &&
    (match youngest ((s.lgTasks (ck / 64) lg).filter fun x => x.2.signer.isNone) with | some x => x.1 == ck | none => false)

/-- The exhaustion that an instruction of the task has met in this cycle (R64, R205). -/
def State.dueWhy (s : State) (ck : Nat) : Option Nat :=
  match (s.task? ck).bind (·.due) with
  | some (.exhausted w) => some w
  | _ => none

/-- The lowest WHY of the triggers that hold (R68, R69): a register deadlock, what an instruction of the cycle has met, the time. -/
def State.exhausts (s : State) (ck : Nat) : Option Nat :=
  if s.grantOut ck then some 1 else (s.dueWhy ck).or (if s.timeUp ck then some 4 else none)

/-- The end of a cycle resolves the abort that its instructions have asked for (R69): an exhaustion comes before TSPLIT and TABORT, and
a last signature of TDONE in the cycle before both. -/
def State.resolveDue (s : State) (ck : Nat) : State :=
  match (s.task? ck).bind (·.due) with
  | none => s
  | some kind =>
    (s.modTask ck fun t => { t with due := none }).abortTask ck (match s.exhausts ck with | some w => .exhausted w | none => kind)

/-! ### TSPLIT, TABORT, TSTAT (R72, R73) -/

/-- TSPLIT (R72): the task is aborted at the end of the cycle; from the last signature of TDONE on it has no effect (R63, R69). -/
def execTsplit (g : Guard) (s : State) : Out :=
  word (.tsplit g) s fun k t =>
    match (if t.inTask then s.task? (t.crewKey k) else none) with
    | none => s.trap k .taskState
    | some x =>
      if !x.e.splits then s.trap k (if x.e.div then .smallestGrain else .notDivisible)
      else if x.signer.isSome then s.retire k
      else (s.askAbort (t.crewKey k) .tsplit).stall

/-- TABORT and TABORT.RQ (R72): the task is aborted at the end of the cycle; from the last signature of TDONE on they have no effect (R63, R69). -/
def State.abortBy (s : State) (k : Nat) (t : Thread) (kind : AbortKind) : State :=
  match (if t.inTask then s.task? (t.crewKey k) else none) with
  | none => s.trap k .taskState
  | some x => if x.signer.isSome then s.retire k else (s.askAbort (t.crewKey k) kind).stall

/-- TABORT (R72). -/
def execTabort (g : Guard) (s : State) : Out :=
  word (.tabort g) s fun k t => s.abortBy k t .cancel

/-- TABORT.RQ (R72). -/
def execTabortRq (g : Guard) (s : State) : Out :=
  word (.tabortRq g) s fun k t => s.abortBy k t .requeue

/-- What TSTAT writes (R73); none is QUEUE_UNBOUND. -/
def State.taskStat (s : State) (k : Nat) (t : Thread) (sel : TstatSel) (q : QNum) : Option Nat :=
  let task := if t.inTask then s.task? (t.crewKey k) else none
  match sel with
  | .last => some (match s.crew? (t.crewKey k) with | some cr => cr.last.1 + cr.last.2.1 * 16 + cr.last.2.2 * 256 | none => 0)
  | .handle => some (match task with | some x => x.handle.toNat | none => noTask.toNat)
  | .elapsed => some (match task with | some x => min x.elapsed 0xFFFFFFFF | none => 0)
  | .wbused => some (match task with | some x => x.units | none => 0)
  | .rset => some (match task with | some x => min x.rset.length 64 | none => 0)
  | .qdepth => if (s.queue q.toNat).vf ≠ t.vf then none else some (min (s.queue q.toNat).holds 0xFFFFFFFF)

/-- TSTAT (R73). -/
def execTstat (g : Guard) (sel : TstatSel) (d : Reg) (q : QNum) (s : State) : Out :=
  word (.tstat g sel d q) s fun k t =>
    match s.taskStat k t sel q with
    | none => s.trap k .queueUnbound
    | some v => s.put1 k d (BitVec.ofNat 32 v)

/-! ### The spillway (R56) -/

/-- The oldest entry of a queue's spillway returns to the chip (R56). An entry whose place cannot be translated stays. -/
def State.refill (s : State) (n : Nat) : State :=
  let q := s.queue n
  if q.spcnt = 0 ∨ 64 ≤ q.ents.length then s
  else
    match s.access agHeadgate q.vf hubCore (q.place q.sphead) .read with
    | .error _ => s
    | .ok l =>
      let x := (Entry.ofWords (wordsOf (s.readLoc agHeadgate l (q.place q.sphead) 32)), q.spseq.headD 0)
      (s.keep l.ent).modQueue n fun q => { q with
        ents := if q.ordered then insertBy keyLe x q.ents else q.ents ++ [x], sphead := (q.sphead + 1) % q.spcap, spcnt := q.spcnt - 1
        spseq := q.spseq.tail }

/-- SPILLWAY_REFILL (R56), of the queue that State.who names. -/
def execSpillwayRefill (s : State) : Out :=
  .next (match s.who with | [q] => s.refill q | _ => s)

/-! ### The Headgate (R76) -/

/-- The request names the queue (R57). -/
def PopReq.names (p : PopReq) (cr : Crew) (q : Nat) : Bool := if p.any then cr.queues.contains q else p.q == q

/-- The crews whose pending TPOP the Headgate can serve, with their requests. -/
def State.poppers (s : State) : List (Nat × Crew × PopReq) :=
  s.crews.filterMap fun (ck, cr) =>
    match cr.pop with
    | some p => if s.lineDown cr.vf && s.crewOnConv ck then some (ck, cr, p) else none
    | none => none

/-- The entry that a queue dispatches next, and whether it stands in the spillway (R65, R76): the head on chip, else the front of the
spillway; an ordered queue takes the lower key of the two. None when the queue is empty, or when a place of the spillway that has to be
read cannot be. -/
def State.frontOf (s : State) (q : Nat) : Option ((Entry × Nat) × Bool) :=
  let x := s.queue q
  let ring := if x.spcnt = 0 then none else s.ringEntry q 0
  match x.ents.head?, ring with
  | some e, some r => if x.ordered && keyLt r e then some (r, true) else some (e, false)
  | some e, none => if x.ordered && x.spcnt != 0 then none else some (e, false)
  | none, some r => some (r, true)
  | none, none => none

/-- The entry that a queue dispatches next leaves it. -/
def State.takeFront (s : State) (q : Nat) (ring : Bool) : State :=
  s.modQueue q fun x =>
    if ring then { x with sphead := (x.sphead + 1) % x.spcap, spcnt := x.spcnt - 1, spseq := x.spseq.tail }
    else { x with ents := x.ents.tail }

/-- The entry was pushed by a commit that still has stores to perform: a push is ordered after all the commit's stores, so it is
not delivered yet (R136). -/
def State.pushedEarly (s : State) (vf : Nat) (e : Entry) : Bool :=
  s.crews.any fun x => x.2.vf == vf && (match x.2.task with | some t => t.committing && t.handle == e.parent | none => false)

/-- The queue is eligible for a request (R76), once the commit that pushed its oldest entry is done (R136). -/
def State.servesPop (s : State) (q : Nat) (x : Nat × Crew × PopReq) : Bool :=
  (s.queue q).en && decide (0 < (s.queue q).holds) && (s.queue q).vf == x.2.1.vf && x.2.2.names x.2.1 q &&
    !(((s.frontOf q).map fun e => s.pushedEarly x.2.1.vf e.1.1).getD false)

/-- The eligible queues, rising (R76). -/
def State.eligible (s : State) : List Nat :=
  (s.queues.map (·.1)).filter fun q => s.poppers.any fun x => s.servesPop q x

/-- The first of a list at or after a pointer, round. -/
def fromPtr (ptr : Nat) (l : List Nat) : Option Nat :=
  match l.find? fun q => decide (ptr ≤ q) with
  | some q => some q
  | none => l.head?

/-- The queue of a list that a dispatch serves (R76), with the credits reloaded when none of the priority has one. -/
def State.arbitrate (s : State) (el : List Nat) : Option (State × Nat) :=
  let p := el.foldl (fun m q => max m (s.queue q).ep) 0
  let top := el.filter fun q => (s.queue q).ep == p
  match fromPtr s.hg.ptr (top.filter fun q => decide (0 < (s.queue q).cr)) with
  | some q => some (s, q)
  | none =>
    (fromPtr s.hg.ptr top).map fun q =>
      ({ s with queues := s.queues.mapKV fun _ x => if x.ep = p then { x with cr := x.weight + 1 } else x }, q)

/-- The counters after a dispatch of one eligible queue (R76). -/
def State.served (s : State) (el : List Nat) (n : Nat) : State :=
  let limit := s.hg.hgcfg.toNat % 65536
  let s := el.foldl (fun (st : State) q =>
    st.modQueue q fun x =>
      if q = n then { x with cr := x.cr - 1, ep := x.prio, pass := 0 }
      else if x.pass + 1 = limit then { x with ep := min (x.ep + 1) 3, pass := 0 }
      else { x with pass := x.pass + 1 }) s
  { s with hg := { s.hg with ptr := (n + 1) % 256, dispatches := s.hg.dispatches + 1, last := s.now + 1 } }

/-- The waiting crew that takes an entry: the earliest request, then the lowest core and crew (R76). -/
def State.winner (s : State) (q : Nat) : Option (Nat × Crew × PopReq) :=
  minBy? (fun x => x.2.2.since) (s.poppers.filter fun x => s.servesPop q x)

/-- The entry is delivered: every thread of the crew receives it and is in the task (R57, R58). -/
def State.deliver (s : State) (ck q : Nat) (p : PopReq) (e : Entry) (seq : Nat) (h : Word) (dispatch : Nat) : State :=
  let s := s.modWholeCrew ck fun t => ({ t with tpop := (t.pc, t.cb) }.pastConv true).setRegs p.d e.words
  let task : Task :=
    { e := e, handle := h, seq := seq, q := q, elapsed := 0, buf := [], rset := [], signer := none, committing := false
      nextRec := 0, dispatch := dispatch, held := false }
  s.modCrew ck fun cr => { cr with pop := none, task := some task }

/-- A request with NB finds no entry: zeros, and no task begins (R57). -/
def State.emptyPop (s : State) (ck : Nat) (p : PopReq) : State :=
  (s.modWholeCrew ck fun t => (t.pastConv false).setRegs p.d (List.replicate 8 0)).modCrew ck fun cr =>
    { cr with pop := none }

/-- The first NB request that finds no enabled queue holding an entry. -/
def State.emptyNb (s : State) : Option (Nat × PopReq) :=
  (List.find? (fun (x : Nat × Crew × PopReq) => x.2.2.nb && !((upTo 0 256).any fun q =>
    x.2.2.names x.2.1 q && (s.queue q).en && decide (0 < (s.queue q).holds))) s.poppers).map fun x => (x.1, x.2.2)

/-- The partition's record-exhausted event waits or is raised (R54). -/
def State.recordsFull (s : State) (vf : Nat) : State :=
  if (s.part vf).faults.any fun f => f.event && f.user == 0x80 && !f.pushed then s else s.fileEvent vf 0x80 0 0

/-- A dispatch from the queue can be made: its next entry can be read, and its partition has a free task record (R54). -/
def State.dispatchable (s : State) (q : Nat) : Bool := (s.frontOf q).isSome && s.recFree (s.queue q).vf

/-- The partitions of eligible queues that are out of task records raise their events (R54). -/
def State.raiseFull (s : State) (el : List Nat) : State :=
  (el.filter fun q => (s.frontOf q).isSome && !s.recFree (s.queue q).vf).foldl (fun (st : State) q => st.recordsFull (s.queue q).vf) s

/-- HEADGATE_DISPATCH (R57, R76), at most one a cycle: an NB request that finds nothing is answered; else one entry goes from the served
queue to the waiting crew, with a task record. A dispatch that no free record allows is held (R54), as is one whose entry cannot be read
from the spillway: the Headgate then serves the other eligible queues, so that one partition does not hold up another (R369;
notes/assumptions/24.md). A fenced Headgate answers nothing (R354). -/
def execHeadgateDispatch (s : State) : Out :=
  .next (
    if s.fenced.contains headgateUnit || s.hg.last == s.now + 1 then s
    else
      match s.emptyNb with
      | some (ck, p) => s.emptyPop ck p
      | none =>
        let el := s.eligible
        match (s.raiseFull el).arbitrate (el.filter s.dispatchable) with
        | none => s.raiseFull el
        | some (s1, q) =>
          match s.frontOf q, s.winner q with
          | some (x, ring), some (ck, cr, p) =>
            (match (s1.takeFront q ring).allocRec cr.vf x.1 with
             | none => s
             | some (s2, h) => (s2.served el q).deliver ck q p x.1 x.2 h s.hg.dispatches)
          | _, _ => s)

/-! ### Counted cycles (R68) -/

/-- The cycles of a crew's task count now (R68). -/
def State.counts (s : State) (ck : Nat) (cr : Crew) : Bool :=
  let ts := s.crewThreads ck
  let parkedAll := ts.all fun x => match x.2.phase with | .parked _ _ => true | _ => false
  let onFault := ts.any fun x => match x.2.phase with | .parked .fault _ => true | _ => false
  let held := (ts.any fun x => x.2.rsHold) || (s.cmds.any fun c => c.crew == ck && c.rsHold)
  let grain := ts.any fun x => x.2.grainTrap && x.2.inTrap
  (s.part cr.vf).line == .running && !(parkedAll && onFault) && !held && !grain

/-- Cycles pass: the aborts that the cycle has asked for are resolved (R69), and the counter of R173 and the counted cycles of the running
tasks go on. -/
def State.pass (s : State) (n : Nat) : State :=
  let s := if n = 0 then s else s.crews.foldl (fun (st : State) x => st.resolveDue x.1) s
  { s with
    now := s.now + n
    crews := s.crews.mapKV fun ck cr =>
      if s.counts ck cr then { cr with task := cr.task.map fun t => { t with elapsed := t.elapsed + n } } else cr }

/-- READ_SET_HOLD_RELEASE (R66), of the thread that State.who names: once its task is the oldest, its read is made. -/
def execReadSetHoldRelease (s : State) : Out :=
  .next (
    match s.who with
    | [k] =>
      (match s.thread? k with
       | some t =>
         (match s.task? (t.crewKey k) with
          | some x => if t.rsHold && s.oldest (t.crewKey k) x then s.modThread k fun t => { t with rsHold := false } else s
          | none => s)
       | none => s)
    | _ => s)

/-! ### The commit (R64 to R67) -/

/-- The lines of the ranges that a held command writes. -/
def State.cmdLines (s : State) (c : Cmd) : List Nat :=
  ((s.touches c).filter (·.write)).flatMap fun x => linesOf x.va x.n

/-- The lines that a record writes (R66). -/
def State.recLines (s : State) : BufRec → List Nat
  | .line va _ => [va]
  | .red va _ _ _ _ => [va.toNat / 128]
  | .xadd va da _ _ _ => [va.toNat / 128, da.toNat / 128]
  | .cmd c => s.cmdLines c
  | _ => []

/-- The write set of a task (R66). -/
def State.writeSet (s : State) (t : Task) : List Nat := t.buf.flatMap s.recLines

/-- The younger running tasks of the queue that have read a line of a write set (R67). -/
def State.conflicts (s : State) (ck : Nat) (t : Task) (ws : List Nat) : List Nat :=
  ((s.running t.q).filter fun x => x.1 != ck && keyLt (t.e, t.seq) (x.2.e, x.2.seq) && x.2.rset.any fun l => ws.contains l).map (·.1)

/-- An ACP.S of the task is in flight (R64). -/
def State.acpsInFlight (s : State) (ck : Nat) (h : Word) : Bool :=
  s.cmds.any fun c => c.crew == ck && c.task == some h &&
    (match c.i with | .acpS _ _ _ _ _ _ _ _ => true | _ => false)

/-- The commit of a crew's task can begin (R63, R64, R66): a fenced Headgate begins none (R354). -/
def State.commitReady (s : State) (ck : Nat) : Bool :=
  match s.crew? ck with
  | some cr =>
    (match cr.task with
     | some t => t.signer.isSome && !t.committing && s.lineDown cr.vf && !s.fenced.contains headgateUnit && !s.acpsInFlight ck t.handle &&
         (!s.taskOrdered t || s.oldest ck t)
     | none => false)
  | none => false

/-- The commit is a release at dev scope of what the crew's threads had stored and could see at their TDONEs (R64, R136). -/
def State.releaseCrew (s : State) (t : Task) : State := s.showNeed t.rel

/-- TASK_COMMIT (R63, R64, R67), of the crew that State.who names. -/
def execTaskCommit (s : State) : Out :=
  .next (
    match s.who with
    | [ck] =>
      (match s.task? ck with
       | some t =>
         if s.commitReady ck then
           let hit := if s.taskOrdered t then s.conflicts ck t (s.writeSet t) else []
           let s := (s.modTask ck fun t => { t with committing := true }).releaseCrew t
           hit.foldl (fun (st : State) c => st.abortTask c .conflict) s
         else s
       | none => s)
    | _ => s)

/-- How a record of the buffer fares at the commit. -/
inductive RecRes where
  /-- it is performed -/
  | done (s : State)
  /-- a command that has been issued and still runs, or that waits for its unit -/
  | wait (s : State)
  /-- a cause, with its address -/
  | fault (c : Cause) (va : DWord)

/-- An access of the commit, for the last signer. -/
def State.commitAccess (s : State) (k vf : Nat) (va : DWord) : Except Cause Loc :=
  s.access (coreOf k) vf (tlbPort k) va.toNat .write

/-- A held push is checked again and made (R60). -/
def State.commitPush (s : State) (vf : Nat) (h : Word) (q : Nat) (e : Entry) : RecRes :=
  if !s.queueOpen vf q then .fault .queueUnbound 0
  else
    match s.pushNew q e with
    | .badEntry => .fault .badEntry 0
    | .spillFault va => .fault .spillwayFault va
    | .pushed s => .done (s.modRec vf h fun r => { r with outstanding := r.outstanding + 1 })

/-- The sectors that a held command takes only at its issue: an MCAST's (R224, R235). -/
def Cmd.commitWants (c : Cmd) : List (Nat × Bool) :=
  match c.i with
  | .mcast _ _ len _ _ _ _ _ =>
    (mcastCores ((c.ops.drop 3).take 4)).flatMap fun x => mcastSectors x (c.op 0).toNat (mcastLen len) 0
  | _ => c.want

/-- A held command is issued by the commit, in the name of the last signer (R64, R224). It keeps its number: it takes sectors
in the order in which commands were issued (R110). A fenced unit accepts none (R354). -/
def State.commitCmd (s : State) (k : Nat) (t : Thread) (c : Cmd) : RecRes :=
  if c.issued then (if (s.cmd? c.id).isSome then .wait s else .done s)
  else if s.fenced.contains c.unit.code then .fault .engineFenced 0
  else if c.unit.places ≤ (s.cmds.filter fun x => x.unit == c.unit).length then .wait s
  else
    let c' := { c with
      issued := true, thr := k, gang := t.gang, pc := t.pc, cb := t.cb, at_ := t.issued, lastServed := s.now, moved := s.now
      word := ((s.codeWord t.vf (coreOf k) t.pc).toOption.map (·.1)).getD 0, want := c.commitWants }
    let s := s.modTask (t.crewKey k) fun x => { x with buf := .cmd c' :: x.buf.tail }
    .wait (s.acceptCmd k c')

/-- Perform the first record of the buffer, in the name of the last signer (R64). -/
def State.commitOne (s : State) (k : Nat) (t : Thread) (h : Word) (rel : List (Nat × Nat)) : BufRec → RecRes
  | .line l bs =>
    let va : DWord := BitVec.ofNat 64 (l * 128)
    (match s.commitAccess k t.vf va with
     | .error c => .fault c va
     | .ok l =>
       .done ((s.keep l.ent).storeAt (t.writer k) maskDev ((bs.filter fun x => !inTail l x.1).map fun x => (l.key + x.1 % 128, x.2)) rel
         none t.vf))
  | .red va op w64 sc b =>
    (match s.commitAccess k t.vf va with
     | .error c => .fault c va
     | .ok l => .done (((s.keep l.ent).atomAt k { t with relNeed := rel } l va.toNat op (if w64 then 8 else 4) sc false b.toNat 0).1.showThread k
         maskDev))
  | .xadd va da sc c a =>
    (match s.commitAccess k t.vf va, s.commitAccess k t.vf da with
     | .error e, _ => .fault e va
     | _, .error e => .fault e da
     | .ok el, .ok dl =>
       let s := (s.keep el.ent).keep dl.ent
       let m := atomMask el sc (coreOf k)
       if descBad (s.descAt (coreOf k) m dl da.toNat) then .fault .x128Desc da
       else .done ((s.exactAdd (t.writer k) (coreOf k) m t.vf el dl va.toNat da.toNat c.toInt a 0 rel).1.showThread k maskDev))
  | .signal va add notify =>
    (match s.commitAccess k t.vf va with
     | .error c => .fault c va
     | .ok l => .done ((s.keep l.ent).changeSignal (t.writer k) (coreOf k) t.vf l va.toNat add notify (s.signalRelease k t) rel))
  | .push q e => s.commitPush t.vf h q e
  | .cmd c => s.commitCmd k t c

/-- A recoverable fault of the commit is logged against the last signer, which parks on FAULT (R64). -/
def State.commitFault (s : State) (k : Nat) (t : Thread) (c : Cause) (va : DWord) : State :=
  match s.fileFault t.vf c va (faultStamp k false) with
  | (s, none) => s
  | (s, some id) =>
    let e : LogEntry :=
      { word := ((s.codeWord t.vf (coreOf k) t.pc).toOption.map (·.1)).getD 0, pc := t.pc, cb := t.cb, srcs := [], dests := []
        cause := c, va := va, fid := id, verdict := if (s.part t.vf).fqOn then 0 else 2, cmd := none, at_ := t.issued
        commit := true, met := s.now }
    (s.modThread k fun t => { t with log := t.log ++ [e], phase := .parked .fault s.nextId, since := s.now }).modTask (t.crewKey k) fun x =>
      { x with held := true }

/-- The commit is done: tiles, regions and buffer are released, the crew leaves the task (R63, R64). -/
def State.finishCommit (s : State) (ck : Nat) (cr : Crew) (t : Task) : State :=
  let s := (s.clearTiles ck).releaseTaskSpace ck t.handle false
  let s := s.modRec cr.vf t.handle fun r => { r with committed := true }
  let s := s.modCrew ck fun cr => { cr with task := none, last := (1, 0, t.q) }
  s.modWholeCrew ck fun t => t.pastConv false

/-- The commit can go on: the last signer stands at its TDONE with nothing logged (R64). -/
def State.commitGoes (s : State) (ck : Nat) : Bool :=
  match s.crew? ck with
  | some cr =>
    (match cr.task with
     | some x =>
       x.committing && s.lineDown cr.vf && !s.fenced.contains headgateUnit && !(s.mats.any fun m => m.core * 64 + m.crew == ck) &&
         (match x.signer.bind s.thread? with
          | some t => t.onConv && t.log.isEmpty && t.imps.isEmpty
          | none => false)
     | none => false)
  | none => false

/-- COMMIT_RECORD (R64), of the crew that State.who names: the next record is performed, or the commit ends. A younger task that
has read a line of the record before it is performed is aborted (R67). -/
def execCommitRecord (s : State) : Out :=
  .next (
    match s.who with
    | [ck] =>
      (match s.crew? ck with
       | some cr =>
         (match cr.task, (cr.task.bind (·.signer)).bind fun k => (s.thread? k).map fun t => (k, t) with
          | some x, some (k, t) =>
            if !s.commitGoes ck then s
            else
              (match x.buf with
               | [] => if s.crewOnConv ck then s.finishCommit ck cr x else s
               | r :: rs =>
                 (match s.commitOne k t x.handle x.rel r with
                  | .done s' =>
                    let hit := if s.taskOrdered x then s.conflicts ck x (s.recLines r) else []
                    hit.foldl (fun (st : State) c => st.abortTask c .conflict)
                      (s'.modTask ck fun x => { x with buf := rs, nextRec := x.nextRec + 1 })
                  | .wait s => s
                  | .fault c va => if c.recoverable then s.commitFault k t c va else s.trap k c va))
          | _, _ => s)
       | none => s)
    | _ => s)

/-! ### Completion (R61) -/

/-- The handle of a record. -/
def handleOf (index : Nat) (r : TaskRec) : Word := BitVec.ofNat 32 (r.gen % 256 * 2 ^ 24 + index)

/-- A record's task has committed and its children have completed (R61). -/
def State.completable (s : State) (vf index : Nat) : Bool :=
  match (s.part vf).tasks.find? index with
  | some r => r.live && r.committed && r.outstanding == 0
  | none => false

/-- TASK_COMPLETE (R61), of the partition and the record that State.who names: the signal goes down, then the parent's
count, and the record is free. -/
def execTaskComplete (s : State) : Out :=
  .next (
    match s.who with
    | [vf, index] =>
      (match (s.part vf).tasks.find? index with
       | some r =>
         if s.completable vf index then (s.completeEntry vf r.e).freeRec vf (handleOf index r)
         else s
       | none => s)
    | _ => s)

/-! ### The end of a crew (R50, R360) -/

/-- The crew's rows contain a sector. -/
def Crew.ownsSector (cr : Crew) (ck n : Nat) : Bool :=
  let a := crewAddr (ck / 64) cr 0 / 32
  decide (a ≤ n) && decide (n < a + cr.rows * 64)

/-- The crew is idle (R360). -/
def State.crewIdle (s : State) (ck : Nat) : Bool :=
  match s.crew? ck with
  | none => true
  | some cr =>
    (s.crewThreads ck).isEmpty && !(s.mats.any fun m => m.core * 64 + m.crew == ck) &&
      !(s.cmds.any fun c => c.crew == ck || (c.want ++ c.got).any fun w => cr.ownsSector ck w.1)

/-- CREW_END (R50), of the crew that State.who names. -/
def execCrewEnd (s : State) : Out :=
  .next (
    match s.who with
    | [ck] =>
      (match s.crew? ck with
       | some cr =>
         if cr.ended && !cr.reported && s.crewIdle ck then
           let s := (s.clearTiles ck).modCrew ck fun cr => { cr.dropMaps (fun _ _ => true) with
             tiles := [], convs := List.replicate 16 ConvReg.reset, gen := (cr.gen + 1) % 256, queues := [], regions := []
             reported := true }
           s.fileEvent cr.vf 0x81 (BitVec.ofNat 32 (ck % 64)) (BitVec.ofNat 32 (ck / 64))
         else s
       | none => s)
    | _ => s)

end Sys2Proof.Machine
end

