-- ==== Sys2Proof/Machine/Beats.lean ====
section
/-!
DEFINITION. The steps of the copy engines and the Siphon (spec/10_isa_copy_engines.md R221, R227 to R246;
spec/12_segments_linking_repair.md R284, R288): which command a sluice serves, its beats and rows, the ends of commands, the decay
of slack and the taking of sectors. State.who names the core or the command that moves.
-/
namespace Sys2Proof.Machine

/-! ### Which command is served (R221) -/

/-- A command still has a beat, a row or its whole work to perform. -/
def State.cmdWork (s : State) (c : Cmd) : Bool :=
  match c.i with
  | .acpL _ _ _ _ _ _ _ _ => c.beat == 0
  | .acpS _ _ _ _ _ _ _ _ => c.beat == 0
  | .bcp _ _ _ _ _ _ _ _ _ => decide (c.beat < c.tlr.beats)
  | .mcast _ _ len _ _ _ _ _ => !(c.landing len).isEmpty
  | .kvg _ _ _ _ _ _ _ _ _ _ => decide (c.beat < c.kvgBeats) || (s.kvgFill c c.rows).isSome
  | .kva _ _ _ _ _ _ _ => decide (c.beat < c.kvaTokens) && !s.kvaBehind c
  | .drain _ _ _ _ _ _ _ _ _ => decide (c.beat < 64) && s.drainFree c
  | .segsum _ _ _ _ => c.beat == 0
  | .kvr _ _ _ _ => true
  | _ => false

/-- A read that R66 holds is made once the command's task is the oldest. -/
def State.cmdReadFree (s : State) (c : Cmd) : Bool :=
  !c.rsHold || (match s.task? c.crew with | some t => s.oldest c.crew t | none => true)

/-- A command can be served: its unit is not fenced, its partition runs, it has its sectors and no fault (R221, R222). -/
def State.servable (s : State) (c : Cmd) : Bool :=
  c.ready && s.mayRun c.vf c.crew && !s.fenced.contains c.unit.code

/-- The command that a core's sluice serves next (R221): the lowest effective slack; the earliest issued one of those. -/
def State.sluiceNext (s : State) (core : Nat) : Option Cmd :=
  minBy? (fun c => c.slackAt s.now) (s.cmds.filter fun c => c.unit == .sluice core && s.servable c && s.cmdWork c && s.cmdReadFree c)

/-- The command has been served: it keeps the effective slack it has reached, and its count of unserved cycles starts again
(R221). -/
def State.cmdServed (s : State) (id : Nat) : State :=
  s.modCmd id fun c => { c with slack := c.slackAt s.now, lastServed := s.now, moved := s.now }

/-- One step of a command that its sluice serves. -/
def State.serve (s : State) (c : Cmd) (r : Except AccFault State) : State :=
  s.cmdStep c (r.map fun s => s.cmdServed c.id)

/-- The command that State.who names, when it can be served. -/
def State.whoCmd (s : State) : Option Cmd :=
  match s.who with
  | [id] => (s.cmd? id).bind fun c => if s.servable c then some c else none
  | _ => none

/-- An event of the command that State.who names; without one it has no effect. -/
def cmdEvent (s : State) (f : Cmd → State) : Out :=
  .next (match s.whoCmd with | some c => f c | none => s)

/-- An event of the command that the sluice of the core in State.who serves next. -/
def sluiceEvent (s : State) (f : Cmd → State) : Out :=
  .next (match s.who with | [core] => (match s.sluiceNext core with | some c => f c | none => s) | _ => s)

/-! ### Beats and rows -/

/-- The command is the one that its sluice serves next. -/
def State.isNext (s : State) (c : Cmd) : Bool :=
  match c.unit with
  | .sluice core => (s.sluiceNext core).map (·.id) == some c.id
  | _ => false

/-- The beat of a KVG, or, once every beat has passed, the fill of a waiting row (R238). -/
def State.kvgMove (s : State) (c : Cmd) : Except AccFault State :=
  if c.beat < c.kvgBeats then s.kvgBeat c else (s.kvgFill c c.rows).getD (.ok s)

/-- SLUICE_BEAT (R221): a beat of 256 bytes of the command that the sluice of the core in State.who chooses. -/
def execSluiceBeat (s : State) : Out :=
  sluiceEvent s fun c =>
    match c.i with
    | .acpL _ _ _ _ _ _ _ _ => s.serve c (s.acpLoad c)
    | .acpS _ _ _ _ _ _ _ _ => s.serve c (s.acpStore c)
    | .bcp _ _ _ _ _ _ _ _ _ => s.serve c (s.bcpBeat c)
    | .mcast _ _ len _ _ _ _ _ => s.serve c (s.mcastBeat c len)
    | .kvg _ _ _ _ _ _ _ _ _ _ => s.serve c (s.kvgMove c)
    | .kva _ _ _ _ _ _ _ => (s.cmdServed c.id).kvaStep c
    | _ => s

/-- DRAIN_ROW (R242): the next row of the drain that the sluice serves. -/
def execDrainRow (s : State) : Out :=
  sluiceEvent s fun c =>
    match c.i with
    | .drain _ _ mode _ clr _ _ _ _ => s.serve c (s.drainRow c mode clr)
    | _ => s

/-- SLACK_DECAY (R221): the cycles that a command has waited without a beat are taken off its slack, 1 for every 1024, down to
0; its effective slack is what it was before. -/
def execSlackDecay (s : State) : Out :=
  .next (
    match s.who with
    | [id] =>
      (match s.cmd? id with
       | some c =>
         if decide (c.lastServed + 1024 ≤ s.now) && decide (0 < c.slack) && s.mayRun c.vf c.crew then
           s.modCmd id fun c => { c with
             slack := c.slackAt s.now, lastServed := c.lastServed + (s.now - c.lastServed) / 1024 * 1024 }
         else s
       | none => s)
    | _ => s)

/-- ENGINE_SECTOR_TAKE (R110): a command, a held command or a matrix operation takes the sectors it can. -/
def execEngineSectorTake (s : State) : Out :=
  .next (
    match s.who with
    | [id] => (s.crews.foldl (fun (st : State) x => st.takeHeld x.1 id) (s.takeFor id)).takeMat id
    | _ => s)

/-! ### Ends -/

/-- ACP_COMPLETE (R227): the sector is READY and the tag counter goes down. -/
def execAcpComplete (s : State) : Out :=
  cmdEvent s fun c =>
    match c.tag? with
    | some tag => if c.beat = 1 then (s.completeCmd c none).decTag c tag else s
    | none => s

/-- BCP_COMPLETE (R233). -/
def execBcpComplete (s : State) : Out :=
  cmdEvent s fun c =>
    match c.i with
    | .bcp _ _ _ nosig _ _ _ _ _ => if c.beat < c.tlr.beats then s else s.completeCmd c (c.signalAt nosig 8)
    | _ => s

/-- MCAST_COMPLETE (R235). -/
def execMcastComplete (s : State) : Out :=
  cmdEvent s fun c =>
    match c.i with
    | .mcast _ _ len nosig _ _ _ _ => if (c.landing len).isEmpty then s.completeCmd c (c.signalAt nosig 7) else s
    | _ => s

/-- KVG_ROW_FILL (R238): a waiting row that is no longer PENDING is filled, when its command is the one to be served. -/
def execKvgRowFill (s : State) : Out :=
  cmdEvent s fun c =>
    match s.kvgFill c c.rows with
    | some r => if s.isNext c then s.serve c r else s
    | none => s

/-- KVG_COMPLETE (R238): the status sector, after every other sector. -/
def execKvgComplete (s : State) : Out :=
  cmdEvent s fun c =>
    match c.i with
    | .kvg _ _ _ _ _ _ _ _ _ _ =>
      if c.beat < c.kvgBeats ∨ c.rows ≠ [] then s else (s.kvgStatus c).completeCmd c none
    | _ => s

/-- KVA_COMPLETE (R240). -/
def execKvaComplete (s : State) : Out :=
  cmdEvent s fun c =>
    match c.i with
    | .kva _ _ _ nosig _ _ _ => if c.beat < c.kvaTokens then s else s.completeCmd c (c.signalAt nosig 4)
    | _ => s

/-- DRAIN_COMPLETE (R242). -/
def execDrainComplete (s : State) : Out :=
  cmdEvent s fun c =>
    match c.i with
    | .drain _ _ _ nosig _ _ _ _ _ => if c.beat < 64 then s else s.completeCmd c (c.signalAt nosig 8)
    | _ => s

/-- SEGSUM_COMPLETE (R284): the summary, SUMMED, and the signal. -/
def execSegsumComplete (s : State) : Out :=
  cmdEvent s fun c =>
    match c.i with
    | .segsum _ nosig _ _ =>
      if c.beat = 1 then s.completeCmd c (c.signalAt nosig 1)
      else if s.isNext c then
        match s.segsumAll c with
        | .error e => s.cmdFault c e
        | .ok s' => ((s'.cmdServed c.id).modCmd c.id fun c => { c with beat := 1 }).completeCmd c (c.signalAt nosig 1)
      else s
    | _ => s

/-- KVR_PERFORM (R288). -/
def execKvrPerform (s : State) : Out :=
  cmdEvent s fun c =>
    match c.i with
    | .kvr _ _ _ _ =>
      if s.isNext c then
        match s.kvrAll c with
        | .error e => s.cmdFault c e
        | .ok s' => s'.completeCmd c none
      else s
    | _ => s

/-! ### The Siphon (R244 to R246) -/

/-- The job that the Siphon decodes, while it has not ended and no fault has stopped it. Jobs are served in order of arrival, so
one that waits or that a fault has stopped holds up those behind it (R21, R221, R222, R244). -/
def State.siphonNext (s : State) : Option Cmd :=
  (s.firstOf .siphon).bind fun c => if c.job.isNone && s.servable c then some c else none

/-- SIPHON_DECODE (R245). -/
def execSiphonDecode (s : State) : Out :=
  .next (match s.siphonNext with | some c => (s.cmdServed c.id).siphonStep c | none => s)

/-- JOB_COMPLETE (R244), of the job that State.who names. A fenced Siphon still writes the record of a job that has ended: it is
where SIPHON_CHECK is reported (R354, R357). -/
def execJobComplete (s : State) : Out :=
  .next (
    match s.who with
    | [id] =>
      (match s.cmd? id with
       | some c =>
         (match c.unit, c.job with
          | .siphon, some e => if c.ready && s.mayRun c.vf c.crew && !s.behind c then s.jobComplete c e else s
          | _, _ => s)
       | none => s)
    | _ => s)

end Sys2Proof.Machine
end

