-- ==== Sys2Proof/Machine/Faults.lean ====
section
/-!
DEFINITION. The fault service path (spec/22_partitions_translation.md R366, R367; spec/02_threads_furrows_crews.md
R46; spec/21_privileged_state_traps.md R350): the responses to a fault, the delivery of a declined log entry, the report
of faults and events on the fault queue, and the quota's own checks.
-/
namespace Sys2Proof.Machine

/-! ### Applying a response -/

/-- The entries of a fault id receive a response. -/
def answerEntries (fid verdict : Nat) (l : List LogEntry) : List LogEntry :=
  l.map fun e => if e.fid = fid ∧ e.verdict = 0 then { e with verdict := verdict } else e

/-- A fault id is freed (R367). -/
def State.freeFault (s : State) (vf fid : Nat) : State :=
  s.modPart vf fun p => { p with faults := p.faults.filter fun f => f.event || f.id != fid }

/-- The command stopped on a fault id. -/
def Cmd.stoppedBy (c : Cmd) (vf fid : Nat) : Bool :=
  c.vf == vf && (match c.fault with | some f => f.fid == some fid && !f.resolved | none => false)

/-- A command's fault is resolved: a logged one waits for its entry's turn, every other one goes on (R222). -/
def Cmd.resolve (c : Cmd) : Cmd :=
  match c.fault with
  | some f => if f.logged ∧ c.unit ≠ .siphon then { c with fault := some { f with resolved := true } } else { c with fault := none }
  | none => c

/-- The log of an evicted thread receives a response. -/
def Evicted.answer (vf fid verdict : Nat) (e : Evicted) : Evicted :=
  if e.t.vf = vf then { e with t := { e.t with log := answerEntries fid verdict e.t.log } } else e

/-- RESOLVE (R367): every log entry and every stopped command that holds the id replays; a clause whose fetch holds it is
fetched again (R142). -/
def State.resolveFault (s : State) (vf fid : Nat) : State :=
  let threads := s.threads.mapKV fun _ t =>
    if t.vf = vf then
      { t with log := answerEntries fid 1 t.log, fetchFault := if t.fetchFault.map (·.1) = some fid then none else t.fetchFault }
    else t
  ({ s with threads := threads, evicted := s.evicted.map (Evicted.answer vf fid 1), cmds := s.cmds.map fun (c : Cmd) => if c.stoppedBy vf fid then c.resolve else c }).freeFault vf fid

/-- A stopped command whose fault is declined is abandoned at once (R222, R223, R246); when a log entry stands for it, the
delivery of the entry is its trap (R350). -/
def State.declineCmd (s : State) (c : Cmd) : State :=
  match c.fault with
  | none => s
  | some f =>
    if c.unit = .siphon then
      (s.jobEnd c 3 c.tokens.2 c.tokens.1 f.cause.code f.va).modCmd c.id fun c => { c with fault := none }
    else if f.logged then s.discardCmd c
    else s.abandon c f.cause f.va

/-! ### Delivering a declined entry (R350) -/

/-- A declined record of a commit is discarded (R64). -/
def State.dropRecord (s : State) (ck : Nat) (e : LogEntry) : State :=
  if !e.commit then s
  else s.modTask ck fun x =>
    if e.cmd.isNone then { x with buf := x.buf.tail, nextRec := x.nextRec + 1, held := false } else { x with held := false }

/-- The declined oldest entry of a thread's log is delivered (R350): the commands of its engine entries are given up. -/
def State.declineHead (s : State) (k : Nat) : State :=
  match s.thread? k with
  | none => s
  | some t =>
    match t.log with
    | [] => s
    | e :: _ =>
      let s := t.log.foldl (fun (st : State) e =>
        match e.cmd.bind st.cmd? with
        | some c => st.discardCmd c
        | none => st) s
      ((s.dropRecord (t.crewKey k) e).unbundle [k]).deliverLog k |>.logStopped k

/-- The thread is parked on a wait that an imprecise trap ends: what it waits for may never come once the command is given up
(R223). A thread that waits at a JOIN or a collective takes the trap when it goes on. -/
def Thread.interruptible (t : Thread) : Bool :=
  match t.phase with
  | .parked (.sector _) _ | .parked (.tag _) _ | .parked (.signal _ _ _) _ | .parked (.conv _) _ | .parked (.grant _) _ => true
  | _ => false

/-- The thread's oldest entry has been declined and its thread stands where it is delivered: parked on FAULT, or on another
wait that a trap ends (R46, R64, R350). -/
def Thread.declined (t : Thread) : Bool :=
  match t.log with
  | e :: _ => e.verdict == 2 && (t.onFault || t.interruptible || e.commit)
  | [] => false

/-- DECLINE (R367): every log entry that holds the id is declined, and every stopped command abandoned; the lanes that wait for a KVG of
which an entry is declined go on; an entry is delivered once it is the oldest of a parked thread. -/
def State.declineFault (s : State) (vf fid : Nat) : State :=
  let threads := s.threads.mapKV fun _ t =>
    if t.vf = vf then
      let hit := t.fetchFault.filter fun f => f.1 == fid
      { t with log := answerEntries fid 2 t.log, fetchFault := if hit.isSome then none else t.fetchFault
               fetchDecl := (hit.map fun f => (Cause.pageNotPresent, f.2)).or t.fetchDecl }
    else t
  let cs := s.cmds.filter fun c => c.stoppedBy vf fid
  let hs := s.threads ++ s.evicted.map fun e => (e.key, e.t)
  let s := cs.foldl (fun (st : State) c => st.declineCmd c)
    { s with threads := threads, evicted := s.evicted.map (Evicted.answer vf fid 2) }
  let s := (hs.filter fun x => x.2.vf == vf).foldl (fun (st : State) x =>
    (x.2.log.filter fun e => e.fid == fid && e.verdict == 0).foldl (fun (st : State) e => st.dropGather x.1 x.2 e) st) s
  let ks := (s.threads.filter fun x => x.2.vf == vf && x.2.declined).map (·.1)
  (ks.foldl (fun (st : State) k => st.declineHead k) s).freeFault vf fid

/-- A fault id has the response that system software wrote to FRESP, and its partition runs (R367, R375). -/
def State.answered (s : State) (vf fid resp : Nat) : Bool :=
  (s.part vf).line == .running && (s.part vf).faults.any fun f => !f.event && f.id == fid && f.resp == resp

/-- FRESP_RESOLVE (R367): the response is applied. -/
def execFrespResolve (vf : Nat) (fid : BitVec 24) (s : State) : Out :=
  .next (if s.answered vf fid.toNat 1 then s.resolveFault vf fid.toNat else s)

/-- FRESP_DECLINE (R367). -/
def execFrespDecline (vf : Nat) (fid : BitVec 24) (s : State) : Out :=
  .next (if s.answered vf fid.toNat 2 then s.declineFault vf fid.toNat else s)

/-! ### Reports (R367) -/

/-- FENTRY and FQ of FQCFG (R368). -/
def Part.fentry (p : Part) : Word := hiWord p.fqcfg
/-- FQ (R368). -/
def Part.fq (p : Part) : Nat := bits p.fqcfg.toNat 7 0

/-- The task entry that reports a fault or an event (R367). -/
def FaultRec.entry (f : FaultRec) (fentry : Word) : Entry :=
  { entry := fentry, flags := BitVec.ofNat 32 (f.user * 65536), lo := f.lohi, hi := f.lohi, arg := f.va, tstamp := f.tstamp
    parent := noTask }

/-- The fault queue has room on chip: it is enabled, owned and unordered (R367, R368). -/
def State.fqRoom (s : State) (vf : Nat) : Bool :=
  let p := s.part vf
  let q := s.queue p.fq
  p.fqOn && q.en && q.vf == vf && !q.ordered && q.spcnt == 0 && decide (q.ents.length < 64)

/-- The fault table once a report is made: an event leaves it, a fault stays. -/
def markPushed : List FaultRec → List FaultRec
  | [] => []
  | f :: fs => if f.pushed then f :: markPushed fs else if f.event then fs else { f with pushed := true } :: fs

/-- FAULT_REPORT (R367), of the partition that State.who names: the oldest unreported entry is pushed to the fault queue. -/
def execFaultReport (s : State) : Out :=
  .next (
    match s.who with
    | [vf] =>
      (match (s.part vf).faults.find? fun f => !f.pushed with
       | some f =>
         if s.fqRoom vf && s.lineDown vf then
           (match s.pushNew (s.part vf).fq (f.entry (s.part vf).fentry) with
            | .pushed s => s.modPart vf fun p => { p with faults := markPushed p.faults }
            | _ => s)
         else s
       | none => s)
    | _ => s)

/-! ### The quota's own checks (R366) -/

/-- A thread or a command that waits on a QUOTA fault, and the blocks it needs. -/
structure QuotaWait where
  fid  : Nat
  isCmd : Bool
  key  : Nat
  need : Nat
  met  : Nat

/-- The blocks that a logged SEGNEW needs (R283). -/
def State.segNeed (s : State) (k : Nat) (t : Thread) (e : LogEntry) : Nat :=
  match decode e.word with
  | .instr (.segnew g d a b) =>
    let t' := e.srcs.foldl (fun (x : Thread) y => x.setReg y.1 y.2) t
    (match segFields (t'.r a) (t'.reg (a.toNat + 1)) (pairOf (t'.reg (a.toNat + 2)) (t'.reg (a.toNat + 3))),
           s.segHdr (s.asCmd (.segnew g d a b) k t') with
     | some seg, .ok (_, hdr) => seg.blocks hdr.p
     | _, _ => 0)
  | _ => 0

/-- The blocks that a stopped KVA needs (R240). -/
def State.kvaNeed (s : State) (c : Cmd) : Nat :=
  match s.segHdr c with
  | .ok (_, hdr) => c.ctx.tailBlocks hdr.p
  | .error _ => 0

/-- Who waits on a QUOTA fault of a partition, in the order in which they faulted (R366); those of one cycle threads first, then
commands, by their keys (notes/assumptions/38.md). -/
def State.quotaWaits (s : State) (vf : Nat) : List QuotaWait :=
  let fs := (s.part vf).faults.filter fun f => !f.event && f.user == Cause.quota.code
  let threads := s.threads.flatMap fun (k, t) =>
    if t.vf ≠ vf then []
    else (t.log.filter fun e => e.cmd.isNone && e.verdict == 0 && fs.any fun f => f.id == e.fid).map fun e =>
      { fid := e.fid, isCmd := false, key := k, need := s.segNeed k t e, met := e.met }
  let cmds := s.cmds.filterMap fun c =>
    (fs.find? fun f => c.stoppedBy vf f.id).map fun f =>
      { fid := f.id, isCmd := true, key := c.id, need := s.kvaNeed c, met := (c.fault.map (·.met)).getD 0 }
  sortBy (fun (a b : QuotaWait) => decide (a.met ≤ b.met)) (threads ++ cmds)

/-- The allocation would succeed (R366). -/
def State.quotaFits (s : State) (vf g : Nat) : Bool :=
  decide (s.poolUsed vf + g ≤ (s.part vf).quota) && decide (g ≤ s.freePool.length)

/-- Nobody waits on a fault id any more. -/
def State.faultIdle (s : State) (vf fid : Nat) : Bool :=
  !(s.threads.any fun x => x.2.vf == vf && (x.2.fetchFault.map (·.1) == some fid || x.2.log.any fun e => e.fid == fid && e.verdict == 0)) &&
    !(s.cmds.any fun c => c.stoppedBy vf fid)

/-- One waiter of a QUOTA fault replays. -/
def State.quotaResume (s : State) (w : QuotaWait) : State :=
  if w.isCmd then
    let s := s.modCmd w.key Cmd.resolve
    match s.cmd? w.key with
    | some c =>
      s.modThread c.thr fun t =>
        let log := t.log.map fun e => if e.cmd = some w.key ∧ e.fid = w.fid then { e with verdict := 1 } else e
        { t with log := log }
    | none => s
  else s.modThread w.key fun t => { t with log := answerEntries w.fid 1 t.log }

/-- QUOTA_RECHECK (R366), of the partition that State.who names: its oldest parked allocation replays once it fits. -/
def execQuotaRecheck (s : State) : Out :=
  .next (
    match s.who with
    | [vf] =>
      (match s.quotaWaits vf with
       | w :: _ =>
         if s.quotaFits vf w.need && s.lineDown vf then
           let s := s.quotaResume w
           if s.faultIdle vf w.fid then s.freeFault vf w.fid else s
         else s
       | [] => s)
    | _ => s)

end Sys2Proof.Machine
end

