-- ==== Sys2Proof/Machine/System.lean ====
section
/-!
DEFINITION. The system registers by MFX and MTX and by the rows of their own (spec/21_privileged_state_traps.md R345 to
R347, R351; spec/22_partitions_translation.md R366 to R368; spec/03_tasks_queues_split.md R55), HALT (R353), SMCALL and the
SMC's reply (R356, R397).
-/
namespace Sys2Proof.Machine

/-! ### System registers -/

/-- The code of a convergence register's state (R36). -/
def ConvState.code : ConvState → Nat
  | .idle => 0
  | .armed => 1
  | .orphaned => 2

/-- The 64-bit image of a convergence register (R36). -/
def ConvReg.image (r : ConvReg) : DWord :=
  BitVec.ofNat 64 (r.count % 2048 + r.expect % 2048 * 2 ^ 11 + r.st.code * 2 ^ 22 + r.gen % 256 * 2 ^ 24 + r.members.toNat * 2 ^ 32)

/-- The queue that QSEL selects, when the partition owns it (R368). -/
def State.selected (s : State) (vf : Nat) : Option Nat :=
  let q := (s.part vf).qsel.toNat % 256
  if (s.queue q).vf = vf then some q else none

/-- What MFX reads of a system register; none is SYSREG_BAD (R345 to R347, R368). -/
def State.sysRead (s : State) (k : Nat) (t : Thread) (r : Nat) : Option DWord :=
  let p := s.part t.vf
  let w (x : Word) : Option DWord := some (x.setWidth 64)
  if r = 0x000 then w t.fstat
  else if r = 0x001 then w t.fctl
  else if r = 0x010 then w t.tr.cause
  else if r = 0x011 then some t.tr.epc
  else if r = 0x012 then some t.tr.ecb
  else if r = 0x013 then some t.tr.npc
  else if r = 0x014 then some t.tr.ncb
  else if r = 0x015 then w t.tr.skid
  else if r = 0x016 then some t.tr.badva
  else if r = 0x017 then w t.tr.sstat
  else if r = 0x018 then some t.tr.tscr0
  else if r = 0x019 then some t.tr.tscr1
  else if r = 0x020 then some t.tr.logs
  else if 0x021 ≤ r ∧ r ≤ 0x024 then some (t.tr.logw.getD (r - 0x021) 0)
  else if 0x025 ≤ r ∧ r ≤ 0x028 then some (t.tr.logva.getD (r - 0x025) 0)
  else if 0x030 ≤ r ∧ r ≤ 0x03F then
    some (match s.crew? (t.crewKey k) with | some cr => (cr.conv (r - 0x030)).image | none => 0)
  else if r = 0x100 then w (s.coreRegs (coreOf k)).furcfg
  else if r = 0x200 then some p.tvec
  else if r = 0x202 then some (BitVec.ofNat 64 t.vf)
  else if r = 0x203 then w p.smcmask
  else if r = 0x204 then some p.ptroot
  else if r = 0x205 then some p.segtab
  else if r = 0x206 then some p.trarea
  else if r = 0x207 then w p.trcount
  else if r = 0x208 then some p.fqcfg
  else if r = 0x209 ∨ r = 0x20A then some 0
  else if r = 0x20C then w p.qsel
  else if r = 0x20D then (s.selected t.vf).map fun q => (s.queue q).qcfg
  else if r = 0x20E then (s.selected t.vf).map fun q => (s.queue q).qspill
  else if r = 0x20F then
    (s.selected t.vf).map fun q =>
      BitVec.ofNat 64 ((s.queue q).hostdrop.toNat + (if (s.queue q).holds = 0 then 2 else 0))
  else if 0x210 ≤ r ∧ r ≤ 0x213 then some (p.desc.extractLsb' (64 * (r - 0x210)) 64)
  else none

/-- SYSREG_BAD: ICODE is the failing SREG (R346). -/
def State.sysBad (s : State) (k r : Nat) : State := s.trap k .sysregBad 0 r

/-- The register write of an MFX. -/
def State.putSys (s : State) (k : Nat) (d : Reg) (w64 : Bool) (v : DWord) : State :=
  if w64 then s.put2 k d v else s.put1 k d (loWord v)

/-- MFX (R345). -/
def execMfx (g : Guard) (w64 : Bool) (sreg : BitVec 12) (d : Reg) (s : State) : Out :=
  word (.mfx g w64 sreg d) s fun k t =>
    match s.sysRead k t sreg.toNat with
    | some v => s.putSys k d w64 v
    | none => s.sysBad k sreg.toNat

/-- FRESP records a response (R367, R368): an id that is not outstanding and a reserved verdict have no effect. -/
def Part.respond (p : Part) (v : DWord) : Part :=
  let id := bits v.toNat 23 0
  let verdict := bits v.toNat 25 24
  if 2 ≤ verdict then p
  else { p with faults := p.faults.map fun f => if !f.event && f.id == id && f.resp == 0 then { f with resp := verdict + 1 } else f }

/-- A write of a per-thread or per-partition register that MTX performs here; none is SYSREG_BAD (R345 to R347, R368).
Reserved bits keep reading as zero (R5). -/
def State.sysWrite (s : State) (k : Nat) (t : Thread) (r : Nat) (v : DWord) : Option State :=
  let x : Word := loWord v
  let tr (f : TrapRegs → TrapRegs) : Option State := some (s.modThread k fun t => { t with tr := f t.tr })
  let part (f : Part → Part) : Option State := some (s.modPart t.vf f)
  if r = 0x000 then some (s.modThread k fun t => { t with fstat := x &&& 0x1F })
  else if r = 0x001 then some (s.modThread k fun t => { t with fctl := x &&& 0x1F })
  else if r = 0x010 then tr fun y => { y with
    cause := if 0x60 ≤ bits x.toNat 6 0 then (x &&& 0xFFFF0180) ||| (y.cause &&& 0x7F) else x &&& 0xFFFF01FF }
  else if r = 0x013 then tr fun y => { y with npc := v }
  else if r = 0x014 then tr fun y => { y with ncb := v }
  else if r = 0x017 then tr fun y => { y with sstat := (y.sstat &&& 5) ||| (x &&& 2) }
  else if r = 0x018 then tr fun y => { y with tscr0 := v }
  else if r = 0x019 then tr fun y => { y with tscr1 := v }
  else if r = 0x101 ∨ r = 0x201 then some s
  else if r = 0x200 then part fun p => { p with tvec := v &&& 0xFFFFFFFFFFFFFFF8 }
  else if r = 0x204 then part fun p => { p with ptroot := v &&& 0x00FFFFFFFFFF0000 }
  else if r = 0x205 then part fun p => { p with segtab := v &&& 0xFFFFFFFFFFFFFFC0 }
  else if r = 0x209 then part fun p => p.respond v
  else if r = 0x20C then part fun p => { p with qsel := x &&& 0xFF }
  else none

/-- MTX (R345). -/
def execMtx (g : Guard) (w64 : Bool) (sreg : BitVec 12) (a : Reg) (s : State) : Out :=
  word (.mtx g w64 sreg a) s fun k t =>
    match s.sysWrite k t sreg.toNat (if w64 then t.pair a else (t.r a).setWidth 64) with
    | some s => s.retire k
    | none => s.sysBad k sreg.toNat

/-- FURCFG with its fields clamped (R31). -/
def furcfgClamp (x : Word) : Word :=
  let age := min (max (bits x.toNat 12 0) 16) 4096
  BitVec.ofNat 32 (age + min (bits x.toNat 16 13) 10 * 8192)

/-- FURCFG_WRITE (R31). -/
def execFurcfgWrite (g : Guard) (a : Reg) (s : State) : Out :=
  word (.furcfgWrite g a) s fun k t =>
    let c := coreOf k
    ({ s with cores := s.cores.set c { s.coreRegs c with furcfg := furcfgClamp (t.r a) } }).retire k

/-- UNIFORM_MISS_READ (R152, R347): reads and clears. -/
def execUniformMissRead (g : Guard) (d : Reg) (s : State) : Out :=
  word (.uniformMissRead g d) s fun k _ =>
    let c := coreOf k
    ({ s with cores := s.cores.set c { s.coreRegs c with uniformMiss := 0 } }).put1 k d (s.coreRegs c).uniformMiss

/-- HALTREC_READ (R347, R351): reads and clears. -/
def execHaltrecRead (g : Guard) (d : Reg) (s : State) : Out :=
  word (.haltrecRead g d) s fun k t => (s.modPart t.vf fun p => { p with haltrec := 0 }).put2 k d (s.part t.vf).haltrec

/-- A task of the partition is running. -/
def State.tasksRun (s : State) (vf : Nat) : Bool := s.crews.any fun x => x.2.vf == vf && x.2.task.isSome

/-- TRAREA_WRITE (R368): TRAREA or TRCOUNT, only while no task of the partition runs. -/
def execTrareaWrite (g : Guard) (count : Bool) (a : Reg) (s : State) : Out :=
  word (.trareaWrite g count a) s fun k t =>
    if s.tasksRun t.vf then s.sysBad k (if count then 0x207 else 0x206)
    else
      (s.modPart t.vf fun p =>
        if count then { p with trcount := t.r a &&& 0x00FFFFFF } else { p with trarea := t.pair a &&& 0xFFFFFFFFFFFFF000 }).retire k

/-- FQCFG_WRITE (R368): enabling a queue that is not owned or is ordered is refused. -/
def execFqcfgWrite (g : Guard) (a : Reg) (s : State) : Out :=
  word (.fqcfgWrite g a) s fun k t =>
    let v := t.pair a
    let q := v.toNat % 256
    if v.getLsbD 8 && ((s.queue q).vf != t.vf || (s.queue q).ordered) then s.sysBad k 0x208
    else (s.modPart t.vf fun p => { p with fqcfg := v &&& 0xFFFFFFFF000001FF }).retire k

/-- POOLFREE (R366, R368): a block that is not the partition's, or is sealed, sets POOLSTAT.ERR. -/
def execPoolfree (g : Guard) (a : Reg) (s : State) : Out :=
  word (.poolfree g a) s fun k t =>
    let b := (t.r a).toNat
    let tag := s.poolTag b
    if tag.owner = t.vf + 1 ∧ tag.sealed = false then (s.freeBlock t.vf b).retire k
    else (s.modPart t.vf fun p => { p with poolErr := true }).retire k

/-- POOLSTAT_READ (R368): USED, ERR and QUOTA; the read clears ERR. -/
def execPoolstatRead (g : Guard) (d : Reg) (s : State) : Out :=
  word (.poolstatRead g d) s fun k t =>
    let p := s.part t.vf
    let v := s.poolUsed t.vf % 2 ^ 31 + p.poolErr.toNat * 2 ^ 31 + p.quota * 2 ^ 32
    (s.modPart t.vf fun p => { p with poolErr := false }).put2 k d (BitVec.ofNat 64 v)

/-- The QCFG that a write stores (R55, R368): PART is kept, SPSZ is clamped, reserved bits are zero. -/
def qcfgStored (old v : DWord) : DWord :=
  let spsz := min (max (bits v.toNat 38 34) 10) 24
  (v &&& 0x00000003FFFFF0FF) ||| (old &&& 0xF00) ||| BitVec.ofNat 64 (spsz * 2 ^ 34)

/-- ORD and SPSZ agree. -/
def sameShape (a b : DWord) : Bool := a.getLsbD 1 == b.getLsbD 1 && bits a.toNat 38 34 == bits b.toNat 38 34

/-- The queue with a new QCFG (R55, R76): enabling it starts its arbitration afresh. -/
def Queue.configure (q : Queue) (v : DWord) : Queue :=
  let n := { q with qcfg := v }
  if n.en && !q.en then { n with ep := n.prio, pass := 0, cr := n.weight + 1 } else n

/-- QCFGR_WRITE (R55, R368). -/
def execQcfgrWrite (g : Guard) (a : Reg) (s : State) : Out :=
  word (.qcfgrWrite g a) s fun k t =>
    match s.selected t.vf with
    | none => s.sysBad k 0x20D
    | some n =>
      let q := s.queue n
      let v := qcfgStored q.qcfg (t.pair a)
      if (q.en && v.getLsbD 0) || (0 < q.holds && !sameShape q.qcfg v) then s.sysBad k 0x20D
      else (s.modQueue n fun q => q.configure v).retire k

/-- QSPILLR_WRITE (R55, R368): a new spillway begins at its first place. -/
def execQspillrWrite (g : Guard) (a : Reg) (s : State) : Out :=
  word (.qspillrWrite g a) s fun k t =>
    match s.selected t.vf with
    | none => s.sysBad k 0x20E
    | some n =>
      let q := s.queue n
      let v := t.pair a &&& 0x00FFFFFFFFFF0000
      if q.en || (0 < q.holds && v != q.qspill) then s.sysBad k 0x20E
      else (s.modQueue n fun q => if v = q.qspill then q else { q with qspill := v, sphead := 0 }).retire k

/-- QSTAT_WRITE (R368): writing 1 clears HOSTDROP. -/
def execQstatWrite (g : Guard) (a : Reg) (s : State) : Out :=
  word (.qstatWrite g a) s fun k t =>
    match s.selected t.vf with
    | none => s.sysBad k 0x20F
    | some n => (s.modQueue n fun q => if (t.r a).getLsbD 0 then { q with hostdrop := false } else q).retire k

/-! ### HALT (R353) -/

/-- HALT (R351, R353): the halt line is raised, and the thread stops at the HALT. -/
def execHalt (g : Guard) (code : BitVec 16) (s : State) : Out :=
  word (.halt g code) s fun k t =>
    ((s.modThread k fun t => { t with phase := .stopped }).leave k).haltLine t.vf k .halted true (coreOf k) (laneOf k) (slotOf k)
      code.toNat

/-! ### SMCALL (R356, R397) -/

/-- The number of an SMCALL's function (R356). -/
def smcFn : Instr → Nat
  | .smcallLogput _ _ _ => 1
  | .smcallLogget _ _ _ => 2
  | .smcallQuote _ _ _ => 3
  | .smcallPowercap _ _ _ => 4
  | _ => 0

/-- A call waits at the SMC. -/
def State.smcEnqueue (s : State) (fn vf : Nat) (va sig : DWord) (block : List Byte) : State :=
  { s with smc := { s.smc with
      calls := s.smc.calls ++ [{ id := s.smc.nextCall, fn := fn, vf := vf, va := va, sig := sig, block := block }]
      nextCall := s.smc.nextCall + 1 } }

/-- SMCALL (R356): the block is read at issue, and the thread does not wait. -/
def State.smcall (s : State) (i : Instr) (k : Nat) (t : Thread) (va sig : DWord) : State :=
  let fn := smcFn i
  if va.toNat % 64 ≠ 0 then s.trap k .misaligned va
  else if sig.toNat % 16 ≠ 0 then s.trap k .misaligned sig
  else if !(s.part t.vf).smcmask.getLsbD fn then s.trap k .smcDenied
  else if t.inTask then s.trap k .taskIrrevocable
  else if 2 ^ 56 ≤ va.toNat then s.trap k .addrRange va
  else if 2 ^ 56 ≤ sig.toNat then s.trap k .addrRange sig
  else
    match s.access (coreOf k) t.vf (tlbPort k) va.toNat .write, s.access (coreOf k) t.vf (tlbPort k) sig.toNat .write with
    | .error e, _ => s.storeFault i k e va
    | _, .error e => s.storeFault i k e sig
    | .ok l, .ok m =>
      let bs := s.threadRead k t l va.toNat 64
      (((s.keep l.ent).keep m.ent).smcEnqueue fn t.vf va sig bs).retire k

/-- SMCALL.SENSOR (R356, R397). -/
def execSmcallSensor (g : Guard) (a c : Reg) (s : State) : Out :=
  word (.smcallSensor g a c) s fun k t => s.smcall (.smcallSensor g a c) k t (t.pair a) (t.pair c)

/-- SMCALL.LOGPUT (R356, R397). -/
def execSmcallLogput (g : Guard) (a c : Reg) (s : State) : Out :=
  word (.smcallLogput g a c) s fun k t => s.smcall (.smcallLogput g a c) k t (t.pair a) (t.pair c)

/-- SMCALL.LOGGET (R356, R397). -/
def execSmcallLogget (g : Guard) (a c : Reg) (s : State) : Out :=
  word (.smcallLogget g a c) s fun k t => s.smcall (.smcallLogget g a c) k t (t.pair a) (t.pair c)

/-- SMCALL.QUOTE (R356, R397). -/
def execSmcallQuote (g : Guard) (a c : Reg) (s : State) : Out :=
  word (.smcallQuote g a c) s fun k t => s.smcall (.smcallQuote g a c) k t (t.pair a) (t.pair c)

/-- SMCALL.POWERCAP (R356, R397). -/
def execSmcallPowercap (g : Guard) (a c : Reg) (s : State) : Out :=
  word (.smcallPowercap g a c) s fun k t => s.smcall (.smcallPowercap g a c) k t (t.pair a) (t.pair c)

/-- Classes of a log record (R397). -/
def logTransient : Nat := 0
/-- LASTING. -/
def logLasting : Nat := 1
/-- START. -/
def logStart : Nat := 2
/-- SOFTWARE. -/
def logSoftware : Nat := 3

/-- A record joins the log, which holds 65,536 (R397). -/
def State.logRecord (s : State) (cls unit : Nat) (detail : List Byte) : State :=
  let l := s.smc.log ++ [(s.now, cls, unit, detail)]
  { s with smc := { s.smc with log := l.drop (l.length - 65536) } }

/-- The 48 bytes of a record (R397): those of a LOGPUT, or the timestamp and what the device notes, whose layout is
open. -/
def logBytes (r : Nat × Nat × Nat × List Byte) : List Byte :=
  let (ts, cls, unit, detail) := r
  if cls = logSoftware then detail else bytesOf ts 8 ++ (upTo 8 40).map fun i => Config.logByte unit cls i

/-- The device's own store for a partition at a virtual address, page by page; none when it cannot be translated. -/
def State.smcStore (s : State) (vf : Nat) (va : Nat) (bs : List Byte) : Option State :=
  let n := min bs.length (65536 - va % 65536)
  match s.access agHeadgate vf hubCore va .write with
  | .error _ => none
  | .ok l =>
    let s := (s.keep l.ent).storeAt .device maskSys (l.cells va (bs.take n)) [] none vf
    if n = bs.length then some s
    else
      match s.access agHeadgate vf hubCore (va + n) .write with
      | .error _ => none
      | .ok m => some ((s.keep m.ent).storeAt .device maskSys (m.cells (va + n) (bs.drop n)) [] none vf)

/-- What the SMC does for a call (R397): the state, STATUS, and the reply data. -/
def State.smcServe (s : State) (c : SmcCall) : State × Nat × List Byte :=
  let arg := fieldAt c.block 4 4
  match c.fn with
  | 0 =>
    if 4 ≤ arg then (s, 1, [])
    else
      let n := s.smc.sensorReads
      ({ s with smc := { s.smc with sensorReads := n + 14 } }, 0,
        bytesOfWords ((upTo 0 14).map fun i => Config.sensor arg (n + i)))
  | 1 => (s.logRecord logSoftware 0 (slice c.block 8 48), 0, [])
  | 2 =>
    (match s.smc.log[arg]? with
     | some r => (s, 0, logBytes r)
     | none => (s, 1, []))
  | 3 =>
    let buf := fieldAt c.block 56 8
    if 2 ^ 56 < buf + 1024 then (s, 1, [])
    else
      (match s.smcStore c.vf buf ((upTo 0 1024).map fun i => Config.quoteByte (fieldAt c.block 8 48) i) with
       | some s => (s, 0, [])
       | none => (s, 1, []))
  | _ =>
    if arg < 600 ∨ 2400 < arg then (s, 1, []) else ({ s with smc := { s.smc with powercap := arg } }, 0, [])

/-- SMC_REPLY (R356), of the call that State.who names: the reply goes into the block, then the signal goes down. -/
def execSmcReply (s : State) : Out :=
  .next (
    match s.who with
    | [id] =>
      (match s.smc.calls.find? fun c => c.id == id with
       | none => s
       | some c =>
         let s := { s with smc := { s.smc with calls := s.smc.calls.filter fun c => c.id != id } }
         let (s, status, data) := s.smcServe c
         let s := match s.smcStore c.vf c.va.toNat (bytesOf status 4) with
           | some s => s
           | none => s.errVector c.vf Cause.pageProtect.code c.va
         let s := match (if data.isEmpty then some s else s.smcStore c.vf (c.va.toNat + 8) data) with
           | some s => s
           | none => s
         s.hubSignal c.vf c.sig (0 - 1) true)
    | _ => s)

end Sys2Proof.Machine
end

