-- ==== Sys2Proof/Machine/Stop.lean ====
section
/-!
DEFINITION. Stop records (spec/10_isa_copy_engines.md R249, R250; spec/11_isa_matrix.md R269; spec/13_selection_merging_masks.md
R295) as an image holds them: what a stopped command and a queued matrix operation write, and what is read of them again. The
layout of a body is the model's choice where R250 gives only its contents (notes/assumptions/36.md).
-/
namespace Sys2Proof.Machine

/-- Fields packed one above the other, least significant first: (width, value). -/
def pack : List (Nat × Nat) → Nat
  | [] => 0
  | (w, v) :: r => v % 2 ^ w + 2 ^ w * pack r

/-- Packed fields as n bytes. -/
def packBytes (n : Nat) (fs : List (Nat × Nat)) : List Byte := bytesOf (pack fs) n

/-- Bytes padded with zeros to a multiple of 32. -/
def pad32 (bs : List Byte) : List Byte := bs ++ List.replicate (alignUp bs.length 32 - bs.length) 0

/-- The first n bytes of a record as a number. -/
def headOf (r : List Byte) (n : Nat) : Nat := natOf (slice r 0 n)

/-! ### Units, cores and tiles -/

/-- UNIT of a stop record's locator (R384). -/
def EngUnit.stopCode : EngUnit → Nat
  | .sluice _ | .own _ => 0
  | .weir _ => 1
  | .select => 2
  | .confluence _ => 3
  | .siphon => 4

/-- The unit that serves a command of a core (R16). -/
def unitOf (code core : Nat) : EngUnit :=
  match code with
  | 0 => .sluice core
  | 1 => .weir (core / 32)
  | 2 => .select
  | 3 => .confluence (core / 32)
  | _ => .siphon

/-- The unit of an engine opcode (R384). -/
def unitOfOpc (opc : Nat) : Option Nat :=
  if opc = 0xC8 then some 4
  else if opc = 0xC0 ∨ (0xC3 ≤ opc ∧ opc ≤ 0xC7) ∨ opc = 0xE2 ∨ opc = 0xE5 then some 0
  else if opc = 0xE9 then some 1
  else if opc = 0xEA ∨ opc = 0xEB then some 2
  else if opc = 0xEC ∨ opc = 0xED then some 3
  else none

/-- The core of a logical index (R389). -/
def Part.physical (p : Part) (n : Nat) : Nat := p.cores.getD n 0

/-- The core number inside a map address changes (R378). -/
def moveAddr (f : Nat → Nat) (a : Nat) : Nat := f (a / 2 ^ 24) * 2 ^ 24 + a % 2 ^ 24
/-- The cores of a mask change (R378). -/
def moveMask (f : Nat → Nat) (m : Nat) : Nat := (bitsSet m 144).foldl (fun x c => x + 2 ^ f c) 0

/-- The operands of a command with its cores and its tile renamed (R378, R389). -/
def moveOps (i : Instr) (core tile : Nat → Nat) (ws : List Word) : List Word :=
  match i with
  | .mcast _ _ _ _ _ _ _ _ =>
    ws.take 3 ++ wordsOfNat (moveMask core (natOfWords ((ws.drop 3).take 4))) 4 ++ ws.drop 7
  | .bcp _ _ _ _ true _ _ _ _ => BitVec.ofNat 32 (moveAddr core (ws.headD 0).toNat) :: ws.tail
  | .drain _ _ _ _ _ _ _ _ _ => BitVec.ofNat 32 (tile (ws.headD 0).toNat) :: ws.tail
  | _ => ws

/-- How many operand words a command's stop record holds; a JOB's holds its card instead (R250). -/
def opCount : Instr → Nat
  | .acpL _ _ _ _ _ _ _ _ => 4
  | .acpS _ _ _ _ _ _ _ _ => 4
  | .bcp _ _ _ nosig _ _ _ _ _ => if nosig then 8 else 10
  | .mcast _ _ _ nosig _ _ _ _ => if nosig then 7 else 9
  | .kvg _ _ _ _ _ _ _ _ _ _ => 36
  | .kva _ _ _ nosig _ _ _ => if nosig then 4 else 6
  | .drain _ _ _ nosig _ _ _ _ _ => if nosig then 8 else 10
  | .segsum _ nosig _ _ => if nosig then 1 else 3
  | .kvr _ _ _ _ => 6
  | .psel _ _ _ _ => 8
  | .topk _ _ _ _ _ _ => 6
  | .topp _ _ _ _ _ _ => 6
  | .tmrg _ _ _ _ => 10
  | .tunm _ _ _ _ => 7
  | _ => 0

/-- The instruction word of a command or operation, which its stop record names by OPC and MOD. -/
def wordOf (i : Instr) : Nat := ((encode i).getD 0).toNat

/-! ### Progress (R250) -/

/-- The rows of entry n of a KVG that are still to be written, as a mask. -/
def State.kvgLeft (s : State) (c : Cmd) (n : Nat) : Nat :=
  let e := c.kv.getD n (KvEntry.zero 0)
  pack ((upTo 0 32).map fun k => (1, ((s.rowPlace c e k).any fun a => (c.want ++ c.got).any fun g => g.1 == a / 32).toNat))

/-- The rows still to be written of every entry. -/
def State.kvgLefts (s : State) (c : Cmd) : List Nat := (upTo 0 c.kv.length).map (s.kvgLeft c)

/-- The cores that an MCAST has finished, as a mask of logical cores. -/
def Cmd.mcastDone (c : Cmd) (p : Part) (len : BitVec 11) : Nat :=
  ((c.land.filter fun x => decide (mcastBeats len ≤ x.2)).map fun x => 2 ^ p.logical x.1).foldl (· + ·) 0

/-- PROGRESS and DONE of a command (R250, R295). A JOB's restart offset into its input is in bits for DEFLATE, whose blocks need not
begin on a byte, and in bytes for the other codecs: R250 names no unit (the model's choice, notes/assumptions/36.md). -/
def State.stopProgress (s : State) (c : Cmd) : Nat × Nat :=
  match c.i with
  | .acpL _ _ _ _ _ _ _ _ | .acpS _ _ _ _ _ _ _ _ | .bcp _ _ _ _ _ _ _ _ _ | .kva _ _ _ _ _ _ _ | .drain _ _ _ _ _ _ _ _ _ |
    .segsum _ _ _ _ => (c.beat, 0)
  | .mcast _ _ len _ _ _ _ _ =>
    (((c.landing len).map (·.2)).foldl min (mcastBeats len), c.mcastDone (s.part c.vf) len % 2 ^ 64)
  | .kvg _ _ _ _ _ _ _ _ _ _ =>
    (0, (((c.kv.zip (s.kvgLefts c)).filter fun x => x.2 == 0).map fun x => 2 ^ x.1.lane).foldl (· + ·) 0)
  | .job _ _ => (c.beat, c.done)
  | _ => (0, 0)

/-! ### The body (R250) -/

/-- A fetched map entry of a KVG. -/
def KvEntry.bytes (e : KvEntry) : List Byte :=
  packBytes 64 [(8, e.lane), (1, e.tail.toNat), (1, e.dead.isSome.toNat), (22, e.slot), (32, e.tb), (32, e.len), (32, e.base),
    (64, e.blist), (32, e.seg), (32, e.rcnt), (64, e.ova), (64, e.rmask.toNat), (64, (e.dead.getD 0).toNat)]

/-- Read a fetched map entry. -/
def KvEntry.read (bs : List Byte) : KvEntry :=
  let x := headOf bs 64
  { lane := bits x 7 0, tail := x.testBit 8, slot := bits x 31 10, tb := bits x 63 32, len := bits x 95 64, base := bits x 127 96
    blist := bits x 191 128, seg := bits x 223 192, rcnt := bits x 255 224, ova := bits x 319 256
    rmask := BitVec.ofNat 64 (bits x 383 320), dead := if x.testBit 9 then some (BitVec.ofNat 64 (bits x 447 384)) else none }

/-- What a KVG keeps with its operands: the fetched entries, the rows still to come, the context and the segment table's
header, the rotation table. -/
def State.kvgBody (s : State) (c : Cmd) : List Byte :=
  packBytes 32 [(8, c.kv.length), (16, c.rtab.length), (8, 0), (32, c.stale), (32, c.dead), (32, c.errs)] ++
    c.kv.flatMap KvEntry.bytes ++ (s.kvgLefts c).flatMap (fun m => bytesOf m 4) ++ slice c.recd 0 128 ++ bytesOfWords c.rtab

/-- A KVG with what its body keeps, and the rows still to come. -/
def readKvg (c : Cmd) (bs : List Byte) : Cmd × List Nat :=
  let x := headOf bs 32
  let n := bits x 7 0
  ({ c with
      kv := (upTo 0 n).map fun i => KvEntry.read (slice bs (32 + 64 * i) 64), stale := bits x 63 32, dead := bits x 95 64, errs := bits x 127 96
      recd := slice bs (32 + 68 * n) 128, rtab := wordsOf (slice bs (160 + 68 * n) (4 * bits x 23 8)) },
    (upTo 0 n).map fun i => fieldAt bs (32 + 64 * n + 4 * i) 4)

/-- The contents that R250 lists: the operands with cores and tiles as the image names them, then what belongs to them. -/
def State.stopListed (s : State) (c : Cmd) : List Byte :=
  let p := s.part c.vf
  let tiles := match s.crew? c.crew with | some cr => cr.tiles | none => []
  let ops := bytesOfWords (moveOps c.i p.logical tiles.idxOf c.ops)
  match c.i with
  | .bcp _ _ _ _ _ _ _ _ _ | .drain _ _ _ _ _ _ _ _ _ => ops ++ slice c.recd 0 64
  | .mcast _ _ len _ _ _ _ _ => ops ++ bytesOf (c.mcastDone p len / 2 ^ 64) 8
  | .kvg _ _ _ _ _ _ _ _ _ _ => ops ++ s.kvgBody c
  | .kva _ _ _ _ _ _ _ => ops ++ bytesOf c.done 8 ++ slice c.recd 0 64
  | .job _ _ => slice c.recd 0 64
  | _ => ops

/-- The block after them that names the issue: the word that a log entry of the command shows and its place, the crew and the
gang, the task, a fault that stopped the command, the words its thread has retired since, and the command's own word. -/
def State.stopIssue (s : State) (c : Cmd) (held : Bool) : List Byte :=
  let f : CmdFault := c.fault.getD { cause := .pageNotPresent, va := 0, fid := none, logged := false, resolved := false }
  let skid := match s.cmdThread c with | some t => t.skidFrom c.at_ | none => 0
  packBytes 64 [(64, c.word.toNat), (64, c.pc.toNat), (64, c.cb.toNat), (32, (c.task.getD noTask).toNat), (64, f.va.toNat),
    (24, f.fid.getD 0), (8, f.cause.code), (1, c.fault.isSome.toNat), (1, f.fid.isSome.toNat), (1, f.logged.toNat),
    (1, f.resolved.toNat), (6, c.crew), (5, c.gang), (1, c.issued.toNat), (1, held.toNat), (32, min skid (2 ^ 32 - 1)),
    (64, wordOf c.i)]

/-- The block of a job: the address of its card, its end if it has one, and its counts at a fault. -/
def Cmd.jobBlock (c : Cmd) : List Byte :=
  let e : JobEnd := c.job.getD { status := 0, outlen := 0, inused := 0, cause := 0, addr := 0 }
  packBytes 64 [(64, natOfWords (c.ops.take 2)), (1, c.job.isSome.toNat), (8, e.status), (8, e.cause), (15, 0), (64, e.outlen),
    (64, e.inused), (64, e.addr.toNat), (64, c.tokens.1), (64, c.tokens.2)]

/-- The body of a stop record. -/
def State.stopBody (s : State) (c : Cmd) (held : Bool) : List Byte :=
  pad32 (s.stopListed c) ++ s.stopIssue c held ++ (match c.i with | .job _ _ => c.jobBlock | _ => [])

/-! ### The records -/

/-- A STOP record: the locator and the record of R249. A command that a task still holds has the slack of its issue. -/
def State.stopRecord (s : State) (c : Cmd) (held : Bool) (seq : Nat) : List Byte :=
  let w := wordOf c.i
  let body := s.stopBody c held
  let (progress, done) := s.stopProgress c
  packBytes 32 [(8, (s.part c.vf).logical (coreOf c.thr)), (3, c.unit.stopCode), (5, 0), (16, seq)] ++
    packBytes 32 [(8, w / 2 ^ 56), (12, w), (4, if held then c.slack else c.slackAt s.now), (8, 1 + body.length / 32), (7, laneOf c.thr), (4, slotOf c.thr), (21, 0),
      (64, progress), (64, done)] ++ body

/-- A matrix operation's STOP record (R269): the tile as the crew names it (R389). -/
def MatOp.stopRecord (m : MatOp) (p : Part) (tiles : List Nat) (seq : Nat) : List Byte :=
  let w := wordOf m.i
  let team := m.isTeam
  packBytes 32 [(8, p.logical m.core), (3, 5), (5, 0), (16, seq)] ++
    packBytes 32 [(8, w / 2 ^ 56), (16, w), (4, tiles.idxOf m.tile), (4, if team then w / 2 ^ 16 else 0), (8, w / 2 ^ 32), (8, w / 2 ^ 24),
      (6, m.crew), (5, m.gang0), (1, team.toNat), (4, 0), (7, if team then 0 else laneOf m.thr), (4, if team then 0 else slotOf m.thr),
      (53, 0), (32, m.sa), (32, m.idx.toNat)]

/-! ### Reading a record -/

/-- A word with the OPC and MOD of a stop record. -/
def stopWord (w opc mod : Nat) : DWord := BitVec.ofNat 64 (opc * 2 ^ 56 + (w % 2 ^ 56 - w % 2 ^ 12) + mod % 2 ^ 12)

/-- The instruction of a stop record: the word of its issue block with the record's OPC and MOD. -/
def stopInstr (w opc mod : Nat) : Option Instr :=
  match decode (stopWord w opc mod) with
  | .instr i => some i
  | _ => none

/-- The recoverable cause of a code (R46, R357). -/
def causeOfCode (n : Nat) : Cause :=
  if n = Cause.quota.code then .quota else if n = Cause.spillwayFault.code then .spillwayFault else .pageNotPresent

/-- Where the issue block of a record's body stands. -/
def issueAt (opc len : Nat) : Nat := 32 * (len - 1) - (if opc = 0xC8 then 128 else 64)

/-- A stop record as read: the command without its sectors, whether a task's write buffer holds it, and the rows that a KVG has
still to write. -/
structure Stopped where
  c    : Cmd
  held : Bool
  left : List Nat

/-- Read a stop record of a partition as command `id` (R249, R250, R378); `tiles` gives the tiles of a crew. -/
def readStop (p : Part) (vf now id : Nat) (tiles : Nat → List Nat) (r : List Byte) : Option Stopped :=
  let l := headOf r 32
  let x := natOf (slice r 32 32)
  let opc := bits x 7 0
  let core := p.physical (bits l 7 0)
  let body := r.drop 64
  let b := natOf (slice body (issueAt opc (bits x 31 24)) 64)
  let jb := natOf (slice body (issueAt opc (bits x 31 24) + 64) 64)
  let task := BitVec.ofNat 32 (bits b 223 192)
  let progress := bits x 127 64
  let done := bits x 191 128
  match stopInstr (bits b 432 369) opc (bits x 19 8) with
  | none => none
  | some i =>
    let n := 4 * opCount i
    let ck := core * 64 + bits b 329 324
    let rest := body.drop n
    let ops := moveOps i p.physical (fun t => (tiles ck).getD t 0) (wordsOf (body.take n))
    let c : Cmd :=
      { id := id, unit := unitOf (bits l 10 8) core, thr := threadKey core (bits x 38 32) (bits x 42 39), crew := ck, vf := vf
        gang := bits b 334 330, i := i, word := BitVec.ofNat 64 (bits b 63 0), pc := BitVec.ofNat 64 (bits b 127 64)
        cb := BitVec.ofNat 64 (bits b 191 128), at_ := 2 ^ 32 - bits b 368 337, ops := ops, recd := [], want := [], got := []
        beat := progress, done := 0, slack := bits x 23 20, lastServed := now, moved := now
        fault := if !b.testBit 320 then none
          else some { cause := causeOfCode (bits b 319 312), va := BitVec.ofNat 64 (bits b 287 224)
                      fid := if b.testBit 321 then some (bits b 311 288) else none, logged := b.testBit 322, resolved := b.testBit 323 }
        kv := [], rtab := [], stale := 0, dead := 0, errs := 0, rows := [], task := if task = noTask then none else some task
        issued := b.testBit 335, job := none, rsHold := false, tokens := (0, 0) }
    let held := b.testBit 336
    match i with
    | .bcp _ _ _ _ _ _ _ _ _ | .drain _ _ _ _ _ _ _ _ _ => some { c := { c with recd := slice rest 0 64 }, held := held, left := [] }
    | .mcast _ _ len _ _ _ _ _ =>
      let fin := moveMask p.physical (done + fieldAt rest 0 8 * 2 ^ 64)
      some { c := { c with land := (mcastCores ((ops.drop 3).take 4)).map fun k => (k, if fin.testBit k then mcastBeats len else progress) }
             held := held, left := [] }
    | .kvg _ _ _ _ _ _ _ _ _ _ => let y := readKvg { c with beat := 0 } rest; some { c := y.1, held := held, left := y.2 }
    | .kva _ _ _ _ _ _ _ => some { c := { c with done := fieldAt rest 0 8, recd := slice rest 8 64 }, held := held, left := [] }
    | .job _ _ =>
      some { c := { c with
               ops := wordsOfNat (bits jb 63 0) 2, recd := slice body 0 64, done := done, tokens := (bits jb 351 288, bits jb 415 352)
               job := if !jb.testBit 64 then none
                 else some { status := bits jb 72 65, cause := bits jb 80 73, outlen := bits jb 159 96, inused := bits jb 223 160
                             addr := BitVec.ofNat 64 (bits jb 287 224) } }
             held := held, left := [] }
    | _ => some { c := c, held := held, left := [] }
/-! ### The sectors a command has still to finish -/

/-- The rows of an entry of a KVG that a mask names, as sectors. -/
def State.leftSectors (s : State) (c : Cmd) (e : KvEntry) (left : Nat) : List (Nat × Bool) :=
  (bitsSet left 32).flatMap fun k => (s.rowPlace c e k).map fun a => (a / 32, true)

/-- The sectors that a stopped command has still to take or to finish (R109, R110, R295). -/
def State.stopSectors (s : State) (x : Stopped) : List (Nat × Bool) :=
  let c := x.c
  match s.crew? c.crew with
  | none => []
  | some cr =>
    let core := c.crew / 64
    match c.i with
    | .acpL _ _ _ _ _ _ _ _ => [(crewAddr core cr (c.op 0).toNat / 32, true)]
    | .acpS _ _ _ _ _ _ _ _ => [(crewAddr core cr (c.op 0).toNat / 32, false)]
    | .bcp _ _ dir _ _ _ _ _ _ => c.tlr.imageSectors (s.bcpScr c) c.beat (dir == .load)
    | .mcast _ _ len _ _ _ _ _ =>
      if x.held then [] else (c.landing len).flatMap fun y => mcastSectors y.1 (c.op 0).toNat (mcastLen len) y.2
    | .kvg _ _ _ _ _ _ _ _ _ _ =>
      ((c.kv.zip x.left).flatMap fun y => s.leftSectors c y.1 y.2) ++
        (sectorRange (crewAddr core cr ((c.op 3).toNat + gatherSize c.ctx.shape)) 32).map fun q => (q, true)
    | .kvr _ _ _ _ => kvrSectors core cr (c.op 0) (c.op 5).toNat
    | .psel _ _ _ _ => pselSectors core cr c.ops
    | .topk _ pairs spin _ _ _ => selectSectors core cr spin c.ops (topkSizes pairs (c.op 3).toNat (c.op 5).toNat).1
        (topkSizes pairs (c.op 3).toNat (c.op 5).toNat).2
    | .topp _ _ spin _ _ _ => selectSectors core cr spin c.ops (toppSizes (c.op 3).toNat).1 (toppSizes (c.op 3).toNat).2
    | .tmrg _ _ _ _ => wantRanges core cr (Merge.of c.ops).inputs (Merge.of c.ops).outputs
    | .tunm _ _ _ _ => wantRanges core cr (tunmRanges c.ops).1 (tunmRanges c.ops).2
    | _ => []

/-- Of the sectors a command or operation has still to finish, those that an earlier one holds are still wanted; it has taken the
others (R110). -/
def claimSectors (claimed : List Nat) (todo : List (Nat × Bool)) : List (Nat × Bool) × List (Nat × Bool) :=
  (todo.filter fun q => claimed.contains q.1, todo.filter fun q => !claimed.contains q.1)

end Sys2Proof.Machine
end

