-- ==== Sys2Proof/Machine/Image.lean ====
section
/-!
DEFINITION. The context image (spec/23_preemption_migration.md R382 to R389): its sections and records as QUIESCE.SAVE
writes them, a task's write buffer in its rows (R64, R384), and the store of the image.
-/
namespace Sys2Proof.Machine

/-- The code of TEAM (R319). -/
def teamCode (n : Nat) : Nat := if n = 2 then 1 else if n = 4 then 2 else if n = 8 then 3 else 0
/-- The gangs of a team by its code. -/
def teamOfCode (n : Nat) : Nat := if n = 0 then 0 else 2 ^ n

/-- The crews that an image of the partition holds: not those that the quiesce leaves out, and none that has ended. -/
def State.savedCrews (s : State) (vf : Nat) (excl : Option Nat) : NMap Crew :=
  s.crews.filter fun x => x.2.vf == vf && !leftOut excl x.1 && !x.2.ended

/-- The logical core of a crew (R389). -/
def State.logicalOf (s : State) (vf ck : Nat) : Nat := (s.part vf).logical (ck / 64)

/-! ### PART (R388) -/

/-- A crew record of PART. -/
def crewRecord (core crew : Nat) (c : Crew) : List Byte :=
  let lg := pack (c.lgrps.map fun g => (2, g))
  let qs := pack (c.queues.map fun q => (8, q))
  packBytes 64 [(8, core), (6, crew), (5, c.ngang - 1), (2, teamCode c.team), (5, c.tiles.length), (5, c.regs - 1), (1, 0),
    (64, lg), (128, qs), (5, c.queues.length)]

/-- The PART record. -/
def State.partRecord (s : State) (vf : Nat) (excl : Option Nat) : List Byte :=
  let p := s.part vf
  let q := s.queue (p.qsel.toNat % 256)
  let regs : List DWord := [p.ptroot, p.segtab, p.trarea, p.trcount.setWidth 64, p.fqcfg, p.qsel.setWidth 64, q.qcfg, q.qspill, p.tvec]
  let owned := s.pool.filter fun x => x.2.owner == vf + 1
  pad32 (bytesOf p.desc.toNat 32 ++ regs.flatMap (fun r => bytesOf r.toNat 8) ++ bytesOf (bits s.host.poolcfg.toNat 36 32) 1 ++
    bytesOf (s.poolUsed vf) 4 ++ owned.flatMap (fun x => bytesOf (x.1 + x.2.sealed.toNat * 2 ^ 31) 4) ++
    (s.savedCrews vf excl).flatMap (fun x => crewRecord (s.logicalOf vf x.1) (x.1 % 64) x.2) ++
    p.cores.flatMap fun c => bytesOf (s.coreRegs c).furcfg.toNat 4)

/-! ### THREAD, OPLOG, CONV (R384 to R386) -/

/-- The threads an image holds. -/
def State.savedThreads (s : State) (vf : Nat) (excl : Option Nat) : NMap Thread :=
  s.threads.filter fun x => x.2.vf == vf && !leftOut excl (x.2.crewKey x.1)

/-- OPLOG records of a thread; `index` places a command among the STOP records. -/
def Thread.logRecords (t : Thread) (core k : Nat) (index : Nat → Nat) : List (List Byte) :=
  (t.log.zip (upTo 0 t.log.length)).map fun (e, n) =>
    let ops : List Nat := match e.cmd with
      | some id => [index id]
      | none => e.srcs.map fun x => x.2.toNat
    packBytes 64 [(64, e.word.toNat), (64, e.va.toNat), (7, laneOf k), (4, slotOf k), (2, n), (24, e.fid), (1, e.cmd.isSome.toNat),
      (18, 0), (8, core), (320, pack ((ops.take 10).map fun v => (32, v)))]

/-- A CONV record. -/
def convRecord (core crew n : Nat) (r : ConvReg) : List Byte :=
  let o : OpRec := r.op.getD { opc := 0, mod := 0, d := 0, a := 0, b := 0 }
  packBytes 32 [(64, r.image.toNat), (8, o.opc.toNat), (16, o.mod.toNat), (8, o.d.toNat), (8, o.a.toNat), (24, o.b.toNat), (6, crew),
    (4, n), (8, core)]

/-- The CONV records of a crew: a register with an image of zero has none. -/
def Crew.convRecords (c : Crew) (core crew : Nat) : List (List Byte) :=
  (upTo 0 16).filterMap fun n => if (c.conv n).image = 0 then none else some (convRecord core crew n (c.conv n))

/-! ### ACC, SCRATCH, MAPS (R384) -/

/-- An ACC record: the tile as the crew names it, its elements, its flags. -/
def accRecord (core crew n : Nat) (t : ATile) : List Byte :=
  packBytes 32 [(8, core), (6, crew), (4, n), (8, modPow t.anchor 8)] ++
    (upTo 0 4096).flatMap (fun e => bytesOf (t.elem e).s.toNat 16) ++
    (upTo 0 2048).map fun b => BitVec.ofNat 8 ((t.elem (2 * b)).fl.toNat + 16 * (t.elem (2 * b + 1)).fl.toNat)

/-- The bytes of a line record that a task has written, in base 257 with 0 for a byte it has not written: 128 digits fit in 130
bytes beside the line's number. -/
def lineDigits (l : Nat) (bs : List Host.Cell) : Nat :=
  (upTo 0 128).foldr (fun i x => (match NMap.find? bs (l * 128 + i) with | some b => b.toNat + 1 | none => 0) + 257 * x) 0

/-- A write-buffer record in its units (R64); a held command stands among the STOP records, and its units name it there. -/
def BufRec.bytes (index : Nat → Nat) : BufRec → List Byte
  | .line l bs => packBytes 144 [(3, 1), (61, l), (1040, lineDigits l bs)]
  | .red va op w64 sc b => packBytes 32 [(3, 2), (4, op.bits.toNat), (1, w64.toNat), (3, sc.bits.toNat), (64, va.toNat), (64, b.toNat)]
  | .xadd va da sc c anchor =>
    packBytes 32 [(3, 3), (3, sc.bits.toNat), (56, va.toNat), (56, da.toNat), (128, c.toNat), (8, modPow anchor 8)]
  | .signal va add notify => packBytes 32 [(3, 4), (1, notify.toNat), (64, va.toNat), (64, add.toNat)]
  | .push q e => packBytes 48 [(3, 5), (13, 0), (16, q), (256, natOfWords e.words)]
  | .cmd c => packBytes 80 [(3, 6), (29, 0), (32, index c.id)]

/-- A running task as an image holds it: a held command that the commit has issued and that has ended is performed. -/
def State.settled (s : State) (t : Task) : Task :=
  match t.buf with
  | .cmd c :: rest => if c.issued && (s.cmd? c.id).isNone then { t with buf := rest, nextRec := t.nextRec + 1 } else t
  | _ => t

/-- The rows of a crew as an image holds them: a running task's write buffer stands in its rows, record after record. -/
def State.rowBytes (s : State) (index : Nat → Nat) (ck : Nat) (c : Crew) : List Byte :=
  let a := crewAddr (ck / 64) c 0
  match c.task with
  | none => s.readScr a (c.rows * 2048)
  | some t => s.readScr a ((c.rows - c.wbuf) * 2048) ++ slice ((s.settled t).buf.flatMap (·.bytes index)) 0 (c.wbuf * 2048)

/-- A SCRATCH record. -/
def State.scratchRecord (s : State) (index : Nat → Nat) (core ck : Nat) (c : Crew) : List Byte :=
  let sec := crewAddr (ck / 64) c 0 / 32
  pad32 (packBytes 32 [(8, core), (6, ck % 64), (11, c.base), (11, c.rows), (8, c.gen)] ++ s.rowBytes index ck c ++
    (upTo 0 (c.rows * 16)).map fun b =>
      BitVec.ofNat 8 (pack ((upTo (4 * b) 4).map fun n => (2, (s.sector (sec + n)).code))))

/-- The MAPS records of a crew. -/
def Crew.mapRecords (c : Crew) (core crew : Nat) : List (List Byte) :=
  (c.mapSlots.filter fun x => x.1.live).map fun (m, n) =>
    packBytes 32 [(6, n), (1, m.child.toNat), (1, 0), (16, m.serial), (16, m.n), (16, m.m), (4, m.depth), (4, 0), (32, m.parent.toNat),
      (22, m.addr), (10, 0), (32, (m.task.getD noTask).toNat), (8, core), (6, crew)]

/-! ### STOP (R249, R250, R269, R384) -/

/-- The commands an image holds, in order of acceptance. -/
def State.savedCmds (s : State) (vf : Nat) (excl : Option Nat) : List Cmd :=
  s.cmds.filter fun c => c.vf == vf && !leftOut excl c.crew

/-- The matrix operations an image holds, in queue order. -/
def State.savedMats (s : State) (vf : Nat) (excl : Option Nat) : List MatOp :=
  s.mats.filter fun m => (s.part vf).hasCore m.core && !leftOut excl (m.core * 64 + m.crew)

/-- The tiles of a crew. -/
def State.tilesOf (s : State) (ck : Nat) : List Nat := match s.crew? ck with | some c => c.tiles | none => []

/-- The running tasks an image holds, in order of dispatch. -/
def State.savedTasks (s : State) (vf : Nat) (excl : Option Nat) : List (Nat × Task) :=
  sortBy (fun a b => decide (a.2.dispatch ≤ b.2.dispatch))
    ((s.savedCrews vf excl).filterMap fun x => x.2.task.map fun t => (x.1, t))

/-- The commands that the write buffers of the saved tasks hold (R224). -/
def State.savedHeld (s : State) (vf : Nat) (excl : Option Nat) : List Cmd :=
  (s.savedTasks vf excl).flatMap fun x => x.2.buf.filterMap fun r =>
    match r with | .cmd c => (if c.issued then none else some c) | _ => none

/-- The numbers of the stopped commands and operations in the order of their records. -/
def State.stopIds (s : State) (vf : Nat) (excl : Option Nat) : List Nat :=
  (s.savedCmds vf excl).map (·.id) ++ (s.savedHeld vf excl).map (·.id) ++ (s.savedMats vf excl).map (·.id)

/-- The STOP records: the commands of the units, those that tasks hold, then the matrix operations in queue order. SEQ is the
order of issue over all of them. -/
def State.stopRecords (s : State) (vf : Nat) (excl : Option Nat) : List (List Byte) :=
  let order := sortBy (fun a b => decide (a ≤ b)) (s.stopIds vf excl)
  let seq (id : Nat) : Nat := order.idxOf id
  (s.savedCmds vf excl).map (fun c => s.stopRecord c false (seq c.id)) ++
    (s.savedHeld vf excl).map (fun c => s.stopRecord c true (seq c.id)) ++
    (s.savedMats vf excl).map fun m => m.stopRecord (s.part vf) (s.tilesOf (m.core * 64 + m.crew)) (seq m.id)

/-! ### QUEUE, TASK, FAULT (R384, R387) -/

/-- A QUEUE record. -/
def queueRecord (n : Nat) (q : Queue) : List Byte :=
  pad32 (packBytes 64 [(64, q.qcfg.toNat), (64, q.qspill.toNat), (64, q.seq), (7, q.ents.length), (1, q.hostdrop.toNat), (8, n),
    (32, q.sphead), (32, q.spcnt)] ++
    q.ents.flatMap fun x => bytesOfWords x.1.words ++ bytesOf x.2 8 ++ List.replicate 8 0)

/-- A TASK record. -/
def taskRecord (core crew : Nat) (t : Task) : List Byte :=
  packBytes 64 [(256, natOfWords t.e.words), (32, t.handle.toNat), (32, min t.elapsed (2 ^ 32 - 1)), (64, t.seq), (16, t.units),
    (7, t.rset.length), (1, t.signer.isSome.toNat), (16, t.nextRec), (8, t.q), (8, core), (6, crew)] ++
    slice (t.rset.flatMap fun l => bytesOf (l * 128) 8) 0 512

/-- A FAULT record. -/
def faultRecord (f : FaultRec) : List Byte :=
  packBytes 32 [(24, f.id), (7, f.user), (1, f.pushed.toNat), (64, f.va.toNat), (4, f.resp)]

/-! ### The image (R383, R384) -/

/-- A section: nothing when it has no record. -/
def imageSection (type : Nat) (rs : List (List Byte)) : List Byte :=
  if rs.isEmpty then []
  else
    let body := rs.flatMap fun r => r
    packBytes 32 [(8, type), (24, 0), (32, rs.length), (64, 32 + body.length)] ++ body

/-- The sections of a partition's image, by type. -/
def State.imageSections (s : State) (vf : Nat) (excl : Option Nat) : List (Nat × List (List Byte)) :=
  let cs := s.savedCrews vf excl
  let ts := s.savedThreads vf excl
  let p := s.part vf
  let lc (k : Nat) : Nat := p.logical (coreOf k)
  let lk (ck : Nat) : Nat := s.logicalOf vf ck
  let index (id : Nat) : Nat := (s.stopIds vf excl).idxOf id
  [(1, [s.partRecord vf excl]),
   (2, ts.map fun x => x.2.record (lc x.1) (laneOf x.1) (slotOf x.1) false),
   (3, ts.flatMap fun x => x.2.logRecords (lc x.1) x.1 index),
   (4, cs.flatMap fun x => x.2.convRecords (lk x.1) (x.1 % 64)),
   (5, cs.flatMap fun x => (x.2.tiles.zip (upTo 0 x.2.tiles.length)).map fun y =>
     accRecord (lk x.1) (x.1 % 64) y.2 (s.tile (x.1 / 64 * 16 + y.1))),
   (6, cs.map fun x => s.scratchRecord index (lk x.1) x.1 x.2),
   (7, cs.flatMap fun x => x.2.mapRecords (lk x.1) (x.1 % 64)),
   (8, s.stopRecords vf excl),
   (9, (s.queues.filter fun x => x.2.vf == vf).map fun x => queueRecord x.1 x.2),
   (10, (s.savedTasks vf excl).map fun x => taskRecord (lk x.1) (x.1 % 64) (s.settled x.2)),
   (11, (p.faults.filter fun f => !f.event).map faultRecord)]

/-- The sum of all 32-bit words. -/
def wordSum (bs : List Byte) : Nat := ((wordsOf bs).foldl (fun x w => x + w.toNat) 0) % 2 ^ 32

/-- The context image of a partition (R383). -/
def State.image (s : State) (vf : Nat) (excl : Option Nat) : List Byte :=
  let secs := (s.imageSections vf excl).filter fun x => !x.2.isEmpty
  let body := secs.flatMap fun x => imageSection x.1 x.2
  let p := s.part vf
  let hdr (check : Nat) : List Byte :=
    packBytes 64 [(32, 0x45535043), (8, 1), (8, secs.length), (16, 0), (64, 64 + body.length), (8, p.ncore), (5, p.nstew),
      (1, excl.isSome.toNat), (2, 0), (4, vf), (12, 0), (32, check)]
  hdr (wordSum (hdr 0 ++ body)) ++ body

/-- Where an image may stand: target HBM, Cistern or host memory, inside the levee for all n bytes (R364, R373). -/
def State.imagePlace (s : State) (vf ppa n : Nat) : Option Place :=
  match s.place vf ppa, s.place vf (ppa + (n - 1)) with
  | .ok p, .ok q => if (p.tgt = 0 ∨ p.tgt = 1 ∨ p.tgt = 3) ∧ q.tgt = p.tgt then some p else none
  | _, _ => none

/-- The store of an image (R382): at dev scope, at sys scope for host memory; no dirty bit is marked (R377). -/
def State.storeImage (s : State) (p : Place) (bs : List Byte) (vf : Nat) : State :=
  let s' := s.storeAt (.image s.nextId) (if p.tgt = 3 then maskSys else maskDev) (cellsAt p.key bs) [] none vf
  { s' with parts := s.parts }

end Sys2Proof.Machine
end

