-- ==== Sys2Proof/Machine/Load.lean ====
section
/-!
DEFINITION. Loading a context image (spec/23_preemption_migration.md R376 to R378, R383 to R389): the checks of the image in
full, then the rebuilt crews, threads, tiles, convergence registers, logs, stop records, queues, tasks with their write
buffers, faults, pool tags and registers. What a record lays out no field for is a free value (notes/assumptions/4.md).
-/
namespace Sys2Proof.Machine

/-! ### Sections and records -/

/-- The fields of a record lie at these bits; they are zero. -/
def zeroBits (x : Nat) (rs : List (Nat × Nat)) : Bool := rs.all fun (hi, lo) => bits x hi lo == 0

/-- The sections of an image's body: (type, count, records' bytes); exactly `n` of them. -/
def parseSections : Nat → List Byte → Option (List (Nat × Nat × List Byte))
  | 0, bs => if bs.isEmpty then some [] else none
  | n + 1, bs =>
    let h := headOf bs 32
    let len := bits h 127 64
    if !zeroBits h [(31, 8), (255, 128)] || len < 32 || bs.length < len then none
    else (parseSections n (bs.drop len)).map fun r => (bits h 7 0, bits h 63 32, (bs.take len).drop 32) :: r

/-- Cut `n` records, each of the size that its first bytes give; nothing is left over. -/
def splitRecs (size : List Byte → Nat) : Nat → List Byte → Option (List (List Byte))
  | 0, bs => if bs.isEmpty then some [] else none
  | n + 1, bs =>
    let m := size bs
    if m = 0 ∨ bs.length < m then none else (splitRecs size n (bs.drop m)).map fun r => bs.take m :: r

/-- The size of a section's next record (R384 to R388). -/
def recSize (type : Nat) (bs : List Byte) : Nat :=
  match type with
  | 1 => bs.length
  | 2 => 256 + 32 * (bits (headOf bs 32) 158 154 + 1)
  | 3 => 64
  | 5 => 67616
  | 6 => alignUp (32 + 2064 * bits (headOf bs 32) 35 25) 32
  | 8 => if bits (headOf bs 32) 10 8 = 5 then 64 else 32 + 32 * fieldAt bs 35 1
  | 9 => alignUp (64 + 48 * bits (headOf bs 64) 198 192) 32
  | 10 => 576
  | _ => 32

/-- An image's records by section type; none when the sections are malformed, out of order, or of an unknown type. -/
def parseImage (bs : List Byte) : Option (List (Nat × List (List Byte))) :=
  match parseSections (bits (headOf bs 64) 47 40) (bs.drop 64) with
  | none => none
  | some ss =>
    let types := ss.map (·.1)
    if !(types.all fun t => decide (1 ≤ t) && decide (t ≤ 11)) || !((types.zip types.tail).all fun x => decide (x.1 < x.2)) then none
    else ss.foldr (fun x acc =>
      match acc, splitRecs (recSize x.1) x.2.1 x.2.2 with
      | some l, some rs => some ((x.1, rs) :: l)
      | _, _ => none) (some [])

/-- The records of a type. -/
def recsOf (img : List (Nat × List (List Byte))) (type : Nat) : List (List Byte) :=
  match img.find? fun x => x.1 == type with
  | some x => x.2
  | none => []

/-! ### PART as read -/

/-- A crew record of PART (R388). -/
structure CrewRec where
  core : Nat
  crew : Nat
  ngang : Nat
  team : Nat
  tiles : Nat
  regs : Nat
  lgrps : List Nat
  queues : List Nat
  ok : Bool

/-- Read a crew record. -/
def readCrewRec (bs : List Byte) : CrewRec :=
  let x := headOf bs 64
  let ng := bits x 18 14 + 1
  let nq := bits x 228 224
  { core := bits x 7 0, crew := bits x 13 8, ngang := ng, team := teamOfCode (bits x 20 19), tiles := bits x 25 21
    regs := bits x 30 26 + 1, lgrps := (upTo 0 ng).map fun g => bits x (33 + 2 * g) (32 + 2 * g)
    queues := (upTo 0 nq).map fun n => bits x (103 + 8 * n) (96 + 8 * n)
    ok := zeroBits x [(31, 31), (511, 229)] && decide (nq ≤ 16) && decide (bits x 25 21 ≤ 16) }

/-- Where the owned-block list of a PART record ends. -/
def partBlocksEnd (bs : List Byte) : Nat := 109 + 4 * fieldAt bs 105 4

/-- The owned blocks of a PART record: the index and whether it is sealed. -/
def partBlocks (bs : List Byte) : List (Nat × Bool) :=
  (upTo 0 (fieldAt bs 105 4)).map fun n =>
    let x := fieldAt bs (109 + 4 * n) 4
    (bits x 30 0, x.testBit 31)

/-- The crew records of a PART record of a partition with n cores. -/
def partCrews (bs : List Byte) (n : Nat) : List CrewRec :=
  let at_ := partBlocksEnd bs
  (upTo 0 ((bs.length - (at_ + 4 * n)) / 64)).map fun i => readCrewRec (slice bs (at_ + 64 * i) 64)

/-- FURCFG of logical core i in a PART record. -/
def partFurcfg (bs : List Byte) (n i : Nat) : Word :=
  BitVec.ofNat 32 (fieldAt bs (partBlocksEnd bs + 64 * (partCrews bs n).length + 4 * i) 4)

/-- A register of a PART record, in the order of R388. -/
def partReg (bs : List Byte) (i : Nat) : DWord := BitVec.ofNat 64 (fieldAt bs (32 + 8 * i) 8)

/-! ### The checks (R377) -/

/-- What the checks know: the partition, its core count, the crews of the image, and the excluded core. -/
structure ImgEnv where
  s : State
  vf : Nat
  excl : Option Nat
  part : List Byte
  crews : List CrewRec
  threads : List Recorded
  nstop : Nat

/-- A logical core of the partition, as a core number. -/
def ImgEnv.phys (e : ImgEnv) (core : Nat) : Nat := (e.s.part e.vf).physical core
/-- The logical core exists. -/
def ImgEnv.coreOk (e : ImgEnv) (core : Nat) : Bool := decide (core < (e.s.part e.vf).cores.length)
/-- The crew record of a core and crew. -/
def ImgEnv.crew? (e : ImgEnv) (core crew : Nat) : Option CrewRec := e.crews.find? fun c => c.core == core && c.crew == crew
/-- The core and the crew are those of a crew record. -/
def ImgEnv.crewOk (e : ImgEnv) (core crew : Nat) : Bool := e.coreOk core && (e.crew? core crew).isSome

/-- The header (R383). -/
def headerOk (p : Part) (bs : List Byte) : Bool :=
  let h := headOf bs 64
  bits h 31 0 == 0x45535043 && bits h 39 32 == 1 && bits h 127 64 == bs.length && bits h 135 128 == p.ncore &&
  bits h 140 136 == p.nstew && zeroBits h [(63, 48), (143, 142), (159, 148), (511, 192)] &&
  (wordSum bs + 2 ^ 32 - bits h 191 160) % 2 ^ 32 == bits h 191 160

/-- The PART record (R377, R388). -/
def ImgEnv.partOk (e : ImgEnv) : Bool :=
  let bs := e.part
  let d := fieldAt bs 0 32
  let p := e.s.part e.vf
  let n := p.cores.length
  zeroBits d [(127, 106), (255, 169)] && decide (bits d 81 73 ≤ p.hsize) && decide (bits d 105 94 ≤ p.csize) &&
  partReg bs 1 &&& 0x3F == 0 && partReg bs 2 &&& 0xFFF == 0 &&
  partReg bs 6 &&& 0x0000007FFFFFFFFF == partReg bs 6 && partReg bs 7 &&& 0x00FFFFFFFFFF0000 == partReg bs 7 &&
  ((upTo 0 n).all fun i => partFurcfg bs n i &&& 0x1FFFF == partFurcfg bs n i) &&
  (bs.drop (partBlocksEnd bs + 64 * e.crews.length + 4 * n)).all (· == 0) &&
  ((upTo 0 n).all fun k => decide (((e.crews.filter fun c => c.core == k).foldl (fun m c => m + c.tiles) 0) ≤ 16)) &&
  fieldAt bs 104 1 == bits e.s.host.poolcfg.toNat 36 32 && decide (partBlocksEnd bs + 4 * n ≤ bs.length) &&
  ((partBlocks bs).all fun b => decide (b.1 < e.s.poolCount) && ((e.s.poolTag b.1).owner == 0 || (e.s.poolTag b.1).owner == e.vf + 1)) &&
  partReg bs 0 &&& 0x00FFFFFFFFFF0000 == partReg bs 0 && partReg bs 3 &&& 0xFFFFFF == partReg bs 3 &&
  partReg bs 4 &&& 0xFFFFFFFF000001FF == partReg bs 4 && partReg bs 5 &&& 0xFF == partReg bs 5 &&
  partReg bs 8 &&& 0xFFFFFFFFFFFFFFF8 == partReg bs 8 &&
  e.crews.all fun c => c.ok && e.coreOk c.core && !leftOut e.excl (e.phys c.core * 64) &&
    (!isSteward (e.phys c.core) || c.tiles == 0) && c.queues.all fun q => (e.s.queue q).vf == e.vf

/-- A lane and a slot exist on a core (R13). -/
def ImgEnv.placeOk (e : ImgEnv) (core lane slot : Nat) : Bool :=
  e.coreOk core && (!isSteward (e.phys core) || (lane == 0 && slot == 0))

/-- A THREAD record (R385). -/
def ImgEnv.threadOk (e : ImgEnv) (bs : List Byte) : Bool :=
  let h := headOf bs 256
  let r := readRecord e.vf bs
  zeroBits h [(183, 182), (767, 736), (351, 325), (383, 357), (415, 387), (431, 425), (967, 963), (975, 975), (983, 983), (991, 991),
    (1023, 999)] && decide (bits h 422 416 < 0x60) && bits h 153 151 != 7 && e.placeOk r.core r.lane r.slot &&
  (match e.crew? r.core r.t.crew with
   | some c => e.coreOk r.core && decide (r.t.gang < c.ngang) && (isSteward (e.phys r.core) || c.lgrps.getD r.t.gang 0 == r.lane / 32)
   | none => false)

/-- No two threads share a slot, and the threads of a lane fit its blocks. -/
def ImgEnv.lanesOk (e : ImgEnv) : Bool :=
  let ks := e.threads.map fun r => threadKey r.core r.lane r.slot
  ks.eraseDups.length == ks.length &&
  e.threads.all fun r => decide (((e.threads.filter fun q => q.core == r.core && q.lane == r.lane).foldl (fun n q => n + q.t.alloc) 0) ≤ 128)

/-- An OPLOG record (R386). -/
def ImgEnv.logOk (e : ImgEnv) (bs : List Byte) : Bool :=
  let x := natOf bs
  zeroBits x [(183, 166)] &&
  (e.threads.any fun r => r.core == bits x 191 184 && r.lane == bits x 134 128 && r.slot == bits x 138 135) &&
  (!x.testBit 165 || decide (bits x 223 192 < e.nstop))

/-- A CONV record (R384). -/
def ImgEnv.convOk (e : ImgEnv) (bs : List Byte) : Bool :=
  let x := natOf bs
  zeroBits x [(255, 146)] && bits x 23 22 != 3 && e.crewOk (bits x 145 138) (bits x 133 128)

/-- An ACC record (R384). -/
def ImgEnv.accOk (e : ImgEnv) (bs : List Byte) : Bool :=
  let x := headOf bs 32
  zeroBits x [(255, 26)] &&
  (match e.crew? (bits x 7 0) (bits x 13 8) with
   | some c => decide (bits x 17 14 < c.tiles)
   | none => false)

/-- The rows of a SCRATCH record: its core, its base, its row count. -/
def scratchRows (bs : List Byte) : Nat × Nat × Nat :=
  let x := headOf bs 32
  (bits x 7 0, bits x 24 14, bits x 35 25)

/-- A SCRATCH record (R384, R359). -/
def ImgEnv.scratchOk (e : ImgEnv) (bs : List Byte) : Bool :=
  let x := headOf bs 32
  let (core, base, rows) := scratchRows bs
  zeroBits x [(255, 44)] && (bs.drop (32 + 2064 * rows)).all (· == 0) && e.crewOk core (bits x 13 8) && decide (base + rows ≤ if isSteward (e.phys core) then 512 else 1536)

/-- The runs of the crews do not overlap (R359). -/
def runsDisjoint : List (Nat × Nat × Nat) → Bool
  | [] => true
  | (c, b, n) :: rest =>
    (rest.all fun (d, a, m) => c != d || n == 0 || m == 0 || decide (b + n ≤ a) || decide (a + m ≤ b)) && runsDisjoint rest

/-- A MAPS record (R384). -/
def ImgEnv.mapOk (e : ImgEnv) (bs : List Byte) : Bool :=
  let x := natOf bs
  zeroBits x [(7, 7), (63, 60), (127, 118), (255, 174)] && e.crewOk (bits x 167 160) (bits x 173 168)

/-- The cores and the tile that a stop record's operands name are the partition's and the crew's, and the cores that an MCAST has
finished are among those it names (R250, R377, R378). -/
def ImgEnv.operandsOk (e : ImgEnv) (core : Nat) (i : Instr) (body issue : List Byte) (done : Nat) : Bool :=
  match i with
  | .mcast _ _ _ _ _ _ _ _ =>
    (bitsSet (fieldAt body 12 16) 128).all e.coreOk &&
      (bitsSet (done + fieldAt body (4 * opCount i) 8 * 2 ^ 64) 128).all fun n => (fieldAt body 12 16).testBit n
  | .bcp _ _ _ _ true _ _ _ _ => e.coreOk (fieldAt body 3 1)
  | .drain _ _ _ _ _ _ _ _ _ =>
    (match e.crew? core (bits (natOf issue) 329 324) with
     | some c => decide (fieldAt body 0 4 < c.tiles)
     | none => false)
  | _ => true

/-- A STOP record (R249, R269, R384): it names a crew and a gang of the image. -/
def ImgEnv.stopOk (e : ImgEnv) (bs : List Byte) : Bool :=
  let l := headOf bs 32
  let x := natOf (slice bs 32 32)
  let opc := bits x 7 0
  let core := bits l 7 0
  zeroBits l [(15, 11), (255, 32)] && e.coreOk core &&
  (if bits l 10 8 = 5 then
     zeroBits x [(63, 60), (127, 75), (255, 192)] && decide (0xD1 ≤ opc) && decide (opc ≤ 0xD7) && !isSteward (e.phys core) &&
     (match e.crew? core (bits x 53 48) with
      | some c => decide (bits x 27 24 < c.tiles) && decide (bits x 58 54 < c.ngang) &&
          (x.testBit 59 || e.threads.any fun r => r.core == core && r.lane == bits x 70 64 && r.slot == bits x 74 71)
      | none => false)
   else
     let body := bs.drop 64
     let issue := slice body (issueAt opc (bits x 31 24)) 64
     zeroBits x [(63, 43), (255, 192)] && unitOfOpc opc == some (bits l 10 8) && decide (bits x 31 24 * 32 + 32 == bs.length) &&
     e.placeOk core (bits x 38 32) (bits x 42 39) &&
     (match e.crew? core (bits (natOf issue) 329 324) with
      | some c => decide (bits (natOf issue) 334 330 < c.ngang)
      | none => false) &&
     (match stopInstr (bits (natOf issue) 432 369) opc (bits x 19 8) with
      | some i => decide (4 * opCount i ≤ issueAt opc (bits x 31 24)) && e.operandsOk core i body issue (bits x 191 128)
      | none => false))

/-- FLAGS of a saved entry without reserved bits (R52). -/
def flagsOk (w : Word) : Bool := w &&& 0x00FF1FF7 == w

/-- A QUEUE record (R387). -/
def ImgEnv.queueOk (e : ImgEnv) (bs : List Byte) : Bool :=
  let x := headOf bs 64
  let n := bits x 198 192
  zeroBits x [(63, 39), (79, 64), (127, 120), (511, 272)] && decide (n ≤ 64) && (e.s.queue (bits x 207 200)).vf == e.vf &&
  ((upTo 0 n).all fun i => flagsOk (BitVec.ofNat 32 (fieldAt bs (68 + 48 * i) 4)) && fieldAt bs (104 + 48 * i) 8 == 0) &&
  (bs.drop (64 + 48 * n)).all (· == 0)

/-- A TASK record (R387). -/
def ImgEnv.taskOk (e : ImgEnv) (bs : List Byte) : Bool :=
  let x := headOf bs 64
  let n := bits x 406 400
  zeroBits x [(511, 446)] && e.crewOk (bits x 439 432) (bits x 445 440) && decide (n ≤ 64) &&
  (e.s.queue (bits x 431 424)).vf == e.vf && flagsOk (BitVec.ofNat 32 (bits x 63 32)) &&
  (upTo 0 64).all fun i =>
    let l := fieldAt bs (64 + 8 * i) 8
    if i < n then decide (l < 2 ^ 56) && l % 128 == 0 else l == 0

/-- A FAULT record (R384). -/
def faultOk (bs : List Byte) : Bool :=
  let x := natOf bs
  zeroBits x [(255, 100)] && decide (bits x 99 96 ≤ 2)

/-- The whole image passes its checks (R377). -/
def ImgEnv.ok (e : ImgEnv) (bs : List Byte) (img : List (Nat × List (List Byte))) : Bool :=
  let rs (n : Nat) := recsOf img n
  let mine := ((rs 6).map scratchRows) ++ (e.s.crews.filter fun x => x.2.vf == e.vf && leftOut e.excl x.1 && !x.2.ended).map fun x =>
    (e.s.logicalOf e.vf x.1, x.2.base, x.2.rows)
  headerOk (e.s.part e.vf) bs && (rs 1).length == 1 && e.partOk && (rs 2).all e.threadOk && e.lanesOk && (rs 3).all e.logOk &&
  (rs 4).all e.convOk && (rs 5).all e.accOk && (rs 6).all e.scratchOk && runsDisjoint mine && (rs 7).all e.mapOk &&
  (rs 8).all e.stopOk && (rs 9).all e.queueOk && (rs 10).all e.taskOk && (rs 11).all faultOk

/-! ### Rebuilding -/

/-- A free word of an image, of one of several kinds. -/
def freeWord (bs : List Byte) (kind n : Nat) : DWord := Config.imageWord bs (kind * 2 ^ 32 + n)

/-- The instruction at which a thread stands, as its partition's code holds it. -/
def State.instrAt (s : State) (vf core : Nat) (pc : DWord) : Option Instr :=
  match s.codeWord vf core pc with
  | .ok (w, _) => (match decode w with | .instr i => some i | _ => none)
  | .error _ => none

/-- The condition of a SIGWAIT is found again from its word (R248, R385). -/
def State.repark (s : State) (k : Nat) (t : Thread) : Thread :=
  match t.phase with
  | .parked (.signal va _ _) o =>
    (match s.instrAt t.vf (coreOf k) t.pc with
     | some (.sigwait _ c _ b) => { t with phase := .parked (.signal va c (t.pair b)) o }
     | _ => t)
  | _ => t

/-- A park has ended (R33). -/
def State.waitOver (s : State) (k : Nat) (t : Thread) : Park → Bool
  | .sector sa =>
    (match s.crew? (t.crewKey k) with
     | some cr => (s.sector (sectorAt (coreOf k) cr sa.toNat)).present
     | none => true)
  | .tag m => (upTo 0 8).all fun i => !m.getLsbD i || t.kcnt.getD i 0 == 0
  | .signal _ _ _ => t.passed
  | .conv c =>
    t.passed ||
      (!(t.sig.any fun x => x.1 == c) &&
        (match s.crew? (t.crewKey k) with
         | some cr => cr.pop.isNone && ((cr.task.bind (·.signer)).isNone)
         | none => true))
  | .arrive _ => t.passed
  | .grant b => decide (b ≤ t.alloc)
  | .fault => t.log.isEmpty && t.fetchFault.isNone

/-- A thread whose wait has ended is filed where it parked (R33); one that the replay of a log entry had parked stays parked on FAULT,
and the entry is performed (R46). A SIGWAIT whose condition held goes on when it issues again (R248). -/
def State.endPark (s : State) (k : Nat) (t : Thread) (why : Park) (order : Nat) : State :=
  let keep := match why with | .signal _ _ _ => t.passed | _ => false
  let s := s.setThread k { t with passed := keep, replayWait := false }
  if t.replayWait && !t.log.isEmpty then s.modThread k fun t => { t with phase := .parked .fault order }
  else s.file s.fileTime k

/-- Every thread that the arrival of a thread waits for has arrived and is resident (R40, R41). -/
def State.gathered (s : State) (k : Nat) (t : Thread) : Bool :=
  match t.arrival with
  | some a => allArrived (s.gangThreads k t) a.pc a.mask
  | none => false

/-- The wait of a thread that takes its slot again is over (R24): one that waits at a JOIN or a collective goes on when it
completes the arrivals, or when a thread it waited for has ended (R40); one that waits on a signal, when the condition holds
now. -/
def State.restoredOver (s : State) (k : Nat) (t : Thread) (why : Park) : Bool :=
  s.waitOver k t why ||
    match why with
    | .arrive _ => t.orphan || s.gathered k t
    | .signal va c x => s.signalHolds k t va c x
    | _ => false

/-- A thread enters a slot (R24, R372): it takes free blocks of its lane, and is filed or parked again. A request for registers
joins the lane's grant queue (R43), and the time that a privileged thread runs counts from here (R357). -/
def State.place1 (s : State) (k : Nat) (t : Thread) : State :=
  let t := { t with blocks := (s.freeBlocks (coreOf k) (laneOf k)).take t.alloc, ftime := s.fileTime, since := s.now, privSince := s.now }
  let s := s.setThread k (s.repark k { t with phase := match t.phase with | .parked w _ => .parked w s.nextId | p => p })
  match t.phase with
  | .parked _ _ => { s with nextId := s.nextId + 1 }
  | _ => s.file s.fileTime k

/-- A parked thread whose wait is already over is filed in this cycle (R24, R376): it issues its instruction again, and the last
one to return to a JOIN or a collective then performs it (R33, R40). -/
def State.wake (s : State) (k : Nat) : State :=
  match s.thread? k with
  | some t =>
    (match t.phase with
     | .parked why order => if s.restoredOver k t why then s.endPark k t why order else s
     | _ => s)
  | none => s

/-- A thread enters a slot, and its lane's requests are served (R24, R43, R372). -/
def State.seat (s : State) (k : Nat) (t : Thread) : State :=
  ((s.place1 k t).serveGrants (coreOf k) (laneOf k) 512).wake k

/-- The tiles that the target assigns to the crews of an image: each core's lowest, in the order of the records (R389). -/
def assignTiles (used : List (Nat × Nat)) : List CrewRec → List (List Nat)
  | [] => []
  | c :: cs =>
    let n := match used.find? fun u => u.1 == c.core with | some u => u.2 | none => 0
    upTo n c.tiles :: assignTiles ((c.core, n + c.tiles) :: used) cs

/-- The pending TPOP of a crew whose threads wait at it with every signature made (R57). -/
def State.popAt (s : State) (ck : Nat) : Option PopReq :=
  match s.crewThreads ck with
  | [] => none
  | (k, t) :: _ =>
    if !t.onConv || t.inTask || !t.sig.isEmpty then none
    else
      match s.instrAt t.vf (coreOf k) t.pc with
      | some (.tpop _ nb any d q c) => some { nb := nb, any := any, q := q.toNat, d := d.toNat, cm := c, since := s.now }
      | _ => none

/-- A crew of an image, before its threads (R388). -/
def loadedCrew (s : State) (bs : List Byte) (vf ck : Nat) (c : CrewRec) (tiles : List Nat) : Crew :=
  { vf := vf, regs := c.regs, ngang := c.ngang, team := c.team, lgrps := c.lgrps, base := 0, rows := 0
    static := (freeWord bs 1 ck).toNat % 2048, pool := (freeWord bs 2 ck).toNat % 2048
    wbuf := (c.queues.map fun q => (s.queue q).wbufUnits / 128).foldl max 0, queues := c.queues
    tconv := (freeWord bs 3 ck).setWidth 4, tiles := tiles, convs := List.replicate 16 ConvReg.reset
    regions := (Config.imageRegions bs ck).map fun (a, n, h) => { row := a, rows := n, task := if h = noTask then none else some h }
    maps := (upTo 0 64).map fun n => { MapEntry.reset with serial := (freeWord bs 4 (ck * 64 + n)).toNat % 65536 }
    gen := 0, task := none
    last := ((freeWord bs 5 ck).toNat % 8, (freeWord bs 6 ck).toNat % 5, (freeWord bs 7 ck).toNat % 256)
    pop := none, popD := 8 * ((freeWord bs 8 ck).toNat % 32), ended := false, reported := false }

/-- The key of a crew of the image. -/
def ImgEnv.ck (e : ImgEnv) (core crew : Nat) : Nat := e.phys core * 64 + crew

/-- What the machine held of the partition leaves it: crews that are not excluded, their tiles, the faults. -/
def ImgEnv.clear (e : ImgEnv) : State :=
  let s := e.s
  let gone (ck : Nat) (c : Crew) : Bool := c.vf == e.vf && !leftOut e.excl ck
  let s := (s.crews.filter fun x => gone x.1 x.2).foldl (fun (st : State) x => st.clearTiles x.1) s
  { s with crews := s.crews.filter fun x => !gone x.1 x.2 }

/-- The crews of the image. -/
def ImgEnv.addCrews (e : ImgEnv) (s : State) (bs : List Byte) : State :=
  (e.crews.zip (assignTiles [] e.crews)).foldl (fun (st : State) (c, ts) =>
    { st with crews := st.crews.set (e.ck c.core c.crew) (loadedCrew st bs e.vf (e.ck c.core c.crew) c ts) }) s

/-- A CONV record. -/
def ImgEnv.addConv (e : ImgEnv) (s : State) (r : List Byte) : State :=
  let x := natOf r
  let c : ConvReg :=
    { st := (match bits x 23 22 with | 0 => .idle | 1 => .armed | _ => .orphaned), members := BitVec.ofNat 32 (bits x 63 32)
      expect := bits x 21 11, count := bits x 10 0, gen := bits x 31 24
      op := if bits x 10 0 = 0 then none
            else some { opc := BitVec.ofNat 8 (bits x 71 64), mod := BitVec.ofNat 16 (bits x 87 72), d := BitVec.ofNat 8 (bits x 95 88)
                        a := BitVec.ofNat 8 (bits x 103 96), b := BitVec.ofNat 32 (bits x 127 104) }
      rel := [] }
  s.modCrew (e.ck (bits x 145 138) (bits x 133 128)) fun cr => cr.setConv (bits x 137 134) c

/-- An ACC record. -/
def ImgEnv.addAcc (e : ImgEnv) (s : State) (r : List Byte) : State :=
  let x := headOf r 32
  let ck := e.ck (bits x 7 0) (bits x 13 8)
  let el (n : Nat) : Elem :=
    { s := BitVec.ofNat 128 (fieldAt r (32 + 16 * n) 16), fl := BitVec.ofNat 4 (fieldAt r (65568 + n / 2) 1 / 16 ^ (n % 2)) }
  let t := (upTo 0 4096).foldl (fun (t : ATile) n => t.setElem n (el n)) { ATile.clear with anchor := signedOf 8 (bits x 25 18) }
  s.setTile (ck / 64 * 16 + (s.tilesOf ck).getD (bits x 17 14) 0) t

/-- The sector state of its code (R207). -/
def sectorOfCode (n : Nat) : Sector :=
  match n with
  | 1 => .ready
  | 2 => .filling
  | 3 => .draining
  | _ => .empty

/-- A SCRATCH record: the allocation, GEN, the bytes, P and O. -/
def ImgEnv.addScratch (e : ImgEnv) (s : State) (r : List Byte) : State :=
  let x := headOf r 32
  let (core, base, rows) := scratchRows r
  let ck := e.ck core (bits x 13 8)
  let s := s.modCrew ck fun c => { c with base := base, rows := rows, gen := bits x 43 36 }
  let a := mapAddr (e.phys core) (base * 2048)
  let s := s.writeScr a (slice r 32 (rows * 2048))
  (upTo 0 (rows * 64)).foldl (fun (st : State) n =>
    st.setSector (a / 32 + n) (sectorOfCode (fieldAt r (32 + rows * 2048 + n / 4) 1 / 4 ^ (n % 4) % 4))) s

/-- A MAPS record. -/
def ImgEnv.addMap (e : ImgEnv) (s : State) (r : List Byte) : State :=
  let x := natOf r
  let h := BitVec.ofNat 32 (bits x 159 128)
  let m : MapEntry :=
    { live := true, serial := bits x 23 8, n := bits x 39 24, m := bits x 55 40, depth := bits x 59 56
      parent := BitVec.ofNat 32 (bits x 95 64), child := x.testBit 6, addr := bits x 117 96
      task := if h = noTask then none else some h }
  s.modCrew (e.ck (bits x 167 160) (bits x 173 168)) fun c => { c with maps := c.maps.set (bits x 5 0) m }

/-- The written bytes of a line record (R64, R384). -/
def lineCells (l x : Nat) : List Host.Cell :=
  (upTo 0 128).filterMap fun i =>
    let d := x / 257 ^ i % 257
    if d = 0 then none else some (l * 128 + i, BitVec.ofNat 8 (d - 1))

/-- The write-buffer record at the head of the rows, with its units (R64); `cmd` gives a held command by the place of its STOP
record. -/
def readBufRec (cmd : Nat → Option Cmd) (bs : List Byte) : Option (BufRec × Nat) :=
  let x := headOf bs 144
  match bits x 2 0 with
  | 1 => some (.line (bits x 63 3) (lineCells (bits x 63 3) (bits x 1103 64)), 9)
  | 2 =>
    (match AtomOp.ofBits (BitVec.ofNat 4 (bits x 6 3)), Scope.ofBits (BitVec.ofNat 3 (bits x 10 8)) with
     | some op, some sc => some (.red (BitVec.ofNat 64 (bits x 74 11)) op (x.testBit 7) sc (BitVec.ofNat 64 (bits x 138 75)), 2)
     | _, _ => none)
  | 3 =>
    (Scope.ofBits (BitVec.ofNat 3 (bits x 5 3))).map fun sc =>
      (.xadd (BitVec.ofNat 64 (bits x 61 6)) (BitVec.ofNat 64 (bits x 117 62)) sc (BitVec.ofNat 128 (bits x 245 118))
        (signedOf 8 (bits x 253 246)), 2)
  | 4 => some (.signal (BitVec.ofNat 64 (bits x 67 4)) (BitVec.ofNat 64 (bits x 131 68)) (x.testBit 3), 2)
  | 5 => some (.push (bits x 31 16) (Entry.ofWords (wordsOfNat (bits x 287 32) 8)), 3)
  | 6 => (cmd (bits x 63 32)).map fun c => (.cmd c, 5)
  | _ => none

/-- The write buffer in a crew's rows (R64, R384): records up to WBUSED units. -/
def readBuffer (cmd : Nat → Option Cmd) : Nat → Nat → List Byte → List BufRec
  | 0, _, _ => []
  | fuel + 1, units, bs =>
    if units = 0 then []
    else
      match readBufRec cmd bs with
      | some (r, n) => r :: readBuffer cmd fuel (units - n) (bs.drop (16 * n))
      | none => []

/-- A TASK record: the crew is in the task again, with the write buffer that its rows hold. -/
def ImgEnv.addTask (e : ImgEnv) (s : State) (bs : List Byte) (cmd : Nat → Option Cmd) (r : List Byte) : State :=
  let x := headOf r 64
  let ck := e.ck (bits x 439 432) (bits x 445 440)
  let ks := (s.crewThreads ck).map (·.1)
  let t : Task :=
    { e := Entry.ofWords ((upTo 0 8).map fun n => BitVec.ofNat 32 (bits x (32 * n + 31) (32 * n)))
      handle := BitVec.ofNat 32 (bits x 287 256), seq := bits x 383 320, q := bits x 431 424, elapsed := bits x 319 288
      buf := (match s.crew? ck with
        | some cr => readBuffer cmd (bits x 399 384) (bits x 399 384) (s.readScr (crewAddr (ck / 64) cr ((cr.rows - cr.wbuf) * 2048)) (cr.wbuf * 2048))
        | none => [])
      rset := (upTo 0 (bits x 406 400)).map fun n => fieldAt r (64 + 8 * n) 8 / 128
      signer := if x.testBit 407 then ks[(freeWord bs 9 ck).toNat % max 1 ks.length]? else none
      committing := x.testBit 407 && bits x 423 408 != 0, nextRec := bits x 423 408, dispatch := s.hg.dispatches, held := false }
  let tpop : DWord × DWord := (freeWord bs 10 ck, freeWord bs 11 ck)
  let s := s.modCrewThreads ck fun _ u => { u with tpop := tpop }
  ({ s with hg := { s.hg with dispatches := s.hg.dispatches + 1 } }).modCrew ck fun c => { c with task := some t }

/-- A QUEUE record: the queue as saved, in the loading partition. -/
def ImgEnv.addQueue (e : ImgEnv) (s : State) (bs : List Byte) (r : List Byte) : State :=
  let x := headOf r 64
  let n := bits x 207 200
  let ents := (upTo 0 (bits x 198 192)).map fun i =>
    (Entry.ofWords (wordsOf (slice r (64 + 48 * i) 32)), fieldAt r (96 + 48 * i) 8)
  let cfg : DWord := (BitVec.ofNat 64 (bits x 63 0) &&& ~~~(0xF00#64)) ||| BitVec.ofNat 64 (e.vf * 256)
  let q : Queue :=
    { Queue.reset with
      qcfg := cfg, qspill := BitVec.ofNat 64 (bits x 127 64), ents := ents, seq := bits x 191 128, sphead := bits x 239 208
      spcnt := bits x 271 240, hostdrop := x.testBit 199
      spseq := (upTo 0 (bits x 271 240)).map fun i => (freeWord bs 12 (n * 2 ^ 24 + i)).toNat
      lastTs := loWord (freeWord bs 13 n) }
  { s with queues := s.queues.set n { q with ep := q.prio, pass := 0, cr := q.weight + 1 } }

/-- A FAULT record. -/
def readFault (r : List Byte) : FaultRec :=
  let x := natOf r
  { id := bits x 23 0, user := bits x 30 24, event := false, lohi := BitVec.ofNat 32 (bits x 23 0), va := BitVec.ofNat 64 (bits x 95 32)
    tstamp := 0, pushed := x.testBit 31, resp := bits x 99 96 }

/-- An OPLOG record becomes its thread's next log entry (R386): the registers are those of the word's own operands. -/
def ImgEnv.addLog (e : ImgEnv) (s : State) (bs : List Byte) (cmd : Nat → Option Cmd) (i : Nat) (r : List Byte) : State :=
  let x := natOf r
  let k := threadKey (e.phys (bits x 191 184)) (bits x 134 128) (bits x 138 135)
  let w : DWord := BitVec.ofNat 64 (bits x 63 0)
  let info := match decode w with | .instr j => infoOf j | _ => { g := always }
  let eng := x.testBit 165
  let c := if eng then cmd (bits x 223 192) else none
  let f := (s.part e.vf).faults.find? fun f => !f.event && f.id == bits x 164 141
  let ops := (upTo 0 10).map fun n => BitVec.ofNat 32 (bits x (223 + 32 * n) (192 + 32 * n))
  let ent : LogEntry :=
    { word := w, pc := (c.map (·.pc)).getD (freeWord bs 14 i), cb := (c.map (·.cb)).getD (freeWord bs 15 i), srcs := if eng then [] else info.reads.zip ops
      dests := if eng then [] else info.writes, cause := causeOfCode ((f.map (·.user)).getD 0), va := BitVec.ofNat 64 (bits x 127 64)
      fid := bits x 164 141, verdict := 0, cmd := c.map (·.id)
      at_ := (c.map (·.at_)).getD (2 ^ 32 - (freeWord bs 16 i).toNat % 2 ^ 32)
      commit := (match decode w with | .instr (.tdone _ _) => true | _ => false) }
  s.modThread k fun t => { t with log := t.log ++ [ent] }

/-- The fragment and quad registers that an operation holds in a thread until it starts (R257, R269). -/
def MatOp.holds (m : MatOp) (cr : Crew) (k : Nat) (t : Thread) : List Nat :=
  let n := 32 / max 1 cr.team
  let scale (sc : Bool) (sr : Reg) : List Nat := if sc && decide (32 * (t.gang - m.gang0) + laneInGang k < 64) then [sr.toNat] else []
  match m.i with
  | .mma _ _ _ _ _ _ sc sr _ a b _ => regNums a n ++ regNums b n ++ scale sc sr
  | .mmas _ _ _ _ _ _ sc sr _ a _ _ => regNums a n ++ scale sc sr
  | .aput _ _ a _ => regNums a 4
  | _ => []

/-- The destinations of an operation that writes registers when it completes (R264). -/
def MatOp.dests (m : MatOp) : List Nat :=
  match m.i with
  | .aget _ _ _ _ w4 _ a _ => regNums a (if w4 then 4 else 1)
  | .aflag _ _ _ a _ => [a.toNat]
  | _ => []

/-- The scratchpad sectors that a queued MMAS reads (R132, R268). -/
def MatOp.image (m : MatOp) (cr : Crew) : List (Nat × Bool) :=
  match m.i with
  | .mmas _ _ _ _ _ _ _ _ _ _ _ _ => (sectorRange (crewAddr m.core cr m.sa) 4096).map fun q => (q, false)
  | _ => []

/-- PEND of the THREAD record of a slot (R385). -/
def ImgEnv.pendOf (e : ImgEnv) (k : Nat) : Nat :=
  match e.threads.find? fun r => threadKey (e.phys r.core) r.lane r.slot == k with
  | some r => r.pend
  | none => 0

/-- A matrix operation of a STOP record re-enters its queue as number `id` (R268, R269): its holds and its pending results stand
again, but for the registers that PEND no longer names, which a younger word has written, and an image that an earlier command still holds is waited for (R110). -/
def ImgEnv.addMat (e : ImgEnv) (s : State) (claimed : List Nat) (bs : List Byte) (id i : Nat) (r : List Byte) :
    State × List (Nat × Bool) :=
  let core := e.phys (bits (headOf r 32) 7 0)
  let x := natOf (slice r 32 32)
  let crew := bits x 53 48
  let ck := core * 64 + crew
  let w := bits x 7 0 * 2 ^ 56 + 7 * 2 ^ 48 + bits x 27 24 * 2 ^ 40 + bits x 39 32 * 2 ^ 32 + bits x 47 40 * 2 ^ 24 +
    bits x 31 28 * 2 ^ 16 + bits x 23 8
  match (Fields.ofWord (BitVec.ofNat 64 w)).instr?, s.crew? ck with
  | some j, some cr =>
    let team := x.testBit 59
    let m : MatOp :=
      { id := id, core := core, crew := crew, thr := threadKey core (bits x 70 64) (bits x 74 71), i := j, gang0 := bits x 58 54
        team := if team then max 1 cr.team else 1, sa := bits x 159 128, idx := BitVec.ofNat 32 (bits x 191 160)
        tile := cr.tiles.getD (bits x 27 24) 0, started := none, want := [], got := [], vals := [], flags := 0 }
    let (want, got) := claimSectors claimed (m.image cr)
    let s := { s with mats := s.mats ++ [{ m with want := want, got := got }] }
    (s.modCrewThreads ck fun k t =>
      if !m.pendingOf k t then t
      else
        let isF := match j with | .aget _ _ _ _ _ _ _ _ => true | _ => false
        let t := { t with held := t.held ++ (m.holds cr k t).map fun n => (16 + m.id, n) }
        if m.dests.isEmpty then t
        else { t with outs := t.outs ++ [{ i := j, pc := freeWord bs 20 i, cb := freeWord bs 21 i, dests := m.dests, vals := [], flags := 0
                                           dead := m.dests.filter fun r => !(e.pendOf k).testBit r
                                           isFloat := isF, isMem := false, target := 0, port := 12, va := 0, mat := some m.id, at_ := 0 }] },
     m.image cr)
  | _, _ => (s, [])

/-- The registers that a signer of a convergence register's recorded MMA or MMAS holds (R257). -/
def OpRec.holds (o : OpRec) (cr : Crew) (gang0 k : Nat) (t : Thread) : List Nat :=
  let w := o.opc.toNat * 2 ^ 56 + 7 * 2 ^ 48 + o.d.toNat * 2 ^ 40 + o.a.toNat * 2 ^ 32 + o.b.toNat % 256 * 2 ^ 24 + o.mod.toNat
  match (Fields.ofWord (BitVec.ofNat 64 w)).instr? with
  | some j =>
    MatOp.holds { id := 0, core := 0, crew := 0, thr := 0, i := j, gang0 := gang0, team := 1, sa := 0, idx := 0, tile := 0
                  started := none, want := [], got := [], vals := [], flags := 0 } cr k t
  | none => []

/-- The registers that the thread holds if it has signed convergence register n for a matrix operation, whose gangs it is of. -/
def Crew.signHolds (cr : Crew) (n k : Nat) (t : Thread) : List Nat :=
  let r := cr.conv n
  match r.op, cr.teamOf r with
  | some o, some g0 =>
    if r.st == .armed && r.count != 0 && r.members.getLsbD t.gang then o.holds cr g0 k t else []
  | _, _ => []

/-- The thread waits on a convergence register whose generation is partly signed: it has signed it (R37). -/
def Thread.signedWait (t : Thread) (cr : Crew) (n : Nat) : Bool :=
  match t.waitsConv with
  | some c => c.toNat == n && (cr.conv n).st == .armed && (cr.conv n).count != 0
  | none => false

/-- The registers that HELD names beside those of the queued operations belong to the thread's signatures (R39, R257, R385): the one
that SIGC names, every other whose operation's registers all are among them, and the one on which the thread waits
(notes/assumptions/9.md). -/
def Thread.withSigs (t : Thread) (k : Nat) (cr : Crew) (left : List Nat) : Thread :=
  match t.sig with
  | [] => t
  | (c, g) :: _ =>
    let others := (upTo 0 16).filter fun n =>
      n != c.toNat && (t.signedWait cr n ||
        (!(cr.signHolds n k t).isEmpty && (cr.signHolds n k t).all fun r => left.contains r))
    let theirs := others.flatMap fun n => (cr.signHolds n k t).map fun r => (n, r)
    let mine := cr.signHolds c.toNat k t
    let own := mine ++ left.filter fun r => !mine.contains r && !(theirs.any fun h => h.2 == r)
    { t with sig := (c, g) :: others.map fun n => (BitVec.ofNat 4 n, (cr.conv n).gen)
             held := t.held ++ own.map (fun r => (c.toNat, r)) ++ theirs }

/-- A thread gets its signatures back, once the queued operations hold their registers. -/
def ImgEnv.holdRest (e : ImgEnv) (s : State) (r : Recorded) : State :=
  let k := threadKey (e.phys r.core) r.lane r.slot
  s.modThread k fun t =>
    match s.crew? (t.crewKey k) with
    | some cr => t.withSigs k cr ((bitsSet r.held 256).filter fun n => !(t.held.any fun h => h.2 == n))
    | none => t

/-- The pool's tags (R377): every listed block is taken, the partition's others are free. -/
def ImgEnv.addPool (e : ImgEnv) (s : State) : State :=
  let kept := s.pool.filter fun x => x.2.owner != e.vf + 1
  { s with pool := (partBlocks e.part).foldl (fun m b => m.set b.1 { owner := e.vf + 1, sealed := b.2 }) kept }

/-- The registers of R368, TVEC and FURCFG (R377). -/
def ImgEnv.addRegs (e : ImgEnv) (s : State) : State :=
  let b := e.part
  let cores := (s.part e.vf).cores
  let s := s.modPart e.vf fun p => { p with
    ptroot := partReg b 0, segtab := partReg b 1, trarea := partReg b 2, trcount := loWord (partReg b 3), fqcfg := partReg b 4
    qsel := loWord (partReg b 5), tvec := partReg b 8, everRun := true, line := .quiesced e.excl, stopped := [], events := [], rebuild := false }
  (cores.zip (upTo 0 cores.length)).foldl (fun (st : State) (c, i) =>
    { st with cores := st.cores.set c { st.coreRegs c with furcfg := furcfgClamp (partFurcfg b cores.length i) } }) s

/-- What the STOP records have put back so far: the state, the sectors that earlier ones hold, the commands by the place of their
records. -/
structure Resumed where
  s : State
  claimed : List Nat
  cmds : List (Nat × Cmd)

/-- A STOP record is put back (R376): a command to its unit, or to the task that holds it, with the sectors it had taken; a matrix
operation to its queue. -/
def ImgEnv.addStop (e : ImgEnv) (bs : List Byte) (id : Nat) (z : Resumed) (i : Nat) (r : List Byte) : Resumed :=
  if bits (headOf r 32) 10 8 = 5 then
    let (s, qs) := e.addMat z.s z.claimed bs id i r
    { z with s := s, claimed := z.claimed ++ qs.map (·.1) }
  else
    match readStop (z.s.part e.vf) e.vf z.s.now id z.s.tilesOf r with
    | none => z
    | some y =>
      let todo := z.s.stopSectors y
      let (want, got) := claimSectors z.claimed todo
      let c := { y.c with want := want, got := got }
      { s := if y.held then z.s else { z.s with cmds := z.s.cmds ++ [c] }
        claimed := z.claimed ++ todo.map (·.1), cmds := (i, c) :: z.cmds }

/-- The STOP records in the order of their SEQ (R376), with their places. -/
def stopOrder (rs : List (List Byte)) : List (Nat × List Byte) :=
  sortBy (fun a b => decide (bits (headOf a.2 32) 31 16 ≤ bits (headOf b.2 32) 31 16)) ((upTo 0 rs.length).zip rs)

/-- Every STOP record is put back (R268, R376). -/
def ImgEnv.addStops (e : ImgEnv) (s : State) (bs : List Byte) (rs : List (List Byte)) : Resumed :=
  let order := stopOrder rs
  (order.zip (upTo s.nextId order.length)).foldl (fun (z : Resumed) (x, id) => e.addStop bs id z x.1 x.2)
    { s := { s with nextId := s.nextId + order.length }, claimed := [], cmds := [] }

/-- The partition as the image gives it (R377). -/
def ImgEnv.build (e : ImgEnv) (bs : List Byte) (img : List (Nat × List (List Byte))) : State :=
  let rs (n : Nat) := recsOf img n
  let num (n : Nat) := (rs n).zip (upTo 0 (rs n).length)
  let s := e.addPool (e.addRegs e.clear)
  let s := s.loadRecs e.vf
  let s := (rs 9).foldl (fun (st : State) r => e.addQueue st bs r) s
  let s := e.addCrews s bs
  let s := (rs 4).foldl e.addConv s
  let s := (rs 5).foldl e.addAcc s
  let s := (rs 6).foldl e.addScratch s
  let s := (rs 7).foldl e.addMap s
  let s := s.modPart e.vf fun p => { p with
    faults := (rs 11).map readFault, nextFid := ((rs 11).map fun r => (readFault r).id + 1).foldl max p.nextFid }
  let s := e.threads.foldl (fun (st : State) r =>
    st.place1 (threadKey (e.phys r.core) r.lane r.slot) { r.t with issued := 2 ^ 32 }) s
  let z := e.addStops s bs (rs 8)
  let cmd (i : Nat) : Option Cmd := (z.cmds.find? fun x => x.1 == i).map (·.2)
  let s := (rs 10).foldl (fun (st : State) r => e.addTask st bs cmd r) z.s
  let s := e.threads.foldl (fun (st : State) r => e.holdRest st r) s
  let s := (num 3).foldl (fun (st : State) (r, i) => e.addLog st bs cmd i r) s
  e.crews.foldl (fun (st : State) c =>
    let ck := e.ck c.core c.crew
    match st.popAt ck with
    | some p => st.modCrew ck fun cr => { cr with pop := some p, popD := p.d }
    | none => st) s

/-- Every crew of the partition but the excluded one is idle (R360, R377). -/
def State.allIdle (s : State) (vf : Nat) (excl : Option Nat) : Bool :=
  s.crews.all fun x => x.2.vf != vf || leftOut excl x.1 || s.crewIdle x.1

/-- The partition is quiesced, or has never run (R377). -/
def State.loadable (s : State) (vf : Nat) : Bool :=
  match (s.part vf).line with
  | .quiesced _ => true
  | _ => !(s.part vf).everRun

/-- RESUME.LOAD of an image's bytes (R377): none is IMAGE_BAD, with nothing changed. -/
def State.loadImage (s : State) (vf : Nat) (excl : Option Nat) (bs : List Byte) : Option State :=
  match parseImage bs with
  | none => none
  | some img =>
    let part := (recsOf img 1).headD []
    let e : ImgEnv :=
      { s := s, vf := vf, excl := excl, part := part, crews := partCrews part (s.part vf).cores.length
        threads := (recsOf img 2).map (readRecord vf), nstop := (recsOf img 8).length }
    if s.loadable vf && s.allIdle vf excl && e.ok bs img then some (e.build bs img) else none

/-- The bytes of an image at a PPA: as many as its LENGTH says (R383); none when they do not all lie inside the levee. -/
def State.readImage (s : State) (vf ppa : Nat) : Option (List Byte) :=
  match s.imagePlace vf ppa 64 with
  | none => none
  | some p =>
    let len := fieldAt (s.readBytes agHeadgate p.key 16) 8 8
    if len < 64 ∨ (s.imagePlace vf ppa len).isNone = true then none else some (s.readBytes agHeadgate p.key len)

end Sys2Proof.Machine
end

