-- ==== Sys2Proof/Machine/Preempt.lean ====
section
/-!
DEFINITION. Pre-emption (spec/23_preemption_migration.md R370 to R377): EVICT and RESUME.THREADS, QUIESCE and RESUME, the
stop of the agents (spec/21_privileged_state_traps.md R351, R352), the host's VFCMD (spec/24_host_link_management.md R394),
the timeouts of R352 and R357, and the checkpoint (R392, R398).
-/
namespace Sys2Proof.Machine

/-! ### The eviction area (R370, R372) -/

/-- Bytes of an eviction area. -/
def areaLen : Nat := 2048 * 1280

/-- The translation of every page of an eviction area (R370). -/
def State.areaPages (s : State) (k : Nat) (t : Thread) (va : Nat) : Except (Cause × DWord) (List (Nat × Loc)) :=
  foldE (fun (acc : List (Nat × Loc)) n =>
    let p := (va / 65536 + n) * 65536
    match s.access (coreOf k) t.vf (tlbPort k) p .write with
    | .error e => .error (e, BitVec.ofNat 64 p)
    | .ok l => .ok (acc ++ [(p, l)])) (upTo 0 ((va + areaLen - 1) / 65536 + 1 - va / 65536)) []

/-- Record n of an area, with the place it has there. -/
def recordPlace (pages : List (Nat × Loc)) (va n k : Nat) (t : Thread) : Evicted :=
  let a := va + 1280 * n
  let page (p : Nat) : Nat × Nat := match pages.find? fun x => x.1 == p with | some x => (x.2.key, x.2.geom) | none => (0, 0)
  let p := page (a / 65536 * 65536)
  let p2 := page (a / 65536 * 65536 + 65536)
  { key := k, t := t, va := BitVec.ofNat 64 a, addr := p.1 + a % 65536, addr2 := p2.1, geom := p.2, geom2 := p2.2 }

/-- The causes of EVICT and RESUME.THREADS (R370): the first that decides, with its address. -/
def State.areaCause (s : State) (t : Thread) (ga gb : Word) (va : DWord) (evict : Bool) : Option (Cause × DWord) :=
  let core := bits ga.toNat 7 0
  let ck := core * 64 + bits ga.toNat 13 8
  let resident := match s.crew? ck with | some c => c.vf == t.vf && !(s.crewThreads ck).isEmpty | none => false
  if bits ga.toNat 31 14 ≠ 0 ∨ bits gb.toNat 31 12 ≠ 0 then some (.illegalModifier, 0)
  else if t.inTask then some (.taskIrrevocable, 0)
  else if !(s.part t.vf).hasCore core || (evict && (!resident || bits gb.toNat 7 0 == 0 || bits gb.toNat 11 8 == 0)) then
    some (.mapRange, 0)
  else if va.toNat % 64 ≠ 0 then some (.misaligned, va)
  else if 2 ^ 56 < va.toNat + areaLen then some (.addrRange, va)
  else none

/-- The thread may be evicted (R370). -/
def Thread.evictable (t : Thread) : Bool :=
  (match t.phase with
   | .filed _ => true
   | .parked .fault _ => false
   | .parked _ _ => true
   | _ => false) && t.held.isEmpty && t.sig.isEmpty

/-- The victim on a lane: the latest filing time, then the higher slot (R370). -/
def State.victim (s : State) (core crew lane : Nat) : Option (Nat × Thread) :=
  (s.threads.filter fun x => coreOf x.1 == core && laneOf x.1 == lane && x.2.crew == crew && x.2.evictable).foldl
    (fun (b : Option (Nat × Thread)) x =>
      match b with
      | none => some x
      | some y => if y.2.ftime ≤ x.2.ftime then some x else some y) none

/-- Write a victim's record and take it off its lane (R370): its queued stores are performed first. -/
def State.evictOne (s : State) (k : Nat) (pages : List (Nat × Loc)) (va : Nat) : State :=
  let s := s.drainAll k
  let t := s.threadAt k
  let v := recordPlace pages va (16 * laneOf k + slotOf k) k t
  let s := s.storeEvicted v 0 (t.record ((s.part t.vf).logical (coreOf k)) (laneOf k) (slotOf k) true)
  let s := s.dropBlocks (coreOf k) (laneOf k) t.blocks t.regs
  ({ s with threads := s.threads.erase k, evicted := v :: s.evicted }).serveGrants (coreOf k) (laneOf k) 512

/-- What evicting answers: the threads evicted and the lanes still short, or a wait for a victim's loads. -/
inductive EvictRes where
  | done (s : State) (threads short : Nat)
  | wait

/-- Serve one lane (R370). -/
def State.evictLane (s : State) (core crew need : Nat) (pages : List (Nat × Loc)) (va lane : Nat) : Nat → Nat → Nat → EvictRes
  | 0, n, short => .done s n short
  | fuel + 1, n, short =>
    if need ≤ (s.freeBlocks core lane).length then .done s n short
    else
      match s.victim core crew lane with
      | none => .done s n (short + 1)
      | some (k, t) =>
        if t.outs.any (fun o => o.isMem || o.target != 0) then .wait else (s.evictOne k pages va).evictLane core crew need pages va lane fuel (n + 1) short

/-- Serve the lanes that are named, in order. -/
def State.evictLanes (s : State) (core crew need : Nat) (pages : List (Nat × Loc)) (va : Nat) : List Nat → Nat → Nat → EvictRes
  | [], n, short => .done s n short
  | l :: ls, n, short =>
    match s.evictLane core crew need pages va l 17 n short with
    | .wait => .wait
    | .done s n short => s.evictLanes core crew need pages va ls n short

/-- The core lanes of the lane groups of a mask. -/
def lanesOfMask (core mask : Nat) : List Nat :=
  if isSteward core then (if mask.testBit 0 then [0] else []) else (bitsSet mask 4).flatMap fun g => upTo (32 * g) 32

/-- The fault of an eviction area: PAGE_NOT_PRESENT is recoverable, every other one precise (R370). -/
def State.areaFault (s : State) (i : Instr) (k : Nat) (e : Cause × DWord) : State := s.storeFault i k e.1 e.2

/-- EVICT (R370): the bundle is not ready until it can complete. -/
def execEvict (g : Guard) (d a b c : Reg) (s : State) : Out :=
  let i : Instr := .evict g d a b c
  word i s fun k t =>
    let ga := t.r a
    let gb := t.r b
    let va := t.pair c
    let core := bits ga.toNat 7 0
    match s.areaCause t ga gb va true with
    | some e => s.areaFault i k e
    | none =>
      match s.areaPages k t va.toNat with
      | .error e => s.areaFault i k e
      | .ok pages =>
        match s.evictLanes core (bits ga.toNat 13 8) (bits gb.toNat 7 0) pages va.toNat (lanesOfMask core (bits gb.toNat 11 8)) 0 0 with
        | .wait => s.stall
        | .done s n short => s.put2 k d (pairOf (BitVec.ofNat 32 n) (BitVec.ofNat 32 short))

/-- The slot that takes a restored thread: its own when it is free, else the lowest free one of the lane; a steward core has
one lane with one slot (R13). -/
def State.slotFor (s : State) (core lane slot : Nat) : Option Nat :=
  (if isSteward core then (if lane = 0 then [0] else []) else slot :: upTo 0 16).find? fun n => (s.thread? (threadKey core lane n)).isNone

/-- The free blocks of a lane that no queued request waits for (R43, R372). -/
def State.spareBlocks (s : State) (core lane : Nat) : Nat :=
  (s.freeBlocks core lane).length -
    (s.grantQueue core lane).foldl (fun n (k, b, _) => n + (b - (match s.thread? k with | some t => t.alloc | none => 0))) 0

/-- Commands, matrix operations and a commit that name a restored thread follow it to its new slot; those of another thread
that has had the slot since do not. -/
def State.rekey (s : State) (t : Thread) (old new : Nat) : State :=
  if old = new then s
  else
    { s with
      cmds := s.cmds.map fun c => if c.thr = old ∧ c.crew = t.crewKey old ∧ c.gang = t.gang then { c with thr := new } else c
      mats := s.mats.map fun m => if m.thr = old ∧ m.crew = t.crew ∧ m.core = coreOf old ∧ m.gang0 = t.gang then { m with thr := new } else m
      crews := s.crews.mapKV fun _ c => { c with task := c.task.map fun t => if t.signer = some old then { t with signer := some new } else t } }

/-- Restore one record of an area when it belongs to the crew (R372): the state and whether it was restored, or none when it
is not such a record. -/
def State.restoreOne (s : State) (vf core crew : Nat) (pages : List (Nat × Loc)) (va n : Nat) : Option (State × Bool) :=
  let r := recordPlace pages va n 0 (readRecord vf []).t
  let v := (s.evicted.find? fun e => e.va == r.va && e.addr == r.addr && e.t.vf == vf).getD r
  let kept := s.evicted.contains v
  let h := natOf ((upTo 0 24).map (s.evictedByte v))
  if !h.testBit 181 || bits h 191 184 != (s.part vf).logical core || bits h 144 139 != crew then none
  else
    let r := readRecord vf ((upTo 0 1280).map (s.evictedByte v))
    match s.slotFor core r.lane r.slot with
    | none => some (s, false)
    | some slot =>
      if s.spareBlocks core r.lane < r.t.alloc then some (s, false)
      else
        let k := threadKey core r.lane slot
        let t := if kept then r.t.withKept v.t else r.t
        let s := s.storeEvicted v 22 [BitVec.ofNat 8 (bits h 183 176) &&& 0xDF]
        let s := if kept then ({ s with evicted := s.evicted.filter fun e => e != v }).rekey v.t v.key k else s
        some ((s.seat k t).logStopped k, true)

/-- RESUME.THREADS (R372). -/
def execResumeThreads (g : Guard) (d a c : Reg) (s : State) : Out :=
  let i : Instr := .resumeThreads g d a c
  word i s fun k t =>
    let ga := t.r a
    let va := t.pair c
    match s.areaCause t ga 0 va false with
    | some e => s.areaFault i k e
    | none =>
      match s.areaPages k t va.toNat with
      | .error e => s.areaFault i k e
      | .ok pages =>
        let (s, n, left) := (upTo 0 2048).foldl (fun (x : State × Nat × Nat) m =>
          match x.1.restoreOne t.vf (bits ga.toNat 7 0) (bits ga.toNat 13 8) pages va.toNat m with
          | none => x
          | some (s, true) => (s, x.2.1 + 1, x.2.2)
          | some (s, false) => (s, x.2.1, x.2.2 + 1)) (s, 0, 0)
        s.put2 k d (pairOf (BitVec.ofNat 32 n) (BitVec.ofNat 32 left))

/-! ### The stop line (R351, R352, R374) -/

/-- Raise the stop line of a partition (R374). A stop that leaves out no crew also stops the crew that an earlier one left
out. -/
def State.raiseStop (s : State) (vf : Nat) (excl : Option Nat) : State :=
  s.modPart vf fun p =>
    match p.line with
    | .running => { p with line := .stopping false s.now excl, stopped := [], events := [] }
    | .halted => { p with line := .stopping false s.now excl }
    | .stopping false _ (some _) => if excl.isNone then { p with line := .stopping false s.now none } else p
    | .quiesced (some _) => if excl.isNone then { p with line := .stopping false s.now none } else p
    | _ => p

/-- The crews that a stop in progress leaves out. -/
def Line.excl : Line → Option Nat
  | .stopping _ _ e => e
  | .quiesced e => e
  | _ => none

/-- The agents of a partition that a line stops (R351, R352, R374). -/
def State.agents (s : State) (vf : Nat) : List Nat :=
  let excl := (s.part vf).line.excl
  (s.savedThreads vf excl).map (·.1) ++ ((s.savedMats vf excl).map fun m => agentMatrix m.core).eraseDups ++
    ((s.savedCmds vf excl).map fun c => agentUnit c.unit.code).eraseDups ++ [agentUnit headgateUnit]

/-- Every agent of the partition has stopped. -/
def State.allStopped (s : State) (vf : Nat) : Bool := (s.agents vf).all fun a => (s.part vf).stopped.contains a

/-- What waits for a thread's next instruction is delivered now (R38, R45, R71, R126). A parked thread takes a waiting cause only when
it stops with its partition, since no record carries the cause (notes/assumptions/36.md); its wait ends in the handler. -/
def State.deliverWaiting (s : State) (k : Nat) : State :=
  match s.thread? k with
  | none => s
  | some t =>
    match t.phase with
    | .parked _ _ =>
      if !t.imps.isEmpty then s.deliverImp k
      else if t.orphan then (s.modThread k fun t => { t with orphan := false }).trap k .convOrphan
      else s
    | .stopped => s
    | _ =>
      if !t.imps.isEmpty then s.deliverImp k
      else if t.orphan then (s.modThread k fun t => { t with orphan := false }).trap k .convOrphan
      else
        match t.pendCause with
        | some c => (s.modThread k fun t => { t with pendCause := none }).trap k c
        | none => if t.acqFault then (s.modThread k fun t => { t with acqFault := false }).park k .fault else s

/-- A thread stops at an instruction boundary: filed at its next PC, or parked (R352, R374). -/
def State.stopThread (s : State) (k : Nat) : State :=
  let s := (s.drainAll k).deliverWaiting k
  match s.thread? k with
  | some t => (match t.phase with | .active => (s.unbundle [k]).file s.fileTime k | _ => s.unbundle [k])
  | none => s

/-- The agent can stop now (R352): a thread's loads are done, a matrix engine has no started operation. -/
def State.canStop (s : State) (a : Nat) : Bool :=
  if a < 400000 then (match s.thread? a with | some t => t.outs.all (·.mat.isSome) | none => true)
  else if a < 500000 then !(s.mats.any fun m => m.core == a - 400000 && m.started.isSome)
  else true

/-- A unit stops for a partition (R352, R374): its MCASTs keep their progress, the slack of its commands stands still, and a PSEL,
which begins again at the resume, forgets the records it has read (R295). -/
def State.stopUnit (s : State) (vf a : Nat) : State :=
  let mine (c : Cmd) : Bool := c.vf == vf && !leftOut (s.part vf).line.excl c.crew && agentUnit c.unit.code == a
  let s := (s.cmds.filter mine).foldl (fun (st : State) c =>
    match c.i with
    | .mcast _ _ len _ _ _ _ _ => st.mcastAlign c len
    | _ => st) s
  { s with cmds := s.cmds.map fun c =>
      if mine c then
        let c := { c with slack := c.slackAt s.now, lastServed := s.now }
        match c.i with
        | .psel _ _ _ _ => { c with recd := [], kv := [] }
        | _ => c
      else c }

/-- The commands of a partition count their waits from its RUN (R221, R357, R376). -/
def State.restartCmds (s : State) (vf : Nat) (excl : Option Nat) : State :=
  { s with cmds := s.cmds.map fun c =>
      if c.vf == vf && !leftOut excl c.crew then { c with lastServed := s.now, moved := s.now } else c }

/-- AGENT_STOP (R352), of the partition and the agent that State.who names. -/
def execAgentStop (s : State) : Out :=
  .next (
    match s.who with
    | [vf, a] =>
      (match (s.part vf).line with
       | .stopping _ _ _ =>
         if (s.agents vf).contains a && !(s.part vf).stopped.contains a && s.canStop a then
           let s := if a < 400000 then s.stopThread a else if a < 500000 then s else s.stopUnit vf a
           s.modPart vf fun p => { p with stopped := a :: p.stopped }
         else s
       | _ => s)
    | _ => s)

/-- The host's operation on a partition ends when the partition has stopped (R394). -/
def State.endVfcmd (s : State) (vf : Nat) : State :=
  if s.host.vfbusy && s.host.vfop == vf then { s with host := { s.host with vfbusy := false } } else s

/-! ### The checkpoint (R392, R398) -/

/-- The checkpoint area's base as a physical address, when 385 GiB fit below 3072 GiB (R398). -/
def State.ckBase (s : State) : Option Nat :=
  let g := bits s.host.ckcfg.toNat 11 0
  if g + 385 ≤ 3072 then some (cisternBase + g * gib) else none

/-- Every store is visible everywhere. -/
def State.settleAll (s : State) : State := s.showIds (s.flights.map (·.id)) maskSys

/-- The images of the enabled partitions, one after the other, each on 64 bytes. -/
def State.ckImages (s : State) : List Byte :=
  ((upTo 0 16).filter s.vfEnabled).flatMap fun v =>
    let b := s.image v none
    b ++ List.replicate (alignUp b.length 64 - b.length) 0

/-- Write the checkpoint: all of HBM, then the images (R392). -/
def State.writeCheckpoint (s : State) (base : Nat) : State :=
  let s := s.settleAll
  let hbm := (s.mem.filter fun c => decide (c.1 < 384 * gib)).map fun c => (base + c.1, c.2)
  let kept := s.mem.filter fun c => decide (c.1 < base) || decide (base + 385 * gib ≤ c.1)
  { s with mem := Memory.writeAll kept (hbm ++ cellsAt (base + 384 * gib) s.ckImages) }

/-- A partition is stopped whole: a quiesce that leaves out a crew is not enough (R392). -/
def Part.stoppedNow (p : Part) : Bool :=
  match p.line with
  | .quiesced none => true
  | .halted => true
  | _ => false

/-- The checkpoint is written once every enabled partition has stopped. The partitions stay stopped, each until its RUN (the
model's choice, notes/assumptions/37.md). -/
def State.tryCheckpoint (s : State) : State :=
  if s.host.ckbusy && ((upTo 0 16).all fun v => !s.vfEnabled v || (s.part v).stoppedNow) then
    match s.ckBase with
    | some b => { s.writeCheckpoint b with host := { s.host with ckbusy := false } }
    | none => s
  else s

/-- CHECKPOINT (R392, R398): every partition is stopped, and the area is written when the last has stopped. -/
def execCheckpoint (s : State) : Out :=
  .next (
    if s.host.mode ≠ 1 ∨ s.ckBase.isNone = true then s
    else
      let s := { s with host := { s.host with ckbusy := true } }
      let s : State := ((upTo 0 16).filter s.vfEnabled).foldl (fun (st : State) v => st.raiseStop v none) s
      s.tryCheckpoint)

/-- The images of a checkpoint area, by VF: each says its VF and its length (R383). -/
def readImages (m : Memory) : Nat → Nat → NMap (List Byte) → NMap (List Byte)
  | 0, _, acc => acc
  | fuel + 1, a, acc =>
    let h := natOf ((upTo a 64).map m.read)
    let len := bits h 127 64
    if bits h 31 0 ≠ 0x45535043 ∨ len < 64 then acc
    else readImages m fuel (a + alignUp len 64) (acc.set (bits h 147 144) ((upTo a len).map m.read))

/-- RESTORE (R398): HBM is reloaded, and the images wait for the LOAD of their partitions. -/
def execRestore (s : State) : Out :=
  .next (
    match s.ckBase with
    | none => s
    | some base =>
      if s.host.mode ≠ 1 then s
      else
        let s := s.settleAll
        let hbm := (s.mem.filter fun c => decide (base ≤ c.1) && decide (c.1 < base + 384 * gib)).map fun c => (c.1 - base, c.2)
        let kept := s.mem.filter fun c => decide (384 * gib ≤ c.1)
        { s with mem := hbm ++ kept, host := { s.host with staged := readImages s.mem 16 (base + 384 * gib) [] } })

/-- PARTITION_HALTED (R351), of the partition that State.who names. -/
def execPartitionHalted (s : State) : Out :=
  .next (
    match s.who with
    | [vf] =>
      (match (s.part vf).line with
       | .stopping true _ _ =>
         if s.allStopped vf then
           let s := (s.modPart vf fun p => { p with line := .halted, rebuild := true }).endVfcmd vf
           (s.errVector vf (bits (s.part vf).haltrec.toNat 6 0) 0).tryCheckpoint
         else s
       | _ => s)
    | _ => s)

/-- PARTITION_QUIESCED (R374), of the partition that State.who names. -/
def execPartitionQuiesced (s : State) : Out :=
  .next (
    match s.who with
    | [vf] =>
      (match (s.part vf).line with
       | .stopping false _ e =>
         if s.allStopped vf then
           let s := s.modPart vf fun p => { p with line := .quiesced e }
           (if e.isNone then s.endVfcmd vf else s).tryCheckpoint
         else s
       | _ => s)
    | _ => s)

/-! ### QUIESCE and RESUME (R373 to R377) -/

/-- The causes that QUIESCE and RESUME share (R373): none in a task, only on a steward core. -/
def quiesceCause (k : Nat) (t : Thread) : Option Cause :=
  if t.inTask then some .taskIrrevocable else if !isSteward (coreOf k) then some .sysregBad else none

/-- The partition is quiesced. -/
def Part.isQuiesced (p : Part) : Bool := match p.line with | .quiesced _ => true | _ => false

/-- QUIESCE.STOP (R373, R374): the bundle is not ready until the partition is quiesced. -/
def execQuiesceStop (g : Guard) (s : State) : Out :=
  word (.quiesceStop g) s fun k t =>
    match quiesceCause k t with
    | some c => s.trap k c
    | none => if (s.part t.vf).isQuiesced then s.retire k else (s.raiseStop t.vf (some (t.crewKey k))).stall

/-- The partition is quiesced with no crew left out. -/
def Part.wholeQuiesced (p : Part) : Bool := p.line == .quiesced none

/-- What SAVE answers (R373, R382): a cause, or the state and the image length. A partition that had halted has then been saved
(R351). -/
def State.save (s : State) (vf : Nat) (ppa cap : Nat) : Except Cause (State × Nat) :=
  if !(s.part vf).isQuiesced then .error .sysregBad
  else if ppa % 64 ≠ 0 then .error .misaligned
  else if (s.imagePlace vf ppa 1).isNone then .error .levee
  else
    let img := s.image vf (s.part vf).line.excl
    if cap < img.length then .ok (s, img.length)
    else
      match s.imagePlace vf ppa img.length with
      | none => .error .levee
      | some p => .ok ((s.storeImage p img vf).modPart vf fun p => { p with rebuild := false }, img.length)

/-- QUIESCE.SAVE (R373, R382). -/
def execQuiesceSave (g : Guard) (d a b : Reg) (s : State) : Out :=
  word (.quiesceSave g d a b) s fun k t =>
    match quiesceCause k t with
    | some c => s.trap k c
    | none =>
      match s.save t.vf (t.pair a).toNat (t.pair b).toNat with
      | .error c => s.trap k c
      | .ok (s, n) => s.put2 k d (BitVec.ofNat 64 n)

/-- A thread parked at a SIGWAIT reads VALUE again before it goes on (R248, R374). -/
def Thread.waitAgain (t : Thread) : Thread :=
  match t.phase with
  | .parked (.signal _ _ _) _ => { t with passed := false }
  | _ => t

/-- RUN (R376): the threads are filed anew in this cycle, the parked ones stay parked unless their wait has ended, the line
falls. A partition that has halted runs again only once it has been saved or rebuilt (R351). -/
def State.runPartition (s : State) (vf : Nat) : State :=
  match (s.part vf).line with
  | .quiesced e =>
    if (s.part vf).rebuild then s
    else
    let ks := ((s.savedThreads vf e).filter fun x => match x.2.phase with | .parked _ _ => false | _ => true).map (·.1)
    let s : State := ks.foldl (fun (st : State) k => st.modThread k fun t => { t with phase := .active }) (s.unbundle ks)
    let s := s.fileAll s.fileTime ks
    let all := (s.savedThreads vf e).map (·.1)
    let s := all.foldl (fun (st : State) k => st.modThread k Thread.waitAgain) s
    let s := s.modPart vf fun p => { p with line := .running, stopped := [], everRun := true, events := [] }
    let s := s.restartCmds vf e
    all.foldl (fun (st : State) k => (st.serveGrants (coreOf k) (laneOf k) 512).wake k) s
  | _ => s

/-- RESUME.RUN (R376): no effect on a partition that is not quiesced. -/
def execResumeRun (g : Guard) (s : State) : Out :=
  word (.resumeRun g) s fun k t =>
    match quiesceCause k t with
    | some c => s.trap k c
    | none => (s.runPartition t.vf).retire k

/-- What LOAD answers (R377): a cause, or the state. -/
def State.load (s : State) (vf : Nat) (excl : Option Nat) (ppa : Nat) : Except Cause State :=
  if !s.loadable vf then .error .sysregBad
  else if ppa % 64 ≠ 0 then .error .misaligned
  else if (s.imagePlace vf ppa 64).isNone then .error .levee
  else
    match (s.readImage vf ppa).bind (s.loadImage vf excl) with
    | none => .error .imageBad
    | some s => .ok s

/-- RESUME.LOAD (R377). -/
def execResumeLoad (g : Guard) (a : Reg) (s : State) : Out :=
  word (.resumeLoad g a) s fun k t =>
    match quiesceCause k t with
    | some c => s.trap k c
    | none =>
      match s.load t.vf (some (t.crewKey k)) (t.pair a).toNat with
      | .error c => s.trap k c
      | .ok s => s.retire k

/-! ### VFCMD (R394) -/

/-- The result of a host operation: VFRES (R394). -/
def State.vfResult (s : State) (cause len : Nat) : State :=
  { s with host := { s.host with vfbusy := false, vfcause := cause, vflen := len } }

/-- VFCMD is accepted: no operation is under way, the device runs, the VF is enabled (R394, R398). -/
def State.vfcmdOk (s : State) (vf : Nat) : Bool := !s.host.vfbusy && s.host.mode == 1 && s.vfEnabled vf

/-- VFCMD_STOP (R374, R394): VFRES.BUSY until the partition is quiesced. -/
def execVfcmdStop (vf : BitVec 4) (s : State) : Out :=
  .next (
    let v := vf.toNat
    if !s.vfcmdOk v then s
    else if (s.part v).wholeQuiesced then s.vfResult 0 0
    else { (s.raiseStop v none) with host := { s.host with vfbusy := true, vfop := v, vfcause := 0, vflen := 0 } })

/-- VFCMD_RUN (R376, R394). -/
def execVfcmdRun (vf : BitVec 4) (s : State) : Out :=
  .next (if !s.vfcmdOk vf.toNat then s else (s.runPartition vf.toNat).vfResult 0 0)

/-- VFCMD_SAVE (R382, R394): with no crew left out, so a crew that a quiesce left out must have stopped too. -/
def execVfcmdSave (vf : BitVec 4) (s : State) : Out :=
  .next (
    if !s.vfcmdOk vf.toNat then s
    else if !(s.part vf.toNat).wholeQuiesced then s.vfResult Cause.sysregBad.code 0
    else
      match s.save vf.toNat s.host.vfimg.toNat s.host.vfimgcap.toNat with
      | .error c => s.vfResult c.code 0
      | .ok (s, n) => s.vfResult 0 n)

/-- VFCMD_LOAD (R377, R394): of the image that a RESTORE has reloaded for the VF, else of the one at VFIMG. -/
def execVfcmdLoad (vf : BitVec 4) (s : State) : Out :=
  .next (
    let v := vf.toNat
    if !s.vfcmdOk v then s
    else
      match s.host.staged.find? v with
      | some bs =>
        (match s.loadImage v none bs with
         | some s => ({ s with host := { s.host with staged := s.host.staged.erase v } }).vfResult 0 0
         | none => s.vfResult Cause.imageBad.code 0)
      | none =>
        match s.load v none s.host.vfimg.toNat with
        | .error c => s.vfResult c.code 0
        | .ok s => s.vfResult 0 0)

/-! ### Timeouts (R352, R357) -/

/-- The bound of an agent, counted from the cycle in which the line rises: a load waits for its completion, or for the timeout of
host and peer memory (R352, R375, R393, R396). -/
def State.stopBound (s : State) (a : Nat) : Nat :=
  256 + (if a < 400000 then
      16 + (match s.thread? a with
        | some t => if t.outs.any fun o => o.target == 1 then 2 ^ 24 else if t.outs.any fun o => o.target == 2 then 2 ^ 22 else 16384
        | none => 0)
    else if a < 500000 then 128
    else if a < agentUnit 256 then 4096
    else if a < agentUnit 289 then 64
    else if a = agentUnit 289 then 65536
    else 1024)

/-- The unit of an agent in the list of fenced units; a thread has none. -/
def unitOfAgent (a : Nat) : List Nat := if a < 400000 then [] else if a < 500000 then [matrixUnit (a - 400000)] else [a - 500000]

/-- The core that HALTREC names for a unit (R351): a die's unit serves the cores that issue to it, and the core of its first command
is named; a hub engine has none. -/
def State.agentCore (s : State) (vf code : Nat) : Nat :=
  if code < 256 then code
  else if code < 288 then
    (match s.cmds.find? fun c => c.vf == vf && c.unit.code == code with | some c => coreOf c.thr | none => 0xFF)
  else 0xFF

/-- QUIESCE_TIMEOUT (R352), of the partition and the agent that State.who names: the unit is fenced, the cause is recorded with
the agent's record, and the partition halts. -/
def execQuiesceTimeout (s : State) : Out :=
  .next (
    match s.who with
    | [vf, a] =>
      (match (s.part vf).line with
       | .stopping _ since _ =>
         if (s.agents vf).contains a && !(s.part vf).stopped.contains a && decide (since + s.stopBound a < s.now) then
           let s := { s with fenced := unitOfAgent a ++ s.fenced }
           let (core, lane, slot) := if a < 400000 then (coreOf a, laneOf a, slotOf a) else if a < 500000 then (a - 400000, 0, 0)
             else (s.agentCore vf (a - 500000), 0, 0)
           (s.haltLine vf a .quiesceTimeout false core lane slot 0).modPart vf fun p => { p with stopped := a :: p.stopped }
         else s
       | _ => s)
    | _ => s)

/-- ENGINE_TIMEOUT (R357), of the command that State.who names: no progress in 2^24 cycles, the wait behind an
earlier command of its unit apart (R21). -/
def execEngineTimeout (s : State) : Out :=
  .next (
    match s.who with
    | [id] =>
      (match s.cmd? id with
       | some c =>
         if decide (c.moved + 2 ^ 24 ≤ s.now) && c.fault.isNone && s.mayRun c.vf c.crew && !s.behind c then
           let core := match c.unit with | .sluice n => n | .weir _ | .confluence _ => coreOf c.thr | _ => 0xFF
           s.haltLine c.vf (agentUnit c.unit.code) .engineTimeout false core (laneOf c.thr) (slotOf c.thr) (c.op 0).toNat
         else s
       | none => s)
    | _ => s)

/-- WATCHDOG (R357), of the thread that State.who names: privileged for 2^32 cycles without a RETT. -/
def execWatchdog (s : State) : Out :=
  .next (
    match s.who with
    | [k] =>
      (match s.thread? k with
       | some t => if t.priv && decide (t.privSince + 2 ^ 32 ≤ s.now) && s.mayRun t.vf (t.crewKey k) then (s.unbundle [k]).trap k .watchdog else s
       | none => s)
    | _ => s)

end Sys2Proof.Machine
end

