-- ==== Sys2Proof/Machine/Furrows.lean ====
section
/-!
DEFINITION. Furrows, bundles and waits (spec/02_threads_furrows_crews.md R24 to R33): the formation of a bundle, what
becomes of a bundle when its word is issued, the end of a park (R33), the re-read of a SIGWAIT (R248), and the three slow
ends of an instruction: a long-latency result (R150), a store that leaves its queue (R124) and a store that becomes visible
(R121).
-/
namespace Sys2Proof.Machine

/-! ### Formation (R28, R29) -/

/-- The filed threads of a lane group whose partition runs, but for those filed in this cycle: they take their furrows
together, and a later cycle takes them into a bundle (R27, R29, and the worked divergence). -/
def State.filedThreads (s : State) (core lg : Nat) : NMap Thread :=
  (s.lgThreads core lg).filter fun x =>
    x.2.filed?.isSome && decide (x.2.since < s.now) && s.mayRun x.2.vf (x.2.crewKey x.1)

/-- The order of R28: filing time, then core lane, then thread slot. -/
def ageKey (x : Nat × Thread) : Nat := x.2.ftime * 2048 + x.1 % 2048

/-- AGE_LIMIT of a core (R31). -/
def State.ageLimit (s : State) (core : Nat) : Nat := (s.coreRegs core).furcfg.toNat % 8192

/-- The lanes of a lane group (R13). -/
def lgLanes (core : Nat) : Nat := if isSteward core then 1 else 32

/-- The furrow holds a thread on every lane, or its oldest thread is AGE_LIMIT cycles old (R29). -/
def State.furrowReady (s : State) (core : Nat) (ts : NMap Thread) (f : Nat) : Bool :=
  let mine := ts.filter fun x => x.2.filed? == some f
  decide (((mine.map fun x => laneOf x.1).eraseDups).length = lgLanes core) ||
    mine.any fun x => decide (x.2.ftime + s.ageLimit core ≤ s.fileTime)

/-- The thread whose furrow supplies the next bundle (R29): the oldest of the eligible furrows, or of all. -/
def State.formHead (s : State) (core lg : Nat) : Option (Nat × Thread) :=
  let ts := s.filedThreads core lg
  let ok := ts.filter fun x => (x.2.filed?.map (s.furrowReady core ts)).getD false
  minBy? ageKey (if ok.isEmpty then ts else ok)

/-- The members of the bundle that a thread heads (R29): of its furrow, crew and PC, the oldest on each lane, by lane. -/
def State.formMembers (s : State) (core lg : Nat) (h : Nat × Thread) : List Nat :=
  let ts := (s.filedThreads core lg).filter fun x => x.2.filed? == h.2.filed? && x.2.crew == h.2.crew && x.2.pc == h.2.pc
  let lanes := (ts.map fun x => laneOf x.1).eraseDups
  lanes.filterMap fun l => (minBy? ageKey (ts.filter fun x => laneOf x.1 == l)).map (·.1)

/-- The lane group has formed a bundle in this cycle. -/
def State.formedNow (s : State) (core lg : Nat) : Bool :=
  (s.lg (core * 4 + lg)).rotation.any fun b => b.formed == s.now

/-- BUNDLE_FORM (R29), of the core and lane group that State.who names. -/
def execBundleForm (s : State) : Out :=
  .next (
    match s.who with
    | [core, lg] =>
      if s.formedNow core lg then s
      else
        (match s.formHead core lg with
         | none => s
         | some h =>
           let ks := s.formMembers core lg h
           let s := ks.foldl (fun (st : State) k => st.modThread k fun t => { t with phase := .active }) s
           s.modLg (core * 4 + lg) fun l =>
             { l with rotation := l.rotation ++
                 [{ core := core, lgrp := lg, members := ks, todo := ks, formed := s.now, dissolve := false, stalled := false
                    replay := none, uniform := false }] })
    | _ => s)

/-- A bundle that was passed over may be chosen again (R30). -/
def Bundle.retry (b : Bundle) : Bundle := { b with stalled := false }

/-- Cycles pass, and the bundles that were passed over may be chosen again (R30). -/
def State.tick (s : State) (n : Nat) : State :=
  if n = 0 then s
  else { s.pass n with lgs := s.lgs.mapKV fun _ l => { l with rotation := l.rotation.map Bundle.retry } }

/-- AGE_LIMIT_EXPIRY (R29), of the core, lane group and furrow that State.who names: the cycles that are left until its
oldest thread reaches AGE_LIMIT pass, and the furrow is eligible. -/
def execAgeLimitExpiry (s : State) : Out :=
  .next (
    match s.who with
    | [core, lg, f] =>
      (match minBy? ageKey ((s.filedThreads core lg).filter fun x => x.2.filed? == some f) with
       | some x => s.tick (x.2.ftime + s.ageLimit core - s.fileTime)
       | none => s)
    | _ => s)

/-! ### The rotation (R30) -/

/-- A bundle can be chosen to issue: it was formed in an earlier cycle, has not been passed over in this one, and its
partition runs. -/
def State.pickable (s : State) (b : Bundle) : Bool :=
  !b.stalled && decide (b.formed < s.now) &&
    b.members.all fun k => match s.thread? k with | some t => s.mayRun t.vf (t.crewKey k) | none => false

/-- A bundle enters a rotation after the bundles that stand before it and cannot be chosen. -/
def State.putBack (s : State) (b : Bundle) : List Bundle → List Bundle
  | [] => [b]
  | x :: xs => if s.pickable x then b :: x :: xs else x :: s.putBack b xs

/-- A bundle that is not ready keeps its place in the rotation (R30). When some of its members have issued the word and the
others wait for room in a unit (R221), the lane group has issued in this cycle. -/
def State.passOver (s : State) (b : Bundle) : State :=
  let s := { s with issue := none }
  let s := if b.begun then s.modLg (b.core * 4 + b.lgrp) fun l => { l with lastIssue := s.now } else s
  if b.members.isEmpty then b.clash.foldl (fun (st : State) k => st.drainAll k) s
  else s.modLg (b.core * 4 + b.lgrp) fun l => { l with rotation := s.putBack { b with stalled := true } l.rotation }

/-! ### The end of a word (R26, R139, R152) -/

/-- The clause that a thread holds, when it is the one its PC lies in. -/
def Thread.holds? (t : Thread) : Option (Header × List DWord) :=
  match t.code with
  | some (cb, h, ws) => if cb = t.cb ∧ t.pc ≠ t.cb then some (h, ws) else none
  | none => none

/-- A thread that has issued the last word of its clause and fallen through stands at the next clause's header (R139). -/
def State.fallThrough (s : State) (k : Nat) : State :=
  match s.thread? k with
  | none => s
  | some t =>
    match t.holds? with
    | some (h, _) => if t.pc = h.next t.cb then s.setThread k { t with cb := t.pc, wins := t.endWins } else s
    | none => s

/-- The next PC of a thread. -/
def State.pcOf (s : State) (k : Nat) : DWord := match s.thread? k with | some t => t.pc | none => 0

/-- The members of a bundle disagree on the next PC (R26). Members that differ in direction at a UNIFORM branch whose target
is the fall-through header have one next PC: they do not disagree, and R152's count does not rise (DESIGN CHOICE,
notes/assumptions/8.md). -/
def State.disagree (s : State) (ks : List Nat) : Bool :=
  match ks with
  | [] => false
  | k :: r => r.any fun j => s.pcOf j != s.pcOf k

/-- The bundle has issued its word: at a reform point its members are filed, else it goes to the back of its rotation with
the next word (R26, R30); stores of the word that meet leave their queues, in order of lane (R113); a UNIFORM branch at which they
disagree is counted (R152). -/
def State.finishWord (s : State) (b : Bundle) : State :=
  let s := b.members.foldl (fun (st : State) k => st.fallThrough k) { s with issue := none }
  let s := b.clash.foldl (fun (st : State) k => st.drainAll k) s
  let split := s.disagree b.members
  let s :=
    if b.uniform && split then
      let r := s.coreRegs b.core
      { s with cores := s.cores.set b.core { r with uniformMiss := r.uniformMiss + 1 } }
    else s
  let s := s.modLg (b.core * 4 + b.lgrp) fun l => { l with lastIssue := s.now }
  if b.dissolve || split then s.fileAll s.fileTime b.members
  else if b.members.isEmpty then s
  else
    let next : Bundle := { b with todo := b.members, stalled := false, uniform := false, begun := false, stored := [], clash := [] }
    s.modLg (b.core * 4 + b.lgrp) fun l => { l with rotation := l.rotation ++ [next] }

/-! ### The end of a park (R33) -/

/-- PARK_END (R33), of the thread that State.who names: a wait that ends in the cycle of the park is filed in a later one. A declined oldest entry is
delivered instead (R350), an imprecise cause where what is waited for may never come (R223), and a clause fetch that was declined takes
its cause (R142). -/
def execParkEnd (s : State) : Out :=
  .next (
    match s.who with
    | [k] =>
      (match s.thread? k with
       | some t =>
         if !s.mayRun t.vf (t.crewKey k) || decide (t.since = s.now) then s
         else if t.declined then s.declineHead k
         else if !t.imps.isEmpty && t.interruptible then s.deliverImp k
         else
           (match t.phase, t.fetchDecl with
            | .parked .fault _, some (c, va) => (s.modThread k fun t => { t with fetchDecl := none }).fetchTrap k t.cb c va
            | .parked why order, _ => if s.waitOver k t why then s.endPark k t why order else s
            | _, _ => s)
       | none => s)
    | _ => s)

/-- SIGWAIT_REREAD (R248), of the thread that State.who names: a condition that holds ends its park. -/
def execSigwaitReread (s : State) : Out :=
  .next (
    match s.who with
    | [k] =>
      (match s.thread? k with
       | some t =>
         (match t.phase with
          | .parked (.signal va c x) _ =>
            if s.mayRun t.vf (t.crewKey k) && s.signalHolds k t va c x then s.modThread k fun t => { t with passed := true }
            else s
          | _ => s)
       | none => s)
    | _ => s)

/-! ### Slow ends -/

/-- The outstanding results of a thread that no matrix operation supplies. -/
def Thread.slow (t : Thread) : List Outst := t.outs.filter fun o => o.mat.isNone

/-- The list without the nth element that satisfies a condition. -/
def dropNth {α : Type} (p : α → Bool) : Nat → List α → List α
  | _, [] => []
  | n, x :: xs => if p x then (match n with | 0 => xs | n + 1 => x :: dropNth p n xs) else x :: dropNth p n xs

/-- The nth slow result of a thread reaches its destinations, and its flags FSTAT (R150, R178). -/
def Thread.complete (t : Thread) (n : Nat) : Thread :=
  match t.slow[n]? with
  | some o =>
    { (((o.dests.zip o.vals).filter fun x => !o.dead.contains x.1).foldl (fun (t : Thread) x => t.setReg x.1 x.2)
        (t.orFlags o.flags)) with outs := dropNth (fun o => o.mat.isNone) n t.outs }
  | none => t

/-- LONG_LATENCY_COMPLETE (R150), of the thread and the result that State.who names. -/
def execLongLatencyComplete (s : State) : Out :=
  .next (match s.who with | [k, n] => s.modThread k fun t => t.complete n | _ => s)

/-- The thread has stored in a word that other members of its bundle have still to issue: a higher lane may store to the same
bytes (R113). -/
def State.midStore (s : State) (k : Nat) : Bool :=
  (s.lg (coreOf k * 4 + lgrpOf k)).rotation.any fun b => b.stored.contains k

/-- STORE_QUEUE_DRAIN (R124), of the thread that State.who names. -/
def execStoreQueueDrain (s : State) : Out :=
  .next (match s.who with | [k] => if s.midStore k then s else s.drainStore k | _ => s)

/-- STORE_PROPAGATION (R121), of the store and the agents that State.who names, as a number and a mask. -/
def execStorePropagation (s : State) : Out :=
  .next (match s.who with | [id, mask] => s.showIds [id] (mask % 2 ^ 297) | _ => s)

end Sys2Proof.Machine
end

