-- ==== Sys2Proof/Machine/Host.lean ====
section
/-!
DEFINITION. What the host, the peers, the board and system software do to the machine (spec/24_host_link_management.md R393
to R399; spec/22_partitions_translation.md R358; spec/21_privileged_state_traps.md R354; spec/02_threads_furrows_crews.md R34):
the registers of PF BAR0, pushes and writes of the host, peer requests, link and unit errors, start-up, and the launch of a
crew.
-/
namespace Sys2Proof.Machine

/-! ### Registers of PF BAR0 (R394) -/

/-- The state with the host's registers changed. -/
def State.modHost (s : State) (f : HostRegs → HostRegs) : State := { s with host := f s.host }
/-- The state with the SMC changed. -/
def State.modSmc (s : State) (f : Smc → Smc) : State := { s with smc := f s.smc }

/-- DEVID (R394): 0x0B12, and above it the silicon revision and the serial, which are a device's own (notes/assumptions/4.md). -/
def devid : DWord := Config.devidHigh ++ 0x0B12#16

/-- HGCFG (R76): STARVE_LIMIT in bits 15:0, the others reserved (R5); a write of 0 stores 1. -/
def execHgcfgWrite (val : Word) (s : State) : Out :=
  let v := val &&& 0xFFFF
  .next { s with hg := { s.hg with hgcfg := if v = 0 then 1 else v } }

/-- POOLCFG (R394): only while VFEN is 0; bits 39:37 are reserved (R5). The blocks of the new pool are free (R366). R366 puts the
pool outside every carve-out, and names no check: none is made here or when a VF is enabled (the model's choice,
notes/assumptions/45.md). -/
def execPoolcfgWrite (val : DWord) (s : State) : Out :=
  .next (if s.host.vfen = 0 then { s.modHost fun h => { h with poolcfg := val &&& 0xFFFFFF1FFFFFFFFF } with pool := [] } else s)

/-- VECCFG and VECCFG2 (R394): only while VFEN is 0. -/
def execVeccfgWrite (high : Bool) (val : DWord) (s : State) : Out :=
  .next (
    if s.host.vfen = 0 then s.modHost fun h => if high then { h with veccfg2 := val } else { h with veccfg := val } else s)

/-- A Prejor window register: its VF × 64 + window, and whether it is the upper half (R394). -/
def windowAt (offset : Nat) : Option (Nat × Bool) :=
  if 0x10000 ≤ offset ∧ offset < 0x14000 ∧ offset % 8 = 0 then some ((offset - 0x10000) / 16, offset % 16 == 8) else none

/-- A window register with one of its halves written: bits 31:25 and 127:120 are reserved (R5, R396). -/
def putHalf (x : BitVec 128) (high : Bool) (v : DWord) : BitVec 128 :=
  if high then (v &&& 0x00FFFFFFFFFFFFFF) ++ x.setWidth 64 else (x >>> 64).setWidth 64 ++ (v &&& 0xFFFFFFFF01FFFFFF)

/-- QCFG with PART written (R55, R368). -/
def putPart (x : DWord) (p : Nat) : DWord := (x &&& ~~~(0xF00#64)) ||| BitVec.ofNat 64 (p % 16 * 256)

/-- REGISTER_WRITE (R6, R394): the registers whose write only stores: CKCFG, VFIMG and its capacity, DLOGSEL, the Prejor
windows; PART of a queue and SMCMASK of a VF, which the host sets through the PF (R347, R368) at places of the model's own
(notes/assumptions/12.md); PART is not written while the queue is enabled or holds entries, so that none of them goes to another
partition (the model's choice, notes/assumptions/33.md). A read-only or absent register keeps its value. -/
def execRegisterWrite (offset : Nat) (val : DWord) (s : State) : Out :=
  .next (
    if offset = 0x20 then s.modHost fun h => { h with ckcfg := val.setWidth 32 &&& 0xFFF }
    else if offset = 0x58 then s.modHost fun h => { h with vfimg := val }
    else if offset = 0x60 then s.modHost fun h => { h with vfimgcap := val }
    else if offset = 0x68 then s.modHost fun h => { h with dlogsel := val &&& ~~~(0xF0#64) }
    else if 0x2000 ≤ offset ∧ offset < 0x2400 ∧ offset % 4 = 0 then
      let q := (offset - 0x2000) / 4
      if (s.queue q).en || (s.queue q).holds != 0 then s else s.modQueue q fun x => { x with qcfg := putPart x.qcfg val.toNat }
    else if 0x3000 ≤ offset ∧ offset < 0x3040 ∧ offset % 4 = 0 then
      s.modPart ((offset - 0x3000) / 4) fun p => { p with smcmask := loWord val }
    else
      match windowAt offset with
      | some (n, high) => s.modHost fun h => { h with pwin := h.pwin.set n (putHalf (h.pwin.getD n 0) high val) }
      | none => s)

/-- The partition's descriptor may be written whole: it is halted or has never run (R358). -/
def Part.idle (p : Part) : Bool := !p.everRun || p.line == .halted

/-- A 256-bit descriptor with one 64-bit word written. -/
def putWord (x : BitVec 256) (n : Nat) (v : DWord) : BitVec 256 :=
  BitVec.ofNat 256 (x.toNat - bits x.toNat (64 * n + 63) (64 * n) * 2 ^ (64 * n) + v.toNat * 2 ^ (64 * n))

/-- The bits of each word of a descriptor that are not reserved (R5, R358). -/
def pdescBits : Nat → DWord
  | 0 => 0xFFFFFFFFFFFFFFFF
  | 1 => 0x000003FFFFFFFFFF
  | 2 => 0x000001FFFFFFFFFF
  | _ => 0

/-- Two carve-outs, by base and size, share a GiB. -/
def rangesMeet (a n b m : Nat) : Bool := decide (a < b + m) && decide (b < a + n) && decide (0 < n) && decide (0 < m)

/-- Two descriptors break the rule of R358. -/
def Part.clash (p q : Part) : Bool :=
  p.quads &&& q.quads != 0 || p.stews &&& q.stews != 0 || rangesMeet p.hbase p.hsize q.hbase q.hsize ||
    rangesMeet p.cbase p.csize q.cbase q.csize

/-- A VF still has threads on its cores, or commands in flight: it keeps its cores and carve-outs although it may be disabled (R21;
notes/assumptions/33.md). -/
def State.occupied (s : State) (vf : Nat) : Bool := (s.threads.any fun x => x.2.vf == vf) || s.cmds.any fun c => c.vf == vf

/-- A VF's descriptor and vectors allow it to be enabled beside a set of VFs (R358, R394), and beside those that are still occupied. -/
def State.mayEnable (s : State) (on : List Nat) (vf : Nat) : Bool :=
  let p := s.part vf
  !((on ++ (upTo 0 16).filter s.occupied).any fun v => v != vf && p.clash (s.part v)) && decide (p.hbase + p.hsize ≤ 384) && decide (p.cbase + p.csize ≤ 3072) &&
    decide ((on.foldl (fun n v => n + s.vectors v) 0) + s.vectors vf ≤ 2048)

/-- The VFs that are enabled. -/
def State.enabled (s : State) : List Nat := (upTo 0 16).filter s.vfEnabled

/-- A descriptor with its words written stays within the rule of R358: that of an enabled or occupied VF meets it again at each
write, and leaves no thread of it on a core that it no longer has, so that no two partitions hold a core or a byte in common (R21;
notes/assumptions/33.md). -/
def State.pdescStays (s : State) (vf : Nat) (s' : State) : State :=
  let bad := (s.vfEnabled vf || s.occupied vf) && !s'.mayEnable (s.enabled.filter fun v => v != vf) vf
  let astray := s.threads.any fun x => x.2.vf == vf && !(s'.part vf).hasCore (coreOf x.1)
  if bad || astray then s else s'

/-- PDESC_WRITE (R358): a descriptor is written while its partition is halted or has never run; QUOTA at any time. -/
def execPdescWrite (vf : Nat) (word : BitVec 2) (val : DWord) (s : State) : Out :=
  .next (
    if 16 ≤ vf then s
    else if (s.part vf).idle then
      s.pdescStays vf (s.modPart vf fun p => { p with desc := putWord p.desc word.toNat (val &&& pdescBits word.toNat) })
    else if word = 2 then
      s.modPart vf fun p => { p with desc := putWord p.desc 2 (hiWord (BitVec.ofNat 64 (bits p.desc.toNat 191 128)) ++ loWord val) }
    else s)

/-- VFEN_WRITE (R394, R398): VFs are enabled in order, each only if it may be; in MODE 2 or while starting it has no
effect. The dirty bitmap of a VF is zero when it is enabled (R379). -/
def execVfenWrite (val : Word) (s : State) : Out :=
  .next (
    if s.host.mode ≠ 1 then s
    else
      let kept := (upTo 0 16).filter fun v => s.host.vfen.getLsbD v && val.getLsbD v
      let on := ((upTo 0 16).filter fun v => val.getLsbD v && !s.host.vfen.getLsbD v).foldl
        (fun (l : List Nat) v => if s.mayEnable l v then l ++ [v] else l) kept
      let fresh := on.filter fun v => !s.host.vfen.getLsbD v
      let s : State := fresh.foldl (fun (st : State) v => st.modPart v fun p => { p with dirty := [] }) s
      s.modHost fun h => { h with vfen := BitVec.ofNat 32 (on.foldl (fun n v => n + 2 ^ v) 0) })

/-- DLOGDATA_READ (R381, R394): a word of the selected VF's bitmap is read and cleared, and the word index goes on. -/
def execDlogdataRead (s : State) : Out :=
  let vf := bits s.host.dlogsel.toNat 3 0
  let w := bits s.host.dlogsel.toNat 63 8
  let x := if ceilDiv (s.dirtyBits vf) 64 ≤ w then 0 else s.dirtyWord vf w
  .next ((s.clearDirty vf w).modHost fun h =>
    { h with dlogsel := BitVec.ofNat 64 (vf + (w + 1) % 2 ^ 56 * 256), reads := x :: h.reads })

/-! ### Sealed memory, for agents that use no tables (R114) -/

/-- The indices of a table's entries that are not all zero: an entry of zero bytes is not present. -/
def State.entriesAt (s : State) (key n : Nat) : List Nat :=
  let inTable (a : Nat) : Option Nat := if key ≤ a ∧ a < key + 8 * n then some ((a - key) / 8) else none
  (s.mem.filterMap (fun c => inTable c.1) ++ s.flights.flatMap fun f => f.bytes.filterMap fun c => inTable c.1).eraseDups

/-- A sealed leaf below a table of a partition holds a physical address in its page or in one of its replicas. -/
def State.sealedBelow (s : State) (vf key : Nat) : List Level → Nat → Bool
  | [], _ => false
  | l :: ls, table =>
    match s.place vf table with
    | .error _ => false
    | .ok p =>
      (s.entriesAt p.key (2 ^ l.width)).any fun i =>
        let e := natOf (s.readBytes agHost (p.key + 8 * i) 8)
        if !e.testBit 0 then false
        else if e.testBit 1 then
          !leafBad l e && e.testBit 5 &&
            (upTo 0 (bits e 12 11 + 1)).any fun r =>
              match s.place vf (bits e 55 16 * 65536 + r * (s.part vf).rstride * gib) with
              | .ok q => decide (q.key ≤ key) && decide (key < q.key + 2 ^ l.sh)
              | .error _ => false
        else !tableBad l e && s.sealedBelow vf key ls (bits e 55 8 * 256)

/-- The physical address is sealed in a partition: by a leaf of its tables, or by its pool block (R114, R366). -/
def State.sealedPhys (s : State) (vf key : Nat) : Bool :=
  s.sealedBelow vf key levels ((s.part vf).ptroot.toNat / 65536 % 2 ^ 40 * 65536) ||
    (decide (s.poolBase ≤ key) && decide (key < s.poolBase + s.poolCount * s.poolBlock) &&
      (s.poolTag ((key - s.poolBase) / s.poolBlock)).sealed)

/-! ### Host writes and pushes (R380, R394, R395) -/

/-- An atomic of the host or of a peer in device memory (R393, R396): n bytes, indivisible at dev scope; the old value goes back. -/
def State.outerAtom (s : State) (w : Writer) (ag vf key n : Nat) (op : AtomOp) (b c : Nat) : State :=
  let m := maskDev ||| 2 ^ ag
  let old := natOf (s.readAtom ag m key n)
  let s := s.modHost fun h => { h with reads := BitVec.ofNat 64 old :: h.reads }
  if op == .cas && old != c then s.seeAtoms ag m key n
  else s.writeAtom w ag m (cellsAt key (bytesOf (atomNew op (8 * n) old b c) n)) [] vf

/-- The bytes that a host access of this data touches: a CAS has two operands. -/
def State.hostBytes (s : State) (data : List Byte) : Nat := if s.who = [3] then data.length / 2 else data.length

/-- What the host asks of a place in a carve-out (R393, R394): a write, or one of the AtomicOps FetchAdd, Swap and CAS, whose
operands are the data, CAS's comparand first. State.who names an AtomicOp by 1, 2 or 3; its operands are 4 or 8 bytes each, aligned to
that size (notes/assumptions/12.md). -/
def State.hostAccess (s : State) (vf key : Nat) (data : List Byte) : State :=
  let half := data.length / 2
  let fits (n : Nat) : Bool := (n == 4 || n == 8) && key % n == 0
  match s.who with
  | [1] => if fits data.length then s.outerAtom .host agHost vf key data.length .add (natOf data) 0 else s
  | [2] => if fits data.length then s.outerAtom .host agHost vf key data.length .xchg (natOf data) 0 else s
  | [3] =>
    if fits half && data.length % 2 == 0 then
      s.outerAtom .host agHost vf key half .cas (natOf (data.drop half)) (natOf (data.take half))
    else s
  | _ => s.storeAt .host (2 ^ agHost) (cellsAt key data) [] none vf

/-- HOST_WRITE (R114, R380, R393, R394): a write or an AtomicOp through VF BAR2 in the carve-out; one that touches sealed memory is
discarded and reported. -/
def execHostWrite (vf : Nat) (offset : DWord) (data : List (BitVec 8)) (s : State) : Out :=
  .next (
    let p := s.part vf
    if 16 ≤ vf ∨ s.vfEnabled vf = false ∨ p.hsize * gib < offset.toNat + s.hostBytes data then s
    else
      let key := p.hbase * gib + offset.toNat
      if (upTo key (s.hostBytes data)).any fun a => s.sealedPhys vf a then s.errVector vf Cause.sealed.code offset
      else s.hostAccess vf key data)

/-- The code by which a dropped push is reported on the error vector: no cause of R357. -/
def hostDropCode : Nat := 0x100

/-- A push is discarded (R395): the queue's owner learns of it when the VF owns the queue. -/
def State.dropPush (s : State) (vf q : Nat) : State :=
  let s := if q < 256 ∧ (s.queue q).vf = vf then s.modQueue q fun x => { x with hostdrop := true } else s
  s.errVector vf hostDropCode (BitVec.ofNat 64 q)

/-- The queue can take a host push of its partition now: a stopped partition's queue only on chip (R374, R395). -/
def State.pushAllowed (s : State) (vf q : Nat) : Bool :=
  let x := s.queue q
  x.en && (match (s.part vf).line with
    | .running => true
    | .halted => false
    | _ => x.spcnt == 0 && decide (x.ents.length < 64))

/-- HOST_PUSH (R56, R395): 32 bytes at a push port, after the host's earlier writes (R136). DEPTH is 0 and PARENT none. -/
def execHostPush (vf : Nat) (offset : Nat) (data : List (BitVec 8)) (s : State) : Out :=
  .next (
    if 16 ≤ vf ∨ s.vfEnabled vf = false ∨ 8192 ≤ offset then s
    else
      let q := offset / 32
      if data.length ≠ 32 ∨ offset % 32 ≠ 0 ∨ (s.queue q).vf ≠ vf ∨ s.pushAllowed vf q = false then s.dropPush vf q
      else
        let s := s.showWriter .host maskDev
        match s.pushNew q ((Entry.ofWords (wordsOf data)).pushedBy 0 noTask) with
        | .pushed s => s
        | _ => s.dropPush vf q)

/-! ### Peers (R396, R199) -/

/-- A remote exact add (R90, R396): data bytes 0 to 15 hold the contribution, 16 and 17 its anchor, 18 its flags; `desc` is the
place of the descriptor. -/
def State.peerXadd (s : State) (vf : Nat) (el dl : Place) (eva dva : Nat) (data : List Byte) : State :=
  let loc (p : Place) : Loc :=
    { key := p.key, tgt := p.tgt, sealed := p.poolSealed, elem := 0, geom := 0, ports := 0
      ent := { vf := vf, core := hubCore, va := 0, size := 0, leaf := 0, pte := 0 } }
  (s.exactAdd .peer agPeer (maskDev ||| 2 ^ agPeer) vf (loc el) (loc dl) eva dva (signedOf 128 (fieldAt data 0 16))
    (signedOf 16 (fieldAt data 16 2)) (BitVec.ofNat 4 (fieldAt data 18 1)) []).1

/-- A peer's write may be made (R114, R396). -/
def State.peerSealed (s : State) (vf : Nat) (p : Place) (n : Nat) : Bool :=
  p.poolSealed || (upTo p.key n).any fun a => s.sealedPhys vf a

/-- PEER_REQUEST (R396): a remote load (kind 0, as many bytes as `data` holds), store (1), atomic (2, the operand in `data`, CAS's
comparand in `data2`) or XADD (3, the descriptor's PPA in `data2`) at a PPA of a partition. The levee refuses what lies outside;
a write to sealed memory is discarded and reported; results go back to the peer. -/
def execPeerRequest (vf : Nat) (addr : DWord) (kind : BitVec 3) (op : AtomOp) (w64 : Bool) (data : List (BitVec 8))
    (data2 : DWord) (s : State) : Out :=
  .next (
    if 16 ≤ vf ∨ s.vfEnabled vf = false then s
    else
      match s.place vf addr.toNat with
      | .error _ => s
      | .ok p =>
        if 3 ≤ p.tgt then s
        else
          let m := maskDev ||| 2 ^ agPeer
          match kind.toNat with
          | 0 =>
            let bs := s.readBytes agPeer p.key data.length
            let ws : List DWord := (upTo 0 (ceilDiv bs.length 8)).map fun i => BitVec.ofNat 64 (fieldAt bs (8 * i) 8)
            s.modHost fun h => { h with reads := ws.reverse ++ h.reads }
          | 1 =>
            if s.peerSealed vf p data.length then s.errVector vf Cause.sealed.code addr
            else s.storeAt .peer m (cellsAt p.key data) [] none vf
          | 2 =>
            let n := if w64 then 8 else 4
            if s.peerSealed vf p n then s.errVector vf Cause.sealed.code addr
            else
              s.outerAtom .peer agPeer vf p.key n op (natOf data) (data2.toNat % 2 ^ (8 * n))
          | 3 =>
            (match s.place vf data2.toNat with
             | .error _ => s
             | .ok d =>
               if 3 ≤ d.tgt then s
               else if s.peerSealed vf p 16 then s.errVector vf Cause.sealed.code addr
               else if s.peerSealed vf d 16 then s.errVector vf Cause.sealed.code data2
               else s.peerXadd vf p d addr.toNat data2.toNat data)
          | _ => s)

/-- An outstanding result ends with a cause: its destinations keep their values, and the thread takes the cause at the next
instruction it would issue (R45). -/
def State.endResult (s : State) (k : Nat) (hit : Outst → Bool) (c : Cause) : State :=
  s.modThread k fun t =>
    let gone := t.outs.filter hit
    gone.foldl (fun (x : Thread) o => { x.addImp c o.pc o.cb o.va o.at_ with unret := o.at_ :: x.unret })
      { t with outs := t.outs.filter fun o => !hit o }

/-- The addresses of a range, one for each 256 bytes it meets: Prejor's flits (R396), and finer than a page. -/
def Touch.flits (x : Touch) : List Nat :=
  if x.n = 0 then [] else x.va :: (upTo (x.va / 256 + 1) ((x.va + x.n - 1) / 256 - x.va / 256)).map (· * 256)

/-- The translation of an address that a command touches (R402). -/
def State.touchLoc (s : State) (c : Cmd) (x : Touch) (a : Nat) : Option Loc :=
  (s.xlate c.agent c.vf c.core a (if x.write then .write else .read)).toOption

/-- A command's first access to host memory (target 3) or to a peer (target 4) that meets a condition, if it has one. -/
def State.cmdOuter (s : State) (c : Cmd) (tgt : Nat) (hit : Nat → Loc → Bool) : Option Nat :=
  ((s.touches c).flatMap fun x => x.flits.filter fun a =>
    match s.touchLoc c x a with | some l => l.tgt == tgt && hit a l | none => false).head?

/-- A command's access ends with a cause that only its target reports (R223, R402): a job ends with it, every other command is
abandoned. -/
def State.failCmd (s : State) (c : Cmd) (cause : Cause) (va : Nat) : State :=
  if c.unit = .siphon then s.jobFault c (cause, va) (ceilDiv c.beat 8) c.done else s.abandon c cause (BitVec.ofNat 64 va)

/-- The access of a command to a target fails, when it has one there. -/
def State.failOuter (s : State) (tgt : Nat) (hit : Nat → Loc → Bool) (cause : Cause) (id : Nat) : State :=
  match s.cmd? id with
  | some c => (match s.cmdOuter c tgt hit with | some va => s.failCmd c cause va | none => s)
  | none => s

/-- The oldest result of a thread that a server has still to give ends with a cause. -/
def State.failOldest (s : State) (k server : Nat) (c : Cause) : State :=
  match (s.thread? k).bind fun t => t.outs.find? fun o => o.target == server with
  | some o => s.endResult k (fun x => x == o) c
  | none => s

/-- HOST_ABORT (R393): a thread's oldest access to host memory, or the access of the command that State.who names, gets no
completion or an error; an IOMMU refusal gives IOMMU_FAULT. -/
def execHostAbort (thread : Nat) (iommu : Bool) (s : State) : Out :=
  let c : Cause := if iommu then .iommuFault else .hostAbort
  .next (match s.who with
    | [id] => s.failOuter 3 (fun _ _ => true) c id
    | _ => s.failOldest thread 1 c)

/-- PEER_FAIL (R396): a thread's oldest access to a peer, or the access of the command that State.who names, is refused or gets no
response. -/
def execPeerFail (thread : Nat) (s : State) : Out :=
  .next (match s.who with
    | [id] => s.failOuter 4 (fun _ _ => true) .peerFail id
    | _ => s.failOldest thread 2 .peerFail)

/-- LINK_DOWN (R396): the port is lost; the requests outstanding on it end with LINK_DOWN, those of threads by the port that each
took at its issue, those of the commands that State.who names where the lost port carries an access of theirs; later ones use the
others. -/
def execLinkDown (port : BitVec 4) (s : State) : Out :=
  let lost (o : Outst) : Bool := o.target == 2 && o.port == port.toNat
  let s := s.threads.foldl (fun (st : State) x => st.endResult x.1 lost .linkDown) s
  let s := s.who.foldl (fun (st : State) id =>
    st.failOuter 4 (fun a l => st.portFor l (BitVec.ofNat 64 a) == port.toNat) .linkDown id) s
  .next (s.modHost fun h => { h with portsDown := h.portsDown ||| (1#12 <<< port.toNat) })

/-! ### Unit errors (R354) -/

/-- The cause of a unit's lasting error (R357), by the unit's number in the list of fenced units. -/
def unitCause (unit : Nat) : Option Cause :=
  if unit < 144 then some .sluiceCheck
  else if 256 ≤ unit ∧ unit < 260 then some .weirCheck
  else if 272 ≤ unit ∧ unit < 276 then some .mergeCheck
  else if unit = 288 then some .selectCheck
  else if unit = 289 then some .siphonCheck
  else if unit = headgateUnit then some .headgateCheck
  else if 512 ≤ unit ∧ unit < 640 then some .matrixCheck
  else none

/-- The cause of an error in a datapath or a storage, which SOFT_ERROR names as 1024 + its code (R354, R357). -/
def storageCause (unit : Nat) : Option Cause :=
  [Cause.laneCheck, .funcCheck, .accEcc, .regEcc, .rngCheck, .xaddCheck, .scratchEcc, .hbmEcc, .cisternEcc, .walkEcc, .tlbCheck,
   .machineCheck].find? fun c => c.code + 1024 == unit

/-- The core that HALTREC names for a unit: 0xFF for a hub engine (R351). -/
def unitCore (unit : Nat) : Nat :=
  if unit < 144 then unit
  else if 256 ≤ unit ∧ unit < 260 then (unit - 256) * 32
  else if 272 ≤ unit ∧ unit < 276 then (unit - 272) * 32
  else if 512 ≤ unit ∧ unit < 640 then unit - 512
  else 0xFF

/-- The lasting error of a unit: it is fenced and logged, and raises its cause; the Siphon's ends the job it serves. -/
def State.unitError (s : State) (unit vf : Nat) (c : Cause) : State :=
  let job := s.siphonNext
  let s := { s.logRecord logLasting unit [] with fenced := unit :: s.fenced }
  if c = .siphonCheck then
    match job with
    | some j => s.jobEnd j 3 j.done (ceilDiv j.beat 8) c.code 0
    | none => s
  else s.haltLine vf (agentUnit unit) c false (unitCore unit) 0 0 0

/-- A datapath of a core has a number of its own in the list of fenced units: its cause, and the core. -/
def datapathUnit (c : Cause) (core : Nat) : Nat := 4096 + 144 * c.code + core

/-- The cause of a failed check of a datapath, whose lasting error fences it; the other causes of R354 are those of storage. -/
def datapath : Cause → Bool
  | .laneCheck | .funcCheck | .rngCheck | .xaddCheck | .tlbCheck => true
  | _ => false

/-- The result comes from global memory of this device, and not from a scratchpad. -/
def Outst.ofDevice (o : Outst) : Bool :=
  o.isMem && o.target == 0 && match o.i with | .lds .. | .atoms .. | .ldMap .. => false | _ => true

/-- The command reads an address. -/
def State.readsAt (s : State) (c : Cmd) (va : Nat) : Bool :=
  (s.touches c).any fun x => !x.write && decide (x.va ≤ va) && decide (va < x.va + x.n)

/-- An uncorrectable error in HBM, Cistern or a walk goes to the reader (R354): the command that State.who names, with the address of
the read, where it gives one (notes/assumptions/12.md); the thread's oldest read of device memory, its instruction fetch when it has
none; with no reader resident, to the error vector (R357). -/
def State.readerError (s : State) (vf thread : Nat) (c : Cause) : State :=
  let engine (id va : Nat) : State :=
    match s.cmd? id with
    | some x =>
      s.failCmd x c (if s.readsAt x va then va else (((s.touches x).find? fun y => !y.write).map (·.va)).getD 0)
    | none => s.errVector vf c.code 0
  match s.who with
  | [id] => engine id 0
  | [id, va] => engine id va
  | _ =>
    match s.thread? thread with
    | none => s.errVector vf c.code 0
    | some t =>
      match t.outs.find? Outst.ofDevice with
      | some o => s.endResult thread (fun x => x == o) c
      | none => s.modThread thread fun x => x.addImp c t.pc t.cb t.pc t.issued

/-- A lasting error of a datapath or a storage (R354): logged; a datapath is fenced; a fatal cause stops the partition, every other
one goes to the reader. -/
def State.storageError (s : State) (unit vf thread : Nat) (c : Cause) : State :=
  let s := s.logRecord logLasting unit []
  let s := if datapath c then { s with fenced := datapathUnit c (coreOf thread) :: s.fenced } else s
  if !c.fatal then s.readerError vf thread c
  else
    match s.thread? thread with
    | some _ => (s.unbundle [thread]).trap thread c
    | none => s.haltLine vf thread c false (coreOf thread) (laneOf thread) (slotOf thread) 0

/-- SOFT_ERROR (R354): a transient error is logged; a lasting one fences its unit and raises the unit's cause. -/
def execSoftError (unit : Nat) (lasting : Bool) (vf thread : Nat) (s : State) : Out :=
  .next (
    match unitCause unit, storageCause unit with
    | none, none => s
    | some c, _ => if lasting then s.unitError unit vf c else s.logRecord logTransient unit []
    | _, some c => if lasting then s.storageError unit vf thread c else s.logRecord logTransient unit [])

/-! ### The management controller and start-up (R393, R397 to R399) -/

/-- FIRMWARE_UPDATE (R397): the image enters the slot that is not active; one that passes its check is active at the next
start. -/
def execFirmwareUpdate (valid : Bool) (image : Nat) (s : State) : Out :=
  .next (s.modSmc fun m =>
    let other := 1 - m.active
    { m with slots := m.slots.set other (valid, image), active := if valid then other else m.active })

/-- SPDM_REQUEST (R393): an answer is left in the function's mailbox; its bytes are open (notes/assumptions/4.md). -/
def execSpdmRequest (function : Nat) (_msg : List (BitVec 8)) (s : State) : Out :=
  .next (s.modSmc fun m =>
    let n := m.doe.length
    { m with doe := m.doe ++ [(function, (upTo 1 (Config.spdmByte n 0).toNat).map fun i => Config.spdmByte n i)] })

/-- The slot that start-up uses: the active one, else the other, else none (R398). -/
def Smc.bootSlot (m : Smc) : Option Nat :=
  let ok (n : Nat) : Bool := match m.slots[n]? with | some x => x.1 | none => false
  if ok m.active then some m.active else if ok (1 - m.active) then some (1 - m.active) else none

/-- The REASON of a start, 0 when it succeeds (R398): the firmware check comes first. -/
def startReason (m : Smc) (failed : BitVec 3) : Nat := if m.bootSlot.isNone then 1 else failed.toNat

/-- What start-up leaves (R394, R398): the reset state with what is kept; after three failed starts only the host link and the
SMC run. `keep` says which bytes of memory are kept. -/
def State.start (s : State) (failed : BitVec 3) (keep : Nat → Bool) : State :=
  let s := s.settleAll
  let r := State.reset
  let reason := startReason s.smc failed
  let minimal := 3 ≤ s.host.fails
  let host : HostRegs :=
    { r.host with
      mode := if minimal then 2 else if reason = 0 then 1 else 0
      reason := if minimal then s.host.reason else reason
      fails := if minimal then s.host.fails else if reason = 0 then 0 else s.host.fails + 1
      ckcfg := s.host.ckcfg, msix := s.host.msix, reads := s.host.reads, iommu := s.host.iommu }
  let smc : Smc :=
    { r.smc with log := s.smc.log, slots := s.smc.slots, active := s.smc.bootSlot.getD s.smc.active, doe := s.smc.doe
                 sensorReads := s.smc.sensorReads }
  ({ r with agenda := s.agenda, mem := s.mem.filter fun c => keep c.1, host := host, smc := smc } : State).logRecord logStart reason []

/-- A byte of Cistern (R398). -/
def inCistern (a : Nat) : Bool := decide (cisternBase ≤ a) && decide (a < cisternBase + 3072 * gib)
/-- A byte of host memory or of a peer: no reset of this device touches it. -/
def inHost (a : Nat) : Bool := decide (2 ^ 60 ≤ a)

/-- COLD_RESET (R398): `failed` is the REASON of the step that fails, 0 for none. -/
def execColdReset (failed : BitVec 3) (s : State) : Out := .next (s.start failed inHost)

/-- WARM_RESET (R398): Cistern's contents are kept as well. -/
def execWarmReset (failed : BitVec 3) (s : State) : Out := .next (s.start failed fun a => inHost a || inCistern a)

/-- COOLANT_OUT_OF_RANGE (R399): MACHINE_CHECK in every partition, and the cores are held until the next start. -/
def execCoolantOutOfRange (s : State) : Out :=
  .next ((s.enabled.foldl (fun (st : State) v => st.haltLine v agentSmc .machineCheck false 0xFF 0 0 0) s).modSmc fun m =>
    { m with held := true })

/-- POWER_LIMIT_THROTTLE (R399): the clock is lower by a number of 50 MHz steps; cycle counts do not change. -/
def execPowerLimitThrottle (steps : Nat) (s : State) : Out := .next (s.modSmc fun m => { m with clockSteps := m.clockSteps + steps })

/-! ### The launch of a crew (R34, R57, R59, R105, R251, R319, R320) -/

/-- The write-buffer rows of a kernel's crew: those of the largest WBUF among its queue records (R106, R320). -/
def kernelWbuf (d : KernelDesc) : Nat := (d.queues.map fun q => (bits q.qcfg.toNat 17 12 + 1) * 2).foldl max 0

/-- The rows of a kernel's crew (R205). -/
def kernelRows (d : KernelDesc) : Nat := d.staticRows + d.poolRows + kernelWbuf d

/-- The partition is stopped: its allocations may be rebuilt (R360). -/
def Part.atRest (p : Part) : Bool := match p.line with | .halted | .quiesced _ => true | _ => false

/-- The crews of a core whose rows and tiles a new run must leave alone (R251, R359). While the partition runs those are all of them,
also crews that have ended; the rows of an ended crew go to another only in a partition that is stopped. -/
def State.holders (s : State) (vf core ck : Nat) : List Crew :=
  (s.crews.filter fun x => x.1 / 64 == core && x.1 != ck && !(x.2.reported && (x.2.vf != vf || (s.part vf).atRest))).map (·.2)

/-- The lanes of a gang's lane group. -/
def gangLanes (core lg : Nat) : List Nat := if isSteward core then [0] else upTo (32 * lg) 32

/-- The lowest free slot of a lane; a steward core has one (R13). -/
def State.freeSlot (s : State) (core lane : Nat) : Option Nat :=
  (upTo 0 (if isSteward core then 1 else 16)).find? fun n => (s.thread? (threadKey core lane n)).isNone

/-- The kernel's own fields are in their ranges (R319, R320, R34, R35). -/
def kernelFits (d : KernelDesc) (core : Nat) : Bool :=
  d.steward == isSteward core && decide (1 ≤ d.regs) && decide (d.regs ≤ 32) &&
    decide (1 ≤ d.gangs) && decide (d.gangs ≤ (if isSteward core then 1 else 32)) && decide (d.lgrps.length = d.gangs) &&
    (d.lgrps.all fun l => decide (l < (if isSteward core then 1 else 4))) && [0, 2, 4, 8].contains d.team &&
    decide (d.baseRow + kernelRows d ≤ (if isSteward core then 512 else 1536)) && decide (d.physTiles.length = d.tiles) &&
    decide (d.tiles ≤ 16) && (d.physTiles.all fun t => decide (t < 16)) && decide (d.physTiles.eraseDups.length = d.tiles) &&
    decide (d.queues.length ≤ 16)

/-- A queue record's queue is enabled for the partition, with a write buffer that the launch's rows hold (R59, R106, R320). -/
def State.queueReady (s : State) (vf : Nat) (d : KernelDesc) (r : QueueRec) : Bool :=
  let q := s.queue r.q.toNat
  q.en && q.vf == vf && decide (q.wbufUnits / 128 ≤ kernelWbuf d)

/-- A run with its tiles and queues fits its core and its partition (R251, R320, R359). -/
def State.runFits (s : State) (vf core ck : Nat) (d : KernelDesc) : Bool :=
  let others := s.holders vf core ck
  decide (vf < 16) && s.vfEnabled vf && (s.part vf).hasCore core && kernelFits d core &&
    !(others.any fun c => decide (c.base < d.baseRow + kernelRows d) && decide (d.baseRow < c.base + c.rows)) &&
    !(others.any fun c => c.tiles.any fun t => d.physTiles.contains t) && d.queues.all (s.queueReady vf d)

/-- A launch fits its core and its partition, which runs; a crew is not launched again while it does (R34). -/
def State.launchOk (s : State) (vf core crew : Nat) (d : KernelDesc) : Bool :=
  s.runFits vf core (core * 64 + crew) d && decide (crew < 64) && (s.part vf).line == .running &&
    (s.crew? (core * 64 + crew)).isNone

/-- A thread of a new crew (R22, R42, R344, R346): its registers read 0. -/
def newThread (vf crew gang : Nat) (pc : DWord) (regs : Nat) (blocks : List Nat) (priv : Bool) (now : Nat) : Thread :=
  { vf := vf, crew := crew, gang := gang, pc := pc, cb := pc, alloc := regs, regs := List.replicate (8 * regs) 0
    blocks := blocks, preds := 0, kcnt := List.replicate 8 0, fstat := 0, fctl := 0
    tr := { TrapRegs.reset with sstat := if priv then 1 else 0 }, phase := .active, ftime := 0, arrival := none, sig := []
    held := [], outs := [], wins := [], log := [], imps := [], storeq := [], seen := [], relNeed := []
    inTask := false, tpop := (0, 0), issued := 0, unret := [], orphan := false, pendCause := none, acqFault := false, fetchFault := none
    fetchDecl := none, privSince := now, grainTrap := false, rsHold := false, passed := false }

/-- Launch one thread on a lane; none when the lane has no free slot or too few free blocks. -/
def State.launchThread (s : State) (vf core crew gang lane : Nat) (pc : DWord) (regs : Nat) (priv : Bool) : Option (State × Nat) :=
  match s.freeSlot core lane with
  | none => none
  | some n =>
    let bs := (s.freeBlocks core lane).take regs
    if bs.length < regs then none
    else some (s.setThread (threadKey core lane n) (newThread vf crew gang pc regs bs priv s.now), threadKey core lane n)

/-- Launch the threads of a crew, gang by gang: the state and their keys. -/
def State.launchThreads (s : State) (vf core crew : Nat) (pc : DWord) (regs : Nat) (priv : Bool) :
    List (Nat × Nat) → Option (State × List Nat)
  | [] => some (s, [])
  | (g, l) :: r =>
    match s.launchThread vf core crew g l pc regs priv with
    | none => none
    | some (s, k) =>
      match s.launchThreads vf core crew pc regs priv r with
      | none => none
      | some (s, ks) => some (s, k :: ks)

/-- A new crew: TCONV is armed for every gang with the crew's thread count (R57). -/
def newCrew (vf : Nat) (d : KernelDesc) (threads : Nat) : Crew :=
  let conv : ConvReg := { ConvReg.reset with st := .armed, members := BitVec.ofNat 32 (2 ^ d.gangs - 1), expect := threads }
  { vf := vf, regs := d.regs, ngang := d.gangs, team := d.team, lgrps := d.lgrps, base := d.baseRow, rows := kernelRows d
    static := d.staticRows, pool := d.poolRows, wbuf := kernelWbuf d, queues := d.queues.map (·.q.toNat), tconv := d.tconv
    tiles := d.physTiles, convs := (List.replicate 16 ConvReg.reset).set d.tconv.toNat conv, regions := []
    maps := List.replicate 64 MapEntry.reset, gen := 0, task := none, last := (0, 0, 0), pop := none, popD := 0, ended := false
    reported := false }

/-- The ended crews of a core that still hold some rows of a run (R359). -/
def State.endedHolders (s : State) (ck base rows : Nat) : List Nat :=
  (s.crews.filter fun x => x.1 / 64 == ck / 64 && x.1 != ck && x.2.reported && decide (x.2.base < base + rows) &&
    decide (base < x.2.base + x.2.rows)).map (·.1)

/-- A crew with its run, as a launch or a rebuild leaves it: the rows READY and zero, the tiles clear (R251, R360). Ended crews that
held some of these rows hold none any more. -/
def State.seatCrew (s : State) (ck : Nat) (cr : Crew) : State :=
  let core := ck / 64
  let ended := s.endedHolders ck cr.base cr.rows
  let s := ended.foldl (fun (st : State) k => st.modCrew k fun c => { c with rows := 0 }) s
  let s := { s with crews := s.crews.set ck cr }
  ((s.clearTiles ck).zeroScr (crewAddr core cr 0) (cr.rows * 2048)).setSectors (sectorRange (crewAddr core cr 0) (cr.rows * 2048)) .ready

/-- The gangs and lanes of a kernel's threads on a core. -/
def kernelPlaces (d : KernelDesc) (core : Nat) : List (Nat × Nat) :=
  (d.lgrps.zip (upTo 0 d.gangs)).flatMap fun (lg, g) => (gangLanes core lg).map fun l => (g, l)

/-- The threads of a crew start, as the launch seats it (R34). -/
def State.startCrew (s : State) (vf core crew gen : Nat) (d : KernelDesc) : State :=
  let pc := d.codeBase + BitVec.ofNat 64 (8 * d.entry.toNat)
  let priv := isSteward core && (s.part vf).spriv.testBit (core - 128)
  match s.launchThreads vf core crew pc d.regs priv (kernelPlaces d core) with
  | none => s
  | some (s, ks) =>
    let s := s.seatCrew (core * 64 + crew) { newCrew vf d ks.length with gen := gen }
    (s.modPart vf fun p => { p with everRun := true }).fileAll s.fileTime ks

/-- The crew, and every ended crew whose rows its new run takes, is idle (R360). -/
def State.rebuildIdle (s : State) (ck : Nat) (d : KernelDesc) : Bool :=
  s.crewIdle ck && (s.endedHolders ck d.baseRow (kernelRows d)).all s.crewIdle

/-- The rebuild of a crew's allocation in a partition that is stopped (R34, R360): refused with IMAGE_BAD, on the error vector, while
the crew, or an ended one that gives up rows, is not idle; one that does not fit changes nothing. A crew that has ended starts again; one whose threads all stand in eviction areas gets the run and the tiles,
and keeps them for their restore. GEN rises, so that no map made before is valid (notes/assumptions/46.md). -/
def State.rebuildCrew (s : State) (vf core crew : Nat) (cr : Crew) (d : KernelDesc) : State :=
  let ck := core * 64 + crew
  let gen := (cr.gen + 1) % 256
  if !s.rebuildIdle ck d then s.errVector vf Cause.imageBad.code 0
  else if !s.runFits vf core ck d then s
  else if cr.reported then s.startCrew vf core crew gen d
  else if cr.ended then s
  else
    s.seatCrew ck { cr.dropMaps (fun _ _ => true) with
      base := d.baseRow, rows := kernelRows d, static := d.staticRows, pool := d.poolRows, wbuf := kernelWbuf d, tiles := d.physTiles
      regions := [], gen := gen }

/-- CREW_LAUNCH (R34): system software starts one crew of a kernel, or rebuilds the allocation of one in a stopped partition; a
launch that does not fit changes nothing (R320). -/
def execCrewLaunch (vf core crew : Nat) (kernel : KernelDesc) (s : State) : Out :=
  .next (
    match s.crew? (core * 64 + crew) with
    | none =>
      if s.launchOk vf core crew kernel && (s.endedHolders (core * 64 + crew) kernel.baseRow (kernelRows kernel)).all s.crewIdle then
        s.startCrew vf core crew 0 kernel
      else s
    | some cr => if cr.vf == vf && (s.part vf).atRest then s.rebuildCrew vf core crew cr kernel else s)

end Sys2Proof.Machine
end

