-- ==== Sys2Proof/Machine/Issue.lean ====
section
/-!
DEFINITION. The issue of an instruction word by one thread: what waits for the thread, the entry of a clause and its waits
(R30, R139 to R142), the word and the decode checks (R149), and the replay of a logged instruction (R46).
-/
namespace Sys2Proof.Machine

/-- What a step does next: it is done with a state, or it performs an instruction or an event in a state. -/
inductive Plan where
  | done (s : State)
  | word (i : Instr) (s : State)
  | event (e : Instr) (s : State)

/-! ### What waits for the thread -/

/-- Something is to be delivered at the thread's next instruction (R38, R45, R71, R126). -/
def Thread.waiting (t : Thread) : Bool := !t.imps.isEmpty || t.orphan || t.pendCause.isSome || t.acqFault

/-! ### The clause (R139 to R142) -/

/-- ILLEGAL_CLAUSE (R141): EPC names the header. -/
def State.badClause (s : State) (k : Nat) (cb : DWord) : State :=
  s.raise k { cause := .illegalClause, imp := false, logged := false, icode := 0, epc := cb, ecb := cb, npc := cb, ncb := cb
              skid := 0, badva := 0 }

/-- A fetch of a clause that faults (R142): PAGE_NOT_PRESENT parks the thread on FAULT with an empty log; with no fault queue
it is declined at once (R367). Every other fault is precise, and EPC names the word fetched. -/
def State.fetchFails (s : State) (k : Nat) (t : Thread) (c : Cause) (va : DWord) : State :=
  if c.recoverable && (s.part t.vf).fqOn then
    match s.fileFault t.vf c va (faultStamp k false) with
    | (s, none) => s.stall
    | (s, some id) => (s.modThread k fun t => { t with fetchFault := some (id, va) }).park k .fault
  else s.fetchTrap k t.cb c va

/-- The words of a clause, `n` from an address: each with its translation kept, or the fault and the address. -/
def State.clauseWords (s : State) (vf core : Nat) (va : DWord) : Nat → Except (Cause × DWord) (State × List DWord)
  | 0 => .ok (s, [])
  | n + 1 =>
    match s.codeWord vf core va with
    | .error c => .error (c, va)
    | .ok (w, e) =>
      match (s.keep e).clauseWords vf core (va + 8) n with
      | .error x => .error x
      | .ok (s, ws) => .ok (s, w :: ws)

/-- What the fetch of a thread's clause gives. -/
inductive Clause where
  /-- the thread does not issue -/
  | stop (s : State)
  /-- the header and the instruction words, with the translations kept -/
  | words (s : State) (h : Header) (ws : List DWord)

/-- Fetch and check the clause at the thread's header (R141, R142). -/
def State.fetchClause (s : State) (k : Nat) (t : Thread) : Clause :=
  match s.clauseWords t.vf (coreOf k) t.cb 1 with
  | .error (c, va) => .stop (s.fetchFails k t c va)
  | .ok (s, hs) =>
    let h := Header.ofWord (hs.headD 0)
    if !isHeader (hs.headD 0) then .stop (s.badClause k t.cb)
    else
      match s.clauseWords t.vf (coreOf k) (t.cb + 8) (h.count.toNat + 1) with
      | .error (c, va) => .stop (s.fetchFails k t c va)
      | .ok (s, ws) => if clauseOk h ws then .words s h ws else .stop (s.badClause k t.cb)

/-- The copy-tag counters that a header's WAITK waits for and that are not zero. -/
def Thread.tagsOpen (t : Thread) (waitk : BitVec 8) : Bool :=
  (upTo 0 8).any fun i => waitk.getLsbD i && t.kcnt.getD i 0 != 0

/-- A memory read of the thread has not returned its data (R139). -/
def Thread.readsOpen (t : Thread) : Bool := t.outs.any fun o => o.isMem

/-- The entry of a clause (R30, R46): a log that is not empty parks the thread, WAITK parks it, WAITA and WAITM hold the
bundle back; none means that the first word issues. -/
def State.clauseWaits (s : State) (k : Nat) (t : Thread) (h : Header) : Option State :=
  if !t.log.isEmpty then some (s.park k .fault)
  else if t.tagsOpen h.waitk then some (s.park k (.tag h.waitk))
  else if h.waita && s.matPending k t then some s.stall
  else if h.waitm && t.readsOpen then some s.stall
  else none

/-! ### The word (R149) -/

/-- What a thread does with an instruction word: the decode checks in the order of R149, then the instruction. -/
def State.checkWord (s : State) (k : Nat) (t : Thread) (w : DWord) : Plan :=
  let opc := w.extractLsb' 56 8
  if !opcAssigned opc || (isSteward (coreOf k) && stewardRefuses opc) then .done (s.trap k .illegalOpcode)
  else if privWord w && !t.priv then .done (s.trap k .privileged)
  else
    match decode w with
    | .instr i => .word i s
    | .illegalOpcode => .done (s.trap k .illegalOpcode)
    | .illegalModifier => .done (s.trap k .illegalModifier)

/-- The number of the word at a PC in a clause with its header at `cb`: 1 for the first word. -/
def wordIndex (cb pc : DWord) : Nat := (pc - cb).toNat / 8

/-- The clause that a thread issues from: the one it holds, whatever has become of its page (R204), or the one it fetches
when it enters or resumes a clause (R142). -/
def State.clauseOf (s : State) (k : Nat) (t : Thread) : Clause :=
  match t.holds? with
  | some (h, ws) => .words s h ws
  | none => s.fetchClause k t

/-- The thread whose part is next issues its word: a thread at its header enters the clause first. -/
def State.threadWord (s : State) (k : Nat) (t : Thread) : Plan :=
  if t.waiting then .done (s.deliverWaiting k)
  else if t.pc = t.cb && !t.log.isEmpty then .done (s.park k .fault)
  else
    match s.clauseOf k t with
    | .stop s => .done s
    | .words s h ws =>
      match (if t.pc = t.cb then s.clauseWaits k t h else none) with
      | some s => .done s
      | none =>
        let pc := if t.pc = t.cb then t.cb + 8 else t.pc
        let n := wordIndex t.cb pc
        if pc = h.next t.cb then .done (s.modThread k fun t => { t with cb := pc, wins := t.endWins })
        else if (pc - t.cb).toNat % 8 ≠ 0 ∨ n = 0 ∨ h.count.toNat + 1 < n then .done (s.badClause k t.cb)
        else
          let s := if h.reform && n = h.count.toNat + 1 then s.dissolve else s
          (s.modThread k fun t => { t with pc := pc, code := some (t.cb, h, ws) }).checkWord k
            { t with pc := pc, code := some (t.cb, h, ws) } (ws.getD (n - 1) 0)

/-! ### Replays (R46) -/

/-- The thread with a log entry's address and captured sources, whatever registers a younger word has given up since. -/
def Thread.asLogged (t : Thread) (e : LogEntry) : Thread :=
  e.srcs.foldl (fun (x : Thread) y => x.setReg y.1 y.2)
    { t with pc := e.pc, cb := e.cb, phase := .active, arrival := none, regs := t.regs ++ List.replicate 256 0 }

/-- The thread without its oldest log entry. -/
def Thread.popLog (t : Thread) : Thread := { t with log := t.log.tail }

/-- The thread's oldest log entry is resolved, and the thread stands still: an engine entry replays at any time, every other one while
the thread is parked, for whatever reason (R46). -/
def Thread.replayable (t : Thread) : Bool :=
  match t.log with
  | e :: _ => e.verdict == 1 && (e.cmd.isSome || t.isParked)
  | [] => false

/-- The turn of a logged entry among the lanes of its word (R113): a store is performed after those of the higher lanes at its address,
which cover it; an atomic, after those of the lower lanes. -/
def State.inTurn (s : State) (k : Nat) (e : LogEntry) : Bool :=
  let same (u : Thread) : Bool := u.log.any fun x => x.ofWord e.bundle e.pc && x.va == e.va
  match decode e.word with
  | .instr (.st ..) => !(s.threads.any fun x => laneBelow k x.1 && same x.2)
  | .instr (.red ..) | .instr (.xadd ..) | .instr (.atom ..) | .instr (.cas ..) | .instr (.sigdec ..) | .instr (.sigadd ..) =>
    !(s.threads.any fun x => laneBelow x.1 k && same x.2)
  | _ => true

/-- The thread's oldest entry replays now: it is resolved, its partition runs, and its turn has come. One that was not ready, or that has
been logged again, is tried again in a later cycle. -/
def State.replays (s : State) (k : Nat) (t : Thread) : Bool :=
  t.replayable && s.mayRun t.vf (t.crewKey k) &&
    match t.log with
    | e :: _ => s.inTurn k e && (e.cmd.isSome || e.commit || decide (t.since < s.now))
    | [] => false

/-- The replay of a thread's oldest entry (R46): an engine command goes on; a commit goes on with the record it stands at
(R64); every other instruction issues again with the operands from the log. -/
def State.startReplay (s : State) (k : Nat) : Plan :=
  match s.thread? k with
  | none => .done s
  | some t =>
    match t.log with
    | [] => .done s
    | e :: _ =>
      if !s.replays k t then .done s
      else if e.commit || e.cmd.isSome then
        let s := s.modThread k fun t => if e.commit then t.popLog else t.popLog.retires e.at_
        let s := match e.cmd with
          | some id => s.modCmd id fun c => { c with fault := none }
          | none => s
        let s := if e.commit then s.modTask (t.crewKey k) fun x => { x with held := false } else s
        .done (s.logStopped k)
      else
        let b : Bundle :=
          { core := coreOf k, lgrp := lgrpOf k, members := [k], todo := [k], formed := s.now, dissolve := false
            stalled := false, uniform := false
            replay := some { thread := k, regs := t.regs, pc := t.pc, cb := t.cb, phase := t.phase, arrival := t.arrival } }
        match decode e.word with
        | .instr i => .word i { s.setThread k (t.asLogged e) with issue := some b }
        | _ => .done (s.modThread k Thread.popLog)

/-- The thread as it was when it parked, but for what the replay has done to the rest of it. -/
def Thread.unreplay (t : Thread) (r : Replay) (now : Nat) : Thread :=
  { t with regs := r.regs, pc := r.pc, cb := r.cb, phase := r.phase, arrival := r.arrival, since := now }

/-- The registers after a replay: the thread's own, with the entry's destinations as the replay wrote them. -/
def replayRegs (r : Replay) (e : LogEntry) (t : Thread) : List Word :=
  e.dests.foldl (fun (l : List Word) d => l.set d (t.reg d)) r.regs

/-- The thread belongs to an active bundle. -/
def State.inRotation (s : State) (k : Nat) : Bool :=
  (s.lg (coreOf k * 4 + lgrpOf k)).rotation.any fun b => b.members.contains k

/-- The thread waited on FAULT when its replay began. -/
def Replay.onFault (r : Replay) : Bool :=
  match r.phase with
  | .parked .fault _ => true
  | _ => false

/-- The thread once its oldest entry has been performed: the entry has left the log; the thread stands past the instruction when it
parked at the logged one itself (R188), else where it parked. -/
def Thread.replayed (t : Thread) (r : Replay) (e : LogEntry) (now : Nat) : Thread :=
  let u := { (t.unreplay r now).popLog with regs := replayRegs r e t, passed := t.passed && !r.onFault }
  if e.pc = r.pc then u.next
  else if t.imps.any fun i => i.at_ == e.at_ then u
  else u.retires e.at_

/-- The end of a replay (R46). Done, the entry leaves the log, and a thread that waited on FAULT is filed once the log is empty; one
that waits for something else goes on waiting. Not ready, or faulted again, it is tried again. Where the instruction parks, a thread on
FAULT is parked for that reason, and the entry is performed when the wait ends; a thread that waits for something else already tries it
again later. Trapped, the handler runs. -/
def State.endReplay (s : State) (b : Bundle) (r : Replay) : State :=
  let k := r.thread
  let s := b.clash.foldl (fun (st : State) k => st.drainAll k) { s with issue := none }
  match s.thread? k with
  | none => s
  | some t =>
    match t.log with
    | [] => s
    | e :: _ =>
      if b.stalled then s.setThread k (t.unreplay r s.now)
      else if b.members.contains k then
        let s := (s.setThread k (t.replayed r e s.now)).logStopped k
        if r.onFault && ((s.thread? k).map fun t => t.log.isEmpty).getD true then s.file s.fileTime k else s
      else
        match t.phase with
        | .stopped => s.setThread k { t with regs := r.regs }
        | .parked (.arrive _) _ => s.setThread k (t.unreplay r s.now)
        | .parked w o =>
          if r.onFault then s.setThread k { t.unreplay r s.now with phase := .parked w o, replayWait := true }
          else s.setThread k (t.unreplay r s.now)
        | _ =>
          if s.inRotation k then (s.setThread k { t with regs := r.regs, log := t.log.tail }).logStopped k
          else s.setThread k (t.unreplay r s.now)

/-! ### After a thread's part -/

/-- What becomes of the bundle that is issuing: a replay ends; a bundle that is not ready is passed over; a bundle whose last
member has issued is done with the word. -/
def State.settleIssue (s : State) : State :=
  match s.issue with
  | none => s
  | some b =>
    match b.replay with
    | some r => s.endReplay b r
    | none => if b.stalled then s.passOver b else if b.todo.isEmpty then s.finishWord b else s

/-- The next part of the bundle that is issuing. -/
def State.issueNext (s : State) (b : Bundle) : Plan :=
  match b.todo with
  | [] => .done s.settleIssue
  | k :: _ =>
    match s.thread? k with
    | none => .done (s.leave k).settleIssue
    | some t =>
      match s.threadWord k t with
      | .done s => .done s.settleIssue
      | p => p

/-! ### The choice of a bundle (R30) -/

/-- The bundle that is issuing is marked as not ready. -/
def State.stalls (s : State) : Bool :=
  match s.issue with
  | some b => b.stalled
  | none => false

/-- What an instruction waits for beyond the checks that all share (R30): a fragment of an MMA or MMAS that is pending, the results
that EXIT waits for (R163), the registers that SHRINK discards (R165). -/
def State.bodyWaits (s : State) (i : Instr) (k : Nat) (t : Thread) : Bool :=
  match i with
  | .exit _ => !t.inTask && t.exitWaits
  | .shrink _ b => decide (b.toNat < t.alloc) && t.shrinkWaits b.toNat
  | _ =>
    match s.fragments k t i with
    | some (g, regs) => (match s.fragGate k t g regs with | some u => u.stalls | none => false)
    | none => false

/-- The scoreboard, the clause-header waits or a full fault table hold a member of a bundle back (R30). -/
def State.memberWaits (s : State) (b : Bundle) (k : Nat) : Bool :=
  let s := { s with issue := some { b with todo := [k], stalled := false } }
  match s.thread? k with
  | none => false
  | some t =>
    match s.threadWord k t with
    | .done u => u.stalls
    | .word i u =>
      (match u.thread? k with
       | some t => (match u.gate i k t with | some v => v.stalls | none => u.bodyWaits i k t)
       | none => false)
    | .event _ _ => false

/-- A bundle is ready: every member that has still to issue the word could issue it (R30). -/
def State.ready (s : State) (b : Bundle) : Bool := b.todo.all fun k => !s.memberWaits b k

/-- The first bundle of a rotation that can be chosen and is ready, and the others. -/
def State.pick (s : State) : List Bundle → Option (Bundle × List Bundle)
  | [] => none
  | b :: bs =>
    if s.pickable b && s.ready b then some (b, bs)
    else
      match s.pick bs with
      | some (c, r) => some (c, b :: r)
      | none => none

/-- A lane group of the core with higher lanes has issued in this cycle: what one cycle files, signs, pushes or stores goes in
order of core lane (R27, R37, R60, R113). -/
def State.issuedAbove (s : State) (core lg : Nat) : Bool :=
  (upTo (lg + 1) (3 - lg)).any fun g => s.now != 0 && (s.lg (core * 4 + g)).lastIssue == s.now

/-- A lane group issues its next ready bundle, at most one word a cycle (R30). -/
def State.startIssue (s : State) (core lg : Nat) : Option State :=
  let l := s.lg (core * 4 + lg)
  if (l.lastIssue = s.now ∧ s.now ≠ 0) ∨ s.issuedAbove core lg = true then none
  else
    match s.pick l.rotation with
    | some (b, rest) => some { (s.modLg (core * 4 + lg) fun l => { l with rotation := rest }) with issue := some b }
    | none => none

/-! ### Exhaustion in its turn (R44, R68, R69) -/

/-- No lane group of the core can issue in this cycle any more: a last signature of TDONE in the cycle comes before an
exhaustion (R69). -/
def State.issuedAll (s : State) (core : Nat) : Bool := (upTo 0 4).all fun lg => (s.startIssue core lg).isNone

/-- TALLOW_EXPIRY (R68, R69), of the crew that State.who names: with GRANT in the same cycle the lower WHY is reported. -/
def execTallowExpiry (s : State) : Out :=
  .next (
    match s.who with
    | [ck] =>
      if s.timeUp ck && s.issuedAll (ck / 64) then s.abortTask ck (.exhausted ((s.exhausts ck).getD 4)) else s
    | _ => s)

/-- REG_DEADLOCK (R44), of the core and lane group that State.who names: threads that the halt line, a quiesce or the SMC
holds are left alone (R33, R351). A task that has signed its TDONE is not exhausted
(R63). -/
def execRegDeadlock (s : State) : Out :=
  .next (
    match s.who with
    | [core, lg] =>
      if s.deadlocked core lg && s.issuedAll core && (s.lgThreads core lg).all fun x => s.mayRun x.2.vf (x.2.crewKey x.1) then
        let ts := s.lgTasks core lg
        (match youngest (ts.filter fun x => x.2.signer.isNone) with
         | some (ck, _) => s.abortTask ck (.exhausted 1)
         | none =>
           if ts.isEmpty then
             ((s.lgThreads core lg).filter fun x => x.2.onGrant).foldl (fun (st : State) x => st.trap x.1 .regDeadlock) s
           else s)
      else s
    | _ => s)

end Sys2Proof.Machine
end

