-- ==== Sys2Proof/Machine/Sched.lean ====
section
/-!
DEFINITION. Who moves next. A step performs one thread's part of the word that a bundle is issuing, or one event of the table
(notes/assumptions/2.md): the agenda names the agent and the cycles that pass before; with an empty agenda the first thing
that can happen is taken.
-/
namespace Sys2Proof.Machine

/-- The row of the table is an event: it has no instruction word. -/
def isEvent (e : Instr) : Bool := (encode e).isNone

/-- An event that moves by itself, its meaning, and the agents it may name. -/
abbrev Auto := Instr × (State → Out) × List (List Nat)

/-- The partitions. -/
def vfs : List Nat := upTo 0 16

/-- The lane groups that hold threads, as (core, lane group). -/
def State.groups (s : State) : List (List Nat) := (s.threads.map fun x => [coreOf x.1, lgrpOf x.1]).eraseDups

/-- The commands, the held commands and the matrix operations, by number. -/
def State.ids (s : State) : List Nat := (s.cmds.map (·.id)) ++ (s.claims.map (·.1)).eraseDups

/-- The events of threads and crews. -/
def State.threadAutos (s : State) : List Auto :=
  let ts := s.threads.map fun x => [x.1]
  let cs := s.crews.map fun x => [x.1]
  [(.tallowExpiry, execTallowExpiry, cs), (.watchdog, execWatchdog, ts), (.parkEnd, execParkEnd, ts),
   (.sigwaitReread, execSigwaitReread, ts), (.readSetHoldRelease, execReadSetHoldRelease, ts),
   (.longLatencyComplete, execLongLatencyComplete, s.threads.map fun x => [x.1, 0]),
   (.storeQueueDrain, execStoreQueueDrain, ts),
   (.storePropagation, execStorePropagation, s.flights.map fun f => [f.id, maskSys]),
   (.taskCommit, execTaskCommit, cs), (.commitRecord, execCommitRecord, cs), (.crewEnd, execCrewEnd, cs),
   (.regDeadlock, execRegDeadlock, s.groups)]

/-- The events of the engines and units. -/
def State.engineAutos (s : State) : List Auto :=
  let ids := s.ids.map fun n => [n]
  let cores := (s.cmds.filterMap fun c => match c.unit with | .sluice n => some [n] | _ => none).eraseDups
  let mats := (s.mats.map fun m => [m.core]).eraseDups
  let dies := (upTo 0 4).map fun d => [d]
  [(.engineSectorTake, execEngineSectorTake, ids), (.matrixOpComplete, execMatrixOpComplete, mats),
   (.matrixOpStart, execMatrixOpStart, mats), (.acpComplete, execAcpComplete, ids), (.bcpComplete, execBcpComplete, ids),
   (.mcastComplete, execMcastComplete, ids), (.kvgRowFill, execKvgRowFill, ids), (.kvgComplete, execKvgComplete, ids),
   (.kvaComplete, execKvaComplete, ids), (.drainComplete, execDrainComplete, ids),
   (.segsumComplete, execSegsumComplete, ids), (.kvrPerform, execKvrPerform, ids), (.sluiceBeat, execSluiceBeat, cores),
   (.drainRow, execDrainRow, cores), (.jobComplete, execJobComplete, ids), (.siphonDecode, execSiphonDecode, [[]]),
   (.pselComplete, execPselComplete, dies), (.selectComplete, execSelectComplete, [[]]),
   (.tmrgComplete, execTmrgComplete, dies), (.tunmComplete, execTunmComplete, dies), (.slackDecay, execSlackDecay, ids),
   (.engineTimeout, execEngineTimeout, ids)]

/-- The events of partitions and of the Headgate. -/
def State.partAutos (s : State) : List Auto :=
  let ps := vfs.map fun v => [v]
  let agents := vfs.flatMap fun v =>
    match (s.part v).line with
    | .stopping _ _ _ => (s.agents v).map fun a => [v, a]
    | _ => []
  let answers : List Auto := vfs.flatMap fun v =>
    (s.part v).faults.flatMap fun f =>
      let id := BitVec.ofNat 24 f.id
      [(.frespResolve v id, execFrespResolve v id, [[]]), (.frespDecline v id, execFrespDecline v id, [[]])]
  answers ++
  [(.quiesceTimeout, execQuiesceTimeout, agents), (.agentStop, execAgentStop, agents), (.partitionHalted, execPartitionHalted, ps),
   (.partitionQuiesced, execPartitionQuiesced, ps), (.faultReport, execFaultReport, ps), (.quotaRecheck, execQuotaRecheck, ps),
   (.taskComplete, execTaskComplete, vfs.flatMap fun v => (s.part v).tasks.map fun r => [v, r.1]),
   (.headgateDispatch, execHeadgateDispatch, [[]]), (.spillwayRefill, execSpillwayRefill, s.queues.map fun q => [q.1]),
   (.smcReply, execSmcReply, s.smc.calls.map fun c => [c.id])]

/-- The event changes something for an agent. -/
def State.moves (s : State) (f : State → Out) (who : List Nat) : Bool :=
  match f { s with who := who } with
  | .next t => t != { s with who := who }
  | _ => false

/-- The first event that changes something, with its agent. -/
def State.nextAuto (s : State) : Option (Instr × List Nat) :=
  (s.threadAutos ++ s.engineAutos ++ s.partAutos).findSome? fun a => (a.2.2.find? (s.moves a.2.1)).map fun w => (a.1, w)

/-- A lane group that can form a bundle. -/
def State.nextForm (s : State) : Option (List Nat) :=
  s.groups.find? fun g =>
    match g with
    | [core, lg] => !s.formedNow core lg && (s.formHead core lg).isSome
    | _ => false

/-- The state in which the first lane group that has a ready bundle issues it. -/
def State.nextIssue (s : State) : Option State :=
  s.groups.findSome? fun g =>
    match g with
    | [core, lg] => s.startIssue core lg
    | _ => none

/-- The word of a bundle that has just been chosen. -/
def State.issueWord (s : State) : Plan :=
  match s.issue with
  | some b => s.issueNext b
  | none => .done s

/-- What moves when the agenda is empty: a replay, an event, a bundle that forms, a word, or a cycle that passes. -/
def State.moveDefault (s : State) : Plan :=
  match List.find? (fun (x : Nat × Thread) => s.replays x.1 x.2) s.threads with
  | some x => s.startReplay x.1
  | none =>
    match s.nextAuto with
    | some (e, w) => .event e { s with who := w }
    | none =>
      match s.nextForm with
      | some g => .event .bundleForm { s with who := g }
      | none =>
        match s.nextIssue with
        | some s => s.issueWord
        | none => .done (s.tick 1)

/-- An agent moves. -/
def State.move (s : State) : Mover → Plan
  | .issue core lg => (match s.startIssue core lg with | some s => s.issueWord | none => .done s)
  | .replay k => s.startReplay k
  | .event e who => if isEvent e then .event e { s with who := who } else .done s

/-- What the step does: the bundle that is issuing goes on; else the agenda's first entry; else the default. -/
def State.plan (s : State) : Plan :=
  match s.issue with
  | some b => s.issueNext b
  | none =>
    match s.agenda with
    | (n, m) :: rest => (({ s with agenda := rest } : State).tick n).move m
    | [] => s.moveDefault

end Sys2Proof.Machine
end

