-- ==== Sys2Proof/Machine/Dispatch.lean ====
section
/-!
DEFINITION. One arm per constructor of Instr: the meaning each instruction word and each event of
spec/opcode_table.json has.
-/
namespace Sys2Proof.Machine

/-- What the step of an instruction word or of an event does (one arm per row of spec/opcode_table.json). -/
def exec (i : Instr) (s : State) : Host.Outcome State Fault Refusal :=
  match i with
  | .nop g => Sys2Proof.Machine.execNop g s
  | .bra g hint ofs => Sys2Proof.Machine.execBra g hint ofs s
  | .jmp g ofs => Sys2Proof.Machine.execJmp g ofs s
  | .jmpi g a => Sys2Proof.Machine.execJmpi g a s
  | .call g d ofs => Sys2Proof.Machine.execCall g d ofs s
  | .calli g d a => Sys2Proof.Machine.execCalli g d a s
  | .ret g a => Sys2Proof.Machine.execRet g a s
  | .exit g => Sys2Proof.Machine.execExit g s
  | .enter g b => Sys2Proof.Machine.execEnter g b s
  | .grow g b => Sys2Proof.Machine.execGrow g b s
  | .shrink g b => Sys2Proof.Machine.execShrink g b s
  | .join g a => Sys2Proof.Machine.execJoin g a s
  | .yield g => Sys2Proof.Machine.execYield g s
  | .bkpt g code => Sys2Proof.Machine.execBkpt g code s
  | .trap g code => Sys2Proof.Machine.execTrap g code s
  | .sys g code => Sys2Proof.Machine.execSys g code s
  | .rett g => Sys2Proof.Machine.execRett g s
  | .rettTgt g a => Sys2Proof.Machine.execRettTgt g a s
  | .iadd g d a b => Sys2Proof.Machine.execIadd g d a b s
  | .isub g d a b => Sys2Proof.Machine.execIsub g d a b s
  | .imul g d a b => Sys2Proof.Machine.execImul g d a b s
  | .imin g u d a b => Sys2Proof.Machine.execImin g u d a b s
  | .imax g u d a b => Sys2Proof.Machine.execImax g u d a b s
  | .and g d a b => Sys2Proof.Machine.execAnd g d a b s
  | .or g d a b => Sys2Proof.Machine.execOr g d a b s
  | .xor g d a b => Sys2Proof.Machine.execXor g d a b s
  | .andn g d a b => Sys2Proof.Machine.execAndn g d a b s
  | .shl g d a b => Sys2Proof.Machine.execShl g d a b s
  | .shr g d a b => Sys2Proof.Machine.execShr g d a b s
  | .sar g d a b => Sys2Proof.Machine.execSar g d a b s
  | .rot g d a b => Sys2Proof.Machine.execRot g d a b s
  | .iadd64 g d a b => Sys2Proof.Machine.execIadd64 g d a b s
  | .iaddI g d a imm => Sys2Proof.Machine.execIaddI g d a imm s
  | .isubI g d a imm => Sys2Proof.Machine.execIsubI g d a imm s
  | .imulI g d a imm => Sys2Proof.Machine.execImulI g d a imm s
  | .iminI g d a imm => Sys2Proof.Machine.execIminI g d a imm s
  | .imaxI g d a imm => Sys2Proof.Machine.execImaxI g d a imm s
  | .andI g d a imm => Sys2Proof.Machine.execAndI g d a imm s
  | .orI g d a imm => Sys2Proof.Machine.execOrI g d a imm s
  | .xorI g d a imm => Sys2Proof.Machine.execXorI g d a imm s
  | .andnI g d a imm => Sys2Proof.Machine.execAndnI g d a imm s
  | .shlI g d a imm => Sys2Proof.Machine.execShlI g d a imm s
  | .shrI g d a imm => Sys2Proof.Machine.execShrI g d a imm s
  | .sarI g d a imm => Sys2Proof.Machine.execSarI g d a imm s
  | .rotI g d a imm => Sys2Proof.Machine.execRotI g d a imm s
  | .iadd64I g d a imm => Sys2Proof.Machine.execIadd64I g d a imm s
  | .iaddc g x d a b pc => Sys2Proof.Machine.execIaddc g x d a b pc s
  | .imulh g u d a b => Sys2Proof.Machine.execImulh g u d a b s
  | .imad g d a b c => Sys2Proof.Machine.execImad g d a b c s
  | .iabs g d a => Sys2Proof.Machine.execIabs g d a s
  | .ineg g d a => Sys2Proof.Machine.execIneg g d a s
  | .not g d a => Sys2Proof.Machine.execNot g d a s
  | .shf g left d a b c => Sys2Proof.Machine.execShf g left d a b c s
  | .bfx g sx d a b => Sys2Proof.Machine.execBfx g sx d a b s
  | .bfi g d a b c => Sys2Proof.Machine.execBfi g d a b c s
  | .popc g d a => Sys2Proof.Machine.execPopc g d a s
  | .clz g d a => Sys2Proof.Machine.execClz g d a s
  | .ctz g d a => Sys2Proof.Machine.execCtz g d a s
  | .brev g d a => Sys2Proof.Machine.execBrev g d a s
  | .prmt g d a b c => Sys2Proof.Machine.execPrmt g d a b c s
  | .sel g d a b pc => Sys2Proof.Machine.execSel g d a b pc s
  | .isetp g cmp u comb pd a b pc => Sys2Proof.Machine.execIsetp g cmp u comb pd a b pc s
  | .plop g pd pa pb pc lut => Sys2Proof.Machine.execPlop g pd pa pb pc lut s
  | .mov g d a => Sys2Proof.Machine.execMov g d a s
  | .movi g d imm => Sys2Proof.Machine.execMovi g d imm s
  | .movsv g d sv => Sys2Proof.Machine.execMovsv g d sv s
  | .lea g sh u d a b => Sys2Proof.Machine.execLea g sh u d a b s
  | .imul64 g u d a b => Sys2Proof.Machine.execImul64 g u d a b s
  | .fadd g rm d a b => Sys2Proof.Machine.execFadd g rm d a b s
  | .fsub g rm d a b => Sys2Proof.Machine.execFsub g rm d a b s
  | .fmul g rm d a b => Sys2Proof.Machine.execFmul g rm d a b s
  | .ffma g rm d a b c => Sys2Proof.Machine.execFfma g rm d a b c s
  | .fmin g d a b => Sys2Proof.Machine.execFmin g d a b s
  | .fmax g d a b => Sys2Proof.Machine.execFmax g d a b s
  | .faddI g d a imm => Sys2Proof.Machine.execFaddI g d a imm s
  | .fsubI g d a imm => Sys2Proof.Machine.execFsubI g d a imm s
  | .fmulI g d a imm => Sys2Proof.Machine.execFmulI g d a imm s
  | .fminI g d a imm => Sys2Proof.Machine.execFminI g d a imm s
  | .fmaxI g d a imm => Sys2Proof.Machine.execFmaxI g d a imm s
  | .fsetp g cmp comb pd a b pc => Sys2Proof.Machine.execFsetp g cmp comb pd a b pc s
  | .fclass g d a => Sys2Proof.Machine.execFclass g d a s
  | .frnd g rm d a => Sys2Proof.Machine.execFrnd g rm d a s
  | .fdiv g la rm d a b => Sys2Proof.Machine.execFdiv g la rm d a b s
  | .rcp g la rm d a => Sys2Proof.Machine.execRcp g la rm d a s
  | .rsq g la rm d a => Sys2Proof.Machine.execRsq g la rm d a s
  | .sqrt g la rm d a => Sys2Proof.Machine.execSqrt g la rm d a s
  | .exp2 g la rm d a => Sys2Proof.Machine.execExp2 g la rm d a s
  | .log2 g la rm d a => Sys2Proof.Machine.execLog2 g la rm d a s
  | .sint g la rm d a => Sys2Proof.Machine.execSint g la rm d a s
  | .cost g la rm d a => Sys2Proof.Machine.execCost g la rm d a s
  | .hadd2 g rm bf d a b => Sys2Proof.Machine.execHadd2 g rm bf d a b s
  | .hmul2 g rm bf d a b => Sys2Proof.Machine.execHmul2 g rm bf d a b s
  | .hfma2 g rm bf d a b c => Sys2Proof.Machine.execHfma2 g rm bf d a b c s
  | .dp4 g ua ub sat d a b c => Sys2Proof.Machine.execDp4 g ua ub sat d a b c s
  | .dp8 g ua ub sat d a b c => Sys2Proof.Machine.execDp8 g ua ub sat d a b c s
  | .dpf8 g rm af8b bf8b d a b c => Sys2Proof.Machine.execDpf8 g rm af8b bf8b d a b c s
  | .cvt g rm src dst sat ef si di d a c => Sys2Proof.Machine.execCvt g rm src dst sat ef si di d a c s
  | .qnt g fmt ef d a m e => Sys2Proof.Machine.execQnt g fmt ef d a m e s
  | .ld g la w acq sc d a imm => Sys2Proof.Machine.execLd g la w acq sc d a imm s
  | .st g w rel sc d a imm => Sys2Proof.Machine.execSt g w rel sc d a imm s
  | .ldMap g la w d a imm => Sys2Proof.Machine.execLdMap g la w d a imm s
  | .stMap g w d a imm => Sys2Proof.Machine.execStMap g w d a imm s
  | .lds g la w d a imm => Sys2Proof.Machine.execLds g la w d a imm s
  | .sts g w d a imm => Sys2Proof.Machine.execSts g w d a imm s
  | .ldt g la d a imm => Sys2Proof.Machine.execLdt g la d a imm s
  | .pref g a imm => Sys2Proof.Machine.execPref g a imm s
  | .atom g la op w64 sc ord d a b => Sys2Proof.Machine.execAtom g la op w64 sc ord d a b s
  | .atoms g la op w64 d a b c => Sys2Proof.Machine.execAtoms g la op w64 d a b c s
  | .red g op w64 sc rel a b => Sys2Proof.Machine.execRed g op w64 sc rel a b s
  | .xadd g la anchor sc ret d a b c => Sys2Proof.Machine.execXadd g la anchor sc ret d a b c s
  | .cas g la w64 sc ord d a b c => Sys2Proof.Machine.execCas g la w64 sc ord d a b c s
  | .fence g sc kind => Sys2Proof.Machine.execFence g sc kind s
  | .seal g a b => Sys2Proof.Machine.execSeal g a b s
  | .unseal g d a b => Sys2Proof.Machine.execUnseal g d a b s
  | .spalloc g d a => Sys2Proof.Machine.execSpalloc g d a s
  | .spfree g a => Sys2Proof.Machine.execSpfree g a s
  | .sectQuery g d a => Sys2Proof.Machine.execSectQuery g d a s
  | .sectClr g a => Sys2Proof.Machine.execSectClr g a s
  | .sectSet g a => Sys2Proof.Machine.execSectSet g a s
  | .tlbinvPage g a => Sys2Proof.Machine.execTlbinvPage g a s
  | .tlbinvRange g a b => Sys2Proof.Machine.execTlbinvRange g a b s
  | .tlbinvAll g => Sys2Proof.Machine.execTlbinvAll g s
  | .dlog g d a => Sys2Proof.Machine.execDlog g d a s
  | .shfl g mode w64 d a b m => Sys2Proof.Machine.execShfl g mode w64 d a b m s
  | .vote g mode d pa m => Sys2Proof.Machine.execVote g mode d pa m s
  | .scan g rm op excl d a m => Sys2Proof.Machine.execScan g rm op excl d a m s
  | .redx g rm op d a m => Sys2Proof.Machine.execRedx g rm op d a m s
  | .matchx g w64 d a m => Sys2Proof.Machine.execMatchx g w64 d a m s
  | .elect g pd m => Sys2Proof.Machine.execElect g pd m s
  | .cbarArm g c a b => Sys2Proof.Machine.execCbarArm g c a b s
  | .cbar g sc c => Sys2Proof.Machine.execCbar g sc c s
  | .rand g d a => Sys2Proof.Machine.execRand g d a s
  | .randf g d a => Sys2Proof.Machine.execRandf g d a s
  | .acpL g slack tag v vreg d a b => Sys2Proof.Machine.execAcpL g slack tag v vreg d a b s
  | .acpS g slack tag v vreg d a b => Sys2Proof.Machine.execAcpS g slack tag v vreg d a b s
  | .await g tag => Sys2Proof.Machine.execAwait g tag s
  | .kcnt g d tag => Sys2Proof.Machine.execKcnt g d tag s
  | .bcp g slack dir nosig mapd d a b c => Sys2Proof.Machine.execBcp g slack dir nosig mapd d a b c s
  | .mcast g slack len nosig d a b c => Sys2Proof.Machine.execMcast g slack len nosig d a b c s
  | .kvg g slack v stale trap spread d a m p => Sys2Proof.Machine.execKvg g slack v stale trap spread d a m p s
  | .kva g slack n nosig a b c => Sys2Proof.Machine.execKva g slack n nosig a b c s
  | .drain g slack mode nosig clr t a b c => Sys2Proof.Machine.execDrain g slack mode nosig clr t a b c s
  | .job g a => Sys2Proof.Machine.execJob g a s
  | .sigdec g a => Sys2Proof.Machine.execSigdec g a s
  | .sigadd g a b => Sys2Proof.Machine.execSigadd g a b s
  | .sigwait g cond a b => Sys2Proof.Machine.execSigwait g cond a b s
  | .sigread g la d a => Sys2Proof.Machine.execSigread g la d a s
  | .conv g c team => Sys2Proof.Machine.execConv g c team s
  | .mma g ty af8b bf8b ua ub sx sr t a b c => Sys2Proof.Machine.execMma g ty af8b bf8b ua ub sx sr t a b c s
  | .mmas g ty af8b bf8b ua ub sx sr t a b c => Sys2Proof.Machine.execMmas g ty af8b bf8b ua ub sx sr t a b c s
  | .aclr g ix t => Sys2Proof.Machine.execAclr g ix t s
  | .anch g t anchor => Sys2Proof.Machine.execAnch g t anchor s
  | .aget g la rm i32 w4 t a b => Sys2Proof.Machine.execAget g la rm i32 w4 t a b s
  | .aput g t a b => Sys2Proof.Machine.execAput g t a b s
  | .aflag g anc t a b => Sys2Proof.Machine.execAflag g anc t a b s
  | .segnew g d a b => Sys2Proof.Machine.execSegnew g d a b s
  | .segnewDel g d a => Sys2Proof.Machine.execSegnewDel g d a s
  | .segseal g a => Sys2Proof.Machine.execSegseal g a s
  | .segsum g nosig a c => Sys2Proof.Machine.execSegsum g nosig a c s
  | .link g follow d a b => Sys2Proof.Machine.execLink g follow d a b s
  | .unlink g d a b => Sys2Proof.Machine.execUnlink g d a b s
  | .kvr g a b c => Sys2Proof.Machine.execKvr g a b c s
  | .rstat g sel d a b => Sys2Proof.Machine.execRstat g sel d a b s
  | .rotq g bf d a b c => Sys2Proof.Machine.execRotq g bf d a b c s
  | .anc g pd a b c => Sys2Proof.Machine.execAnc g pd a b c s
  | .psel g d a b => Sys2Proof.Machine.execPsel g d a b s
  | .topk g pairs spin d a b => Sys2Proof.Machine.execTopk g pairs spin d a b s
  | .topp g draw spin d a b => Sys2Proof.Machine.execTopp g draw spin d a b s
  | .tmrg g d a b => Sys2Proof.Machine.execTmrg g d a b s
  | .tunm g a b c => Sys2Proof.Machine.execTunm g a b c s
  | .tmapInfo g d a => Sys2Proof.Machine.execTmapInfo g d a s
  | .tmapFree g a => Sys2Proof.Machine.execTmapFree g a s
  | .tmapParent g d a => Sys2Proof.Machine.execTmapParent g d a s
  | .szb g rm d a => Sys2Proof.Machine.execSzb g rm d a s
  | .tpop g nb any d q c => Sys2Proof.Machine.execTpop g nb any d q c s
  | .tspawn g a q => Sys2Proof.Machine.execTspawn g a q s
  | .tdone g c => Sys2Proof.Machine.execTdone g c s
  | .tsplit g => Sys2Proof.Machine.execTsplit g s
  | .tabort g => Sys2Proof.Machine.execTabort g s
  | .tabortRq g => Sys2Proof.Machine.execTabortRq g s
  | .tstat g sel d q => Sys2Proof.Machine.execTstat g sel d q s
  | .mfx g w64 sreg d => Sys2Proof.Machine.execMfx g w64 sreg d s
  | .mtx g w64 sreg a => Sys2Proof.Machine.execMtx g w64 sreg a s
  | .quiesceStop g => Sys2Proof.Machine.execQuiesceStop g s
  | .quiesceSave g d a b => Sys2Proof.Machine.execQuiesceSave g d a b s
  | .resumeRun g => Sys2Proof.Machine.execResumeRun g s
  | .resumeLoad g a => Sys2Proof.Machine.execResumeLoad g a s
  | .resumeThreads g d a c => Sys2Proof.Machine.execResumeThreads g d a c s
  | .evict g d a b c => Sys2Proof.Machine.execEvict g d a b c s
  | .halt g code => Sys2Proof.Machine.execHalt g code s
  | .smcallSensor g a c => Sys2Proof.Machine.execSmcallSensor g a c s
  | .smcallLogput g a c => Sys2Proof.Machine.execSmcallLogput g a c s
  | .smcallLogget g a c => Sys2Proof.Machine.execSmcallLogget g a c s
  | .smcallQuote g a c => Sys2Proof.Machine.execSmcallQuote g a c s
  | .smcallPowercap g a c => Sys2Proof.Machine.execSmcallPowercap g a c s
  | .softError unit lasting vf thread => Sys2Proof.Machine.execSoftError unit lasting vf thread s
  | .hostAbort thread iommu => Sys2Proof.Machine.execHostAbort thread iommu s
  | .peerFail thread => Sys2Proof.Machine.execPeerFail thread s
  | .linkDown port => Sys2Proof.Machine.execLinkDown port s
  | .peerRequest vf addr kind op w64 data data2 => Sys2Proof.Machine.execPeerRequest vf addr kind op w64 data data2 s
  | .hostWrite vf offset data => Sys2Proof.Machine.execHostWrite vf offset data s
  | .hostPush vf offset data => Sys2Proof.Machine.execHostPush vf offset data s
  | .furcfgWrite g a => Sys2Proof.Machine.execFurcfgWrite g a s
  | .uniformMissRead g d => Sys2Proof.Machine.execUniformMissRead g d s
  | .haltrecRead g d => Sys2Proof.Machine.execHaltrecRead g d s
  | .trareaWrite g count a => Sys2Proof.Machine.execTrareaWrite g count a s
  | .fqcfgWrite g a => Sys2Proof.Machine.execFqcfgWrite g a s
  | .frespResolve vf fid => Sys2Proof.Machine.execFrespResolve vf fid s
  | .frespDecline vf fid => Sys2Proof.Machine.execFrespDecline vf fid s
  | .poolfree g a => Sys2Proof.Machine.execPoolfree g a s
  | .poolstatRead g d => Sys2Proof.Machine.execPoolstatRead g d s
  | .qcfgrWrite g a => Sys2Proof.Machine.execQcfgrWrite g a s
  | .qspillrWrite g a => Sys2Proof.Machine.execQspillrWrite g a s
  | .qstatWrite g a => Sys2Proof.Machine.execQstatWrite g a s
  | .registerWrite offset val => Sys2Proof.Machine.execRegisterWrite offset val s
  | .hgcfgWrite val => Sys2Proof.Machine.execHgcfgWrite val s
  | .poolcfgWrite val => Sys2Proof.Machine.execPoolcfgWrite val s
  | .veccfgWrite high val => Sys2Proof.Machine.execVeccfgWrite high val s
  | .vfenWrite val => Sys2Proof.Machine.execVfenWrite val s
  | .pdescWrite vf word val => Sys2Proof.Machine.execPdescWrite vf word val s
  | .checkpoint => Sys2Proof.Machine.execCheckpoint s
  | .restore => Sys2Proof.Machine.execRestore s
  | .vfcmdStop vf => Sys2Proof.Machine.execVfcmdStop vf s
  | .vfcmdRun vf => Sys2Proof.Machine.execVfcmdRun vf s
  | .vfcmdSave vf => Sys2Proof.Machine.execVfcmdSave vf s
  | .vfcmdLoad vf => Sys2Proof.Machine.execVfcmdLoad vf s
  | .dlogdataRead => Sys2Proof.Machine.execDlogdataRead s
  | .firmwareUpdate valid image => Sys2Proof.Machine.execFirmwareUpdate valid image s
  | .spdmRequest function msg => Sys2Proof.Machine.execSpdmRequest function msg s
  | .coldReset failed => Sys2Proof.Machine.execColdReset failed s
  | .warmReset failed => Sys2Proof.Machine.execWarmReset failed s
  | .coolantOutOfRange => Sys2Proof.Machine.execCoolantOutOfRange s
  | .powerLimitThrottle steps => Sys2Proof.Machine.execPowerLimitThrottle steps s
  | .crewLaunch vf core crew kernel => Sys2Proof.Machine.execCrewLaunch vf core crew kernel s
  | .smcReply => Sys2Proof.Machine.execSmcReply s
  | .bundleForm => Sys2Proof.Machine.execBundleForm s
  | .ageLimitExpiry => Sys2Proof.Machine.execAgeLimitExpiry s
  | .regDeadlock => Sys2Proof.Machine.execRegDeadlock s
  | .parkEnd => Sys2Proof.Machine.execParkEnd s
  | .headgateDispatch => Sys2Proof.Machine.execHeadgateDispatch s
  | .spillwayRefill => Sys2Proof.Machine.execSpillwayRefill s
  | .tallowExpiry => Sys2Proof.Machine.execTallowExpiry s
  | .readSetHoldRelease => Sys2Proof.Machine.execReadSetHoldRelease s
  | .taskCommit => Sys2Proof.Machine.execTaskCommit s
  | .commitRecord => Sys2Proof.Machine.execCommitRecord s
  | .taskComplete => Sys2Proof.Machine.execTaskComplete s
  | .crewEnd => Sys2Proof.Machine.execCrewEnd s
  | .sigwaitReread => Sys2Proof.Machine.execSigwaitReread s
  | .sluiceBeat => Sys2Proof.Machine.execSluiceBeat s
  | .slackDecay => Sys2Proof.Machine.execSlackDecay s
  | .engineSectorTake => Sys2Proof.Machine.execEngineSectorTake s
  | .acpComplete => Sys2Proof.Machine.execAcpComplete s
  | .bcpComplete => Sys2Proof.Machine.execBcpComplete s
  | .mcastComplete => Sys2Proof.Machine.execMcastComplete s
  | .kvgRowFill => Sys2Proof.Machine.execKvgRowFill s
  | .kvgComplete => Sys2Proof.Machine.execKvgComplete s
  | .kvaComplete => Sys2Proof.Machine.execKvaComplete s
  | .drainRow => Sys2Proof.Machine.execDrainRow s
  | .drainComplete => Sys2Proof.Machine.execDrainComplete s
  | .segsumComplete => Sys2Proof.Machine.execSegsumComplete s
  | .kvrPerform => Sys2Proof.Machine.execKvrPerform s
  | .siphonDecode => Sys2Proof.Machine.execSiphonDecode s
  | .jobComplete => Sys2Proof.Machine.execJobComplete s
  | .pselComplete => Sys2Proof.Machine.execPselComplete s
  | .selectComplete => Sys2Proof.Machine.execSelectComplete s
  | .tmrgComplete => Sys2Proof.Machine.execTmrgComplete s
  | .tunmComplete => Sys2Proof.Machine.execTunmComplete s
  | .matrixOpStart => Sys2Proof.Machine.execMatrixOpStart s
  | .matrixOpComplete => Sys2Proof.Machine.execMatrixOpComplete s
  | .quotaRecheck => Sys2Proof.Machine.execQuotaRecheck s
  | .faultReport => Sys2Proof.Machine.execFaultReport s
  | .agentStop => Sys2Proof.Machine.execAgentStop s
  | .partitionHalted => Sys2Proof.Machine.execPartitionHalted s
  | .partitionQuiesced => Sys2Proof.Machine.execPartitionQuiesced s
  | .quiesceTimeout => Sys2Proof.Machine.execQuiesceTimeout s
  | .engineTimeout => Sys2Proof.Machine.execEngineTimeout s
  | .watchdog => Sys2Proof.Machine.execWatchdog s
  | .longLatencyComplete => Sys2Proof.Machine.execLongLatencyComplete s
  | .storeQueueDrain => Sys2Proof.Machine.execStoreQueueDrain s
  | .storePropagation => Sys2Proof.Machine.execStorePropagation s

end Sys2Proof.Machine
end

