-- ==== Sys2Proof/Machine/Step.lean ====
section
/-!
DEFINITION. One step of the machine, and the placing of an instruction word where the next step issues it.
-/
namespace Sys2Proof.Machine

/-- One step: one thread's part of the word that a bundle is issuing, or one event (notes/assumptions/2.md). -/
def step (s : State) : Host.Outcome State Fault Refusal :=
  match s.plan with
  | .done t => .next t
  | .event e t => exec e t
  | .word i t =>
    match exec i t with
    | .next u => .next (t.overwritten u i).settleIssue
    | .fault r => .fault r
    | .refused r => .refused r

/-- The crew that runs a placed word: one gang of partition 0 on core 0. -/
def fetchKernel : KernelDesc :=
  { codeBase := 0x30000, entry := 0, regs := 32, gangs := 1, team := 0, tiles := 0, steward := false, tconv := 0
    staticRows := 0, poolRows := 0, queues := [], baseRow := 0, lgrps := [0], physTiles := [] }

/-- Its bundle: thread 0 alone, about to issue. -/
def fetchBundle (now : Nat) : Bundle :=
  { core := 0, lgrp := 0, members := [0], todo := [0], formed := now, dissolve := false, stalled := false, replay := none
    uniform := false }

/-- What a placed word needs in memory: a table entry at level 0, a sealed leaf of 1 GiB at level 1, a clause header of
class MIXED with one word, and the word (R361, R362, R139). -/
def fetchCells (w : Nat) : List Host.Cell :=
  cellsAt 0x10000 (bytesOf 0x20001 8) ++ cellsAt 0x20000 (bytesOf 55 8) ++ cellsAt 0x30000 (bytesOf 0xFF0C000000000000 8) ++
    cellsAt 0x30008 (bytesOf w 8)

/-- The state with an instruction word where the next step issues it: a load of a program from outside and a crew launch in
one (notes/assumptions/3.md). Thread 0 of core 0, privileged, is about to issue the word in a clause of its own. -/
def State.withFetchWord (s : State) (_nbits w : Nat) : State :=
  { s with
    issue := some (fetchBundle s.now)
    threads := NMap.set s.threads 0 (newThread 0 0 0 0x30000 32 (upTo 0 32) true s.now)
    crews := NMap.set s.crews 0 (newCrew 0 fetchKernel 1)
    mem := Memory.writeAll s.mem (fetchCells w)
    flights := []
    tlb := []
    parts := NMap.set s.parts 0 { Part.reset with desc := 0x2000000000000000001, ptroot := 0x10000, everRun := true }
    host := { s.host with vfen := s.host.vfen ||| 1 } }

end Sys2Proof.Machine
end

