-- ==== Sys2Proof/Safety.lean ====
section
/-!
DEFINITION. What claims about the machine are said in: a thread that issues an instruction word, what its part of the word
leaves changed, a step that goes on, and the form that memory keeps.
-/
namespace Sys2Proof.Machine

/-- Thread `k`, in the state `t`, issues the word `i`: its part of the word is performed now, and neither the checks of
R149 nor the waits of R30 decide it (`State.gate` answers none). -/
abbrev State.issues (s : State) (i : Instr) (k : Nat) (t : Thread) : Prop :=
  s.cur? = some k ∧ s.thread? k = some t ∧ s.gate i k t = none

/-- The thread after its part of a word: in a replay of a log entry the PC and the windows stay (R46). -/
def State.after (s : State) (t : Thread) : Thread := if s.replaying then t else t.next

/-- What a word that only concerns its thread leaves: thread `k` is `t'`, every other thread and every other part of the
machine is as before, and the bundle no longer waits for thread `k`. -/
def State.did (s u : State) (k : Nat) (t' : Thread) : Prop :=
  u.thread? k = some t' ∧ (∀ j, j ≠ k → u.thread? j = s.thread? j) ∧
    u = { s with threads := u.threads, issue := s.issue.map fun b => { b with todo := b.todo.erase k, begun := true } }

/-- The word `i` completes and leaves thread `k` as `t'` after it, and nothing else changed. -/
def State.gives (s : State) (i : Instr) (k : Nat) (t' : Thread) : Prop :=
  ∃ u, exec i s = .next u ∧ s.did u k (s.after t')

/-- The thread after a long-latency word (R150): its result is outstanding and a window of LA words may open; in a replay the
result reaches its registers, and its flags FSTAT, at once (R46, R192). -/
def State.afterLong (s : State) (t : Thread) (la : Nat) (o : Outst) : Thread :=
  if s.replaying then (t.orFlags o.flags).setRegs (o.dests.headD 0) o.vals
  else
    { t.next with
      outs := t.outs ++ [o]
      wins := t.next.openWin la o.dests o.isFloat }

/-- Thread `k`'s word in the state `t` has met an imprecise cause (R45): it goes on, with its lookahead window open as after any
other issue (R150); in a replay only the cause is noted. -/
def State.afterImp (s : State) (t : Thread) (la : Nat) (dests : List Nat) (isFloat : Bool) (c : Cause) (va : DWord) : Thread :=
  if s.replaying then t.addImp c t.pc t.cb va (s.wordNo t)
  else laOf la dests isFloat (t.skip.addImp c t.pc t.cb va (t.issued + 1))

/-- The thread has loaded: it has seen these stores (R127). -/
def Thread.sees (t : Thread) (ids : List Nat) : Thread := { t with seen := ids }

/-- The thread's earlier stores have left its queue ahead of a read of a peer window (R396). -/
def Thread.behindWindow (t : Thread) (l : Loc) : Thread := if l.tgt = 4 then { t with storeq := [] } else t

/-- A store of thread `k`'s word leaves thread `j` as it was, but that the places which it has covered are noted with the logged stores
of lower lanes of the same word (R113). -/
def State.covers (s u : State) (k j : Nat) : Prop :=
  u.thread? j = s.thread? j ∨
    ∃ x l, s.thread? j = some x ∧ laneBelow j k = true ∧ u.thread? j = some { x with log := l } ∧
      l.map (fun e => { e with covered := [] }) = x.log.map fun e => { e with covered := [] }

/-- A record of thread `k`'s word enters its task's write buffer (R64): the record stands last, the thread goes on, no byte of memory
changes, and nothing else does but the page that is cached. -/
def State.buffers (s : State) (i : Instr) (k : Nat) (t : Thread) (task : Task) (r : BufRec) : Prop :=
  ∃ u, exec i s = .next u ∧ u.thread? k = some (s.after t) ∧ (∀ j, j ≠ k → u.thread? j = s.thread? j) ∧
    u.task? (t.crewKey k) = some { task with buf := task.buf ++ [r] } ∧
    u = { s with threads := u.threads, issue := u.issue, crews := u.crews, tlb := u.tlb }

/-- The write buffer of a crew's task has no room (R64, R69): the abort is asked for, and the bundle waits for the end of the cycle. -/
def State.overflows (s : State) (i : Instr) (ck : Nat) (task : Task) : Prop :=
  ∃ u, exec i s = .next u ∧ u.stalls = true ∧ u.threads = s.threads ∧ u.mem = s.mem ∧ u.flights = s.flights ∧
    u.task? ck = some { task with due := some ((task.due.map fun a => a.first (.exhausted 3)).getD (.exhausted 3)) }

/-- The tables that stand behind the on-chip map are tables: rising keys, and in every tile too. -/
def State.mapWf (s : State) : Bool := NMap.wf s.tiles && NMap.wf s.phys && s.tiles.all fun x => NMap.wf x.2.els

/-- Thread `k` has been filed (R27): every other thread is as before, but that those of its lane group that are filed in the same
cycle may have taken another furrow. -/
def State.othersFiled (s u : State) (k : Nat) : Prop :=
  ∀ j, j ≠ k → u.thread? j = s.thread? j ∨
    ∃ y f, s.thread? j = some y ∧ y.filed? ≠ none ∧ y.since = s.now ∧ coreOf j = coreOf k ∧ lgrpOf j = lgrpOf k ∧
      u.thread? j = some { y with phase := .filed f }

/-- The latest byte at a place in coherence order: what every agent reads when every store has reached it (R122). -/
def lastOf (p : Nat) (old : Byte) : List Flight → Byte
  | [] => old
  | f :: fs => lastOf p ((cellAt f.bytes p).getD old) fs

/-- The latest byte at a physical address. -/
def State.lastByte (s : State) (p : Nat) : Byte := lastOf p (s.mem.read p) s.flights

/-- Every place holds, in coherence order, what it held, but for the bytes that were stored. -/
def State.stored (s u : State) (bs : List Host.Cell) : Prop := ∀ p, u.lastByte p = (cellAt bs p).getD (s.lastByte p)

/-- No store is on its way to global memory: the queues of the threads are empty, and every agent has seen every store. -/
def State.quiet (s : State) : Prop := s.mem.wf = true ∧ s.flights = [] ∧ ∀ x ∈ s.threads, x.2.storeq = []

/-- Thread `k` comes to a JOIN or a collective with this mask and every other masked thread of its gang has arrived there (R40,
R41): `ks` are the threads that take part, in order of lane, and `s'` is the state with the arrival noted. -/
def State.arrivesLast (s : State) (k : Nat) (t : Thread) (mask : Word) (s' : State) (ks : List Nat) : Prop :=
  mask.getLsbD (laneInGang k) = true ∧ (isSteward (coreOf k) = false ∨ mask = 1) ∧
    (∀ x ∈ s.gangThreads k t, x.1 ≠ k → x.2.otherMask t.pc mask = false) ∧
    (∀ e ∈ s.gangEvicted k t, e.t.otherMask t.pc mask = false) ∧
    s' = (s.modThread k fun t => { t with arrival := some { pc := t.pc, mask := mask } }) ∧
    allArrived (s'.gangThreads k t) t.pc mask = true ∧
    ks = ((s'.gangThreads k t).filter fun x => mask.getLsbD (laneInGang x.1) && x.2.arrivedAt t.pc).map (·.1)

/-- A unit holds a new command of thread `k`'s word `i`, which the word left behind, and no part of it is done (R220). -/
def State.accepted (s u : State) (i : Instr) (k : Nat) (unit : EngUnit) : Prop :=
  ∃ c ∈ u.cmds, c.id = s.nextId ∧ c.i = i ∧ c.thr = k ∧ c.unit = unit ∧ c.fault = none ∧ c.beat = 0 ∧ c.done = 0

/-- A word that gives a unit a command completes: the command is held, thread `k` goes on as `t'`, no other thread changes. -/
def State.commands (s : State) (i : Instr) (k : Nat) (unit : EngUnit) (t' : Thread) : Prop :=
  ∃ u, exec i s = .next u ∧ s.accepted u i k unit ∧ u.thread? k = some (s.after t') ∧ ∀ j, j ≠ k → u.thread? j = s.thread? j

/-! ### The bytes that an engine moves -/

/-- The state with what the TLBs hold once a command has made these accesses, one after the other (R14, R365): each one that is
translated, as `State.cmdAccess` says, keeps its entry. Nothing but the TLBs differs. -/
def State.translated (s : State) (c : Cmd) : List (Nat × Access) → State
  | [] => s
  | (va, acc) :: as =>
    match s.cmdAccess c va acc with
    | .ok l => (s.keep l.ent).translated c as
    | .error _ => s.translated c as

/-- Where a command's access to a virtual address goes: as `State.cmdAccess` translates an address of its page, with the TLBs as they
stand or as the command's own accesses have left them by then. -/
def State.engineLoc (s : State) (c : Cmd) (acc : Access) (va : Nat) (l : Loc) (key : Nat) : Prop :=
  ∃ as p, p ≤ va ∧ p / 65536 = va / 65536 ∧ (s.translated c as).cmdAccess c p acc = .ok l ∧ key = l.key + (va - p)

/-- The byte at a virtual address as a command's unit finds it, reached for this kind of access (R66, R84, R121, R224): a reserved tail
reads as zero; else a running task's buffered byte comes first. -/
def State.engineByteAs (s : State) (c : Cmd) (acc : Access) (va : Nat) (b : Byte) : Prop :=
  ∃ l key, s.engineLoc c acc va l key ∧
    b = if inTail l va then 0
      else
        let m := s.readByte c.agent key
        match s.cmdTask c with | some t => (bufferedByte va t.buf).getD m | none => m

/-- The byte that a command's unit reads at a virtual address. -/
def State.engineByte (s : State) (c : Cmd) (va : Nat) (b : Byte) : Prop := s.engineByteAs c .read va b

/-- A command's unit reads these bytes from a virtual address on. -/
def State.engineReads (s : State) (c : Cmd) (va : Nat) (bs : List Byte) : Prop :=
  ∀ i, i < bs.length → s.engineByte c (va + i) (bs.getD i 0)

/-- Where a command's store to a virtual address goes, reached for this kind of access: a physical address, or nowhere, which is a
reserved tail (R84). -/
def State.enginePlaceAs (s : State) (c : Cmd) (acc : Access) (va : Nat) (key : Option Nat) : Prop :=
  ∃ l p, s.engineLoc c acc va l p ∧ key = if inTail l va then none else some p

/-- Where a command's store to a virtual address goes. -/
def State.enginePlace (s : State) (c : Cmd) (va : Nat) (key : Option Nat) : Prop := s.enginePlaceAs c .write va key

/-- What a command's store of bytes, each at its virtual address, leaves at physical addresses, in order. -/
def State.engineCellsAs (s : State) (c : Cmd) (acc : Access) : List (Nat × Byte) → List Host.Cell → Prop
  | [], cells => cells = []
  | (va, b) :: bs, cells =>
    ∃ key rest, s.enginePlaceAs c acc va key ∧ s.engineCellsAs c acc bs rest ∧
      cells = (match key with | some p => [(p, b)] | none => []) ++ rest

/-- The cells of a store that must be allowed as a write. -/
def State.engineCells (s : State) (c : Cmd) (bs : List (Nat × Byte)) (cells : List Host.Cell) : Prop :=
  s.engineCellsAs c .write bs cells

/-- A command stores bytes, each at its virtual address, and nothing else. -/
def State.engineStores (s u : State) (c : Cmd) (bs : List (Nat × Byte)) : Prop :=
  ∃ cells, s.engineCells c bs cells ∧ s.stored u cells

/-- The device's writes of an instruction's records (R275, R365): `ws` are checked as writes of the partition; `ts` lie in the segment
table, which is mapped read-only. Nothing else is stored. -/
def State.recordsStored (s u : State) (c : Cmd) (ws ts : List (Nat × Byte)) : Prop :=
  ∃ c1 c2, s.engineCellsAs c .write ws c1 ∧ s.engineCellsAs c .read ts c2 ∧ s.stored u (c1 ++ c2)

/-- The link entries `es`, each with its slot, are what the records of a context hold for the slots of an order. -/
def State.entriesRead (s : State) (c : Cmd) (x : Ctx) (order : List Nat) (es : List (Nat × LinkE)) : Prop :=
  es.map (·.1) = order ∧ ∀ e ∈ es, ∃ bs, bs.length = 32 ∧ s.engineReads c (x.entryVa e.1) bs ∧ e.2 = LinkE.read bs

/-- What a change of ORDER writes to a context (R275, R277): NORD, ORDER with `above` behind it, TAILBASE as the sum of the lengths, and
every entry, whose BASE is the sum of the lengths before it. -/
def orderWrites (x : Ctx) (es : List (Nat × LinkE)) (above : List Byte) : List (Nat × Byte) :=
  let before (n : Nat) : Nat := ((es.take n).map (·.2.len)).foldl (· + ·) 0
  cellsAt (x.va + 1) [BitVec.ofNat 8 es.length] ++ cellsAt (x.va + 64) ((es.map fun e => BitVec.ofNat 8 e.1) ++ above) ++
    cellsAt (x.va + 320 + 32 * x.slots + 4) (bytesOf (before es.length) 4) ++
    (es.zip (upTo 0 es.length)).flatMap fun (e, n) => cellsAt (x.va + 320 + 32 * e.1) ({ e.2 with base := before n }).bytes

/-- READY 0 and PENDING as given, for every layer of an overlay (R278, R286). -/
def maskWrites (x : Ctx) (ova : Nat) (pending : DWord) : List (Nat × Byte) :=
  cellsAt (ova + 64) ((upTo 0 x.shape.layers).flatMap fun _ => List.replicate 8 0 ++ bytesOf pending.toNat 8)

/-- What a command's store of tensor elements leaves (R229, R230): each element at its half-byte address, `w` half bytes wide; of a
byte that two elements share the other half is kept. -/
def State.elementCells (s : State) (c : Cmd) (w : Nat) : List (Nat × Nat) → List Host.Cell → List Host.Cell → Prop
  | [], acc, cells => cells = acc
  | (h, v) :: es, acc, cells =>
    ∃ key, s.enginePlace c (h / 2) key ∧
      s.elementCells c w es
        (acc ++ match key with
          | none => []
          | some p =>
            if w = 1 then
              let old := ((cellAt acc p).getD (s.readByte c.agent p)).toNat
              [(p, BitVec.ofNat 8 (if h % 2 = 0 then old / 16 * 16 + v % 16 else old % 16 + v % 16 * 16))]
            else cellsAt p (bytesOf v (w / 2))) cells

/-- A command adds values to elements in memory, one after the other, each as an atomic of its own (R233): with RNE in a format of
`n` bytes; a NaN addend counts as the canonical NaN. -/
def State.elementAdds (s0 : State) (c : Cmd) (f : NumFmt) (n : Nat) : List (Nat × Nat) → State → State → Prop
  | [], s, u => u = s
  | (h, v) :: es, s, u =>
    ∃ l p s', s0.engineLoc c .write (h / 2) l p ∧ s0.elementAdds c f n es s' u ∧
      if inTail l (h / 2) = true then s' = s
      else s.stored s' (cellsAt p (bytesOf
        (fAdd f .rne (natOf (s.readAtom c.agent (atomScope l) p n)) (if (decodeFloat f v).isNan then canonNaN f else v)).1 n))

/-- A command adds exact contributions to elements, one after the other (R90, R233): each of its value and its flags at an anchor, in a
memory described at `desc`. What one addition leaves, `State.exactAdd` says. -/
def State.elementXadds (s0 : State) (c : Cmd) (dl : Loc) (desc : Nat) (anchor : Int) : List ((Nat × Nat) × BitVec 4) → State → State → Prop
  | [], s, u => u = s
  | ((h, v), fl) :: es, s, u =>
    ∃ as l, (s0.translated c as).cmdAccess c (h / 2) .write = .ok l ∧
      s0.elementXadds c dl desc anchor es
        (s.exactAdd (cmdWriter c.id) c.agent (atomScope l) c.vf l dl (h / 2) desc (signedOf 128 v) anchor fl []).1 u

/-- The value that a bulk load gives point `e` of its box (R117, R229 to R231, R233): the fill outside the tensor; else the
element at the point's place, which a load that decodes finds, with its scale, in the formatted page and rounds to BF16. -/
def State.boxValue (s : State) (c : Cmd) (t : Tlr) (cs : List Int) (e v : Nat) : Prop :=
  if t.decode then
    match t.typedPlace cs e with
    | none => v = t.fillValue
    | some j => ∃ as l, (s.translated c as).typedBase c t.base = .ok l ∧
        (let n := pageElems l.elem l.geom
         let j := j % 2 ^ 32
         let page := t.base + 65536 * (j / n)
         let (off, nb, sh, so) := elemPlace l.elem l.geom (j % n)
         ∃ bs sc, bs.length = nb ∧ s.engineReads c (page + off) bs ∧ s.engineByte c (page + so) sc ∧
           v = (narrow .bf16 .rne false (elemValue l.elem bs sh sc)).1)
  else
    match t.place cs e with
    | none => v = t.fillValue
    | some h => ∃ bs, bs.length = max 1 (t.size2 / 2) ∧ s.engineReads c (h / 2) bs ∧ v = natOf bs / 16 ^ (h % 2) % 16 ^ t.size2

/-- The bytes of 32-byte words of a segment's or tail block's storage from offset `o` on, as a command reads them through the block
list (R272). -/
def State.spaceBytes (s : State) (c : Cmd) (hdr : SegHdr) (blist o n : Nat) (bs : List Byte) : Prop :=
  bs.length = 32 * n ∧ ∀ w, w < n → ∃ blk, blk.length = 4 ∧
    s.engineReads c (blist + 4 * ((o + 32 * w) / hdr.p)) blk ∧
    s.engineReads c (hdr.poolva + natOf blk * hdr.p + (o + 32 * w) % hdr.p) ((bs.drop (32 * w)).take 32)

/-! ### Selection and merging (R296 to R308) -/

/-- A finite value in units of 2^g, for a g that is not above its exponent. -/
def FVal.units (g : Int) : FVal → Int
  | .fin neg m e => (if neg then -1 else 1) * (m * 2 ^ (e - g).toNat)
  | _ => 0

/-- The value is finite, and its exponent is not below `g`. -/
def FVal.finiteFrom (g : Int) (v : FVal) : Prop := ∃ neg m e, v = .fin neg m e ∧ g ≤ e

/-- `ps` are the places of the first `k` elements of `xs`, in order: one that is strictly `before` another comes first, and of two that
are not the one at the lower place. -/
def picks {α : Type} (before : α → α → Prop) (xs : List α) (k : Nat) (ps : List Nat) : Prop :=
  let first (i j : Nat) : Prop :=
    ∀ x y, xs[i]? = some x → xs[j]? = some y → before x y ∨ (¬before y x ∧ i < j)
  ps.length = min k xs.length ∧ (∀ p ∈ ps, p < xs.length) ∧ ps.Pairwise first ∧ ps.Nodup ∧
    ∀ p ∈ ps, ∀ j < xs.length, j ∉ ps → first p j

/-- A candidate of a PSEL is what its handle names (R237, R297): nothing, the tail, or a block with the minima and maxima of its
summary record. -/
def State.candidateIs (s : State) (c : Cmd) (x : Ctx) (layer head : Nat) (h : Word) (cd : Candidate) : Prop :=
  let e := h.toNat / 2 ^ 24
  let b := h.toNat % 2 ^ 24
  let entry := c.kv.find? fun v => v.slot == e
  (cd = .skip ∧ (h = 0xFFFFFFFF ∨ x.slots < e ∨ (e < x.slots ∧ ∀ v, entry = some v → ceilDiv v.len 32 ≤ b ∨
      ∃ ds, ds.length = 64 ∧ s.engineReads c (s.segVa c.vf v.seg) ds ∧
        ((Seg.read ds).shape.layers ≤ layer ∨ (Seg.read ds).shape.heads ≤ head)) ∨
    (e = x.slots ∧ ceilDiv (TailE.read (c.recd.drop 128)).len 32 ≤ b))) ∨
  (cd = .tail ∧ h ≠ 0xFFFFFFFF ∧ e = x.slots ∧ b < ceilDiv (TailE.read (c.recd.drop 128)).len 32) ∨
  (h ≠ 0xFFFFFFFF ∧ e < x.slots ∧ ∃ v ds bs, entry = some v ∧ b < ceilDiv v.len 32 ∧ ds.length = 64 ∧
    s.engineReads c (s.segVa c.vf v.seg) ds ∧
    let g := Seg.read ds
    layer < g.shape.layers ∧ head < g.shape.heads ∧
      s.spaceBytes c c.segHdr g.blist (g.sumAt b layer head) (g.shape.d / 4) bs ∧
      cd = .block (floatsOf (bs.take (4 * g.shape.d))) (floatsOf (bs.drop (4 * g.shape.d))))

/-- The merges that a TMRG decides, each a member of A with its best match in B (R308): the `r` members that rank highest. -/
def mergesAre (n r : Nat) (sim : Nat → Nat → Option FVal) (into : List (Nat × Nat)) : Prop :=
  let best (a b : Nat) : Prop := b < n ∧ b % 2 = 1 ∧
    ∀ b' < n, b' % 2 = 1 → ranksAbove (sim a b') (sim a b) = false ∧ (b' < b → ranksAbove (sim a b) (sim a b') = true)
  into.length = r ∧ (into.map (·.1)).Nodup ∧ (∀ z ∈ into, z.1 < n ∧ z.1 % 2 = 0 ∧ best z.1 z.2) ∧
    ∀ z ∈ into, ∀ a < n, a % 2 = 0 → a ∉ into.map (·.1) → ∀ b, best a b →
      ranksAbove (sim z.1 z.2) (sim a b) = true ∨ (ranksAbove (sim a b) (sim z.1 z.2) = false ∧ z.1 < a)

/-! ### The bytes of a job (R245) -/

/-- The byte of a job's stream at offset `n`. -/
def State.streamByte (s : State) (c : Cmd) (n : Nat) (b : Byte) : Prop := n < c.card.srclen ∧ s.engineByte c (c.card.src + n) b

/-- These bits stand in a job's stream from bit `pos` on, the least significant bit of a byte first (RFC 1951). -/
def State.streamBits (s : State) (c : Cmd) (pos : Nat) (xs : List Bool) : Prop :=
  ∀ i x, xs[i]? = some x → ∃ b, s.streamByte c ((pos + i) / 8) b ∧ b.getLsbD ((pos + i) % 8) = x

/-- This number of `n` bits stands in a job's stream from bit `pos` on, its least significant bit first. -/
def State.streamNum (s : State) (c : Cmd) (pos n x : Nat) : Prop := x < 2 ^ n ∧ s.streamBits c pos ((upTo 0 n).map x.testBit)

/-- The code of a symbol in the canonical code of these lengths: the codes of one length count up in order of symbol and come after
all the shorter ones (RFC 1951). -/
def canonCode (ls : List Nat) (x : Nat) : Nat :=
  let n := ls.getD x 0
  ((upTo 0 ls.length).map fun y =>
    let m := ls.getD y 0
    if 0 < m ∧ m < n then 2 ^ (n - m) else if m = n ∧ y < x then 1 else 0).foldl (· + ·) 0

/-- The symbol `x` of the code of these lengths stands in a job's stream from bit `pos` on, the most significant bit of its code first,
and ends before bit `p`. -/
def State.symbolAt (s : State) (c : Cmd) (ls : List Nat) (pos x p : Nat) : Prop :=
  let n := ls.getD x 0
  x < ls.length ∧ 0 < n ∧ n ≤ 15 ∧ p = pos + n ∧ s.streamBits c pos ((upTo 0 n).map fun i => (canonCode ls x).testBit (n - 1 - i))

/-- A token of a compressed block stands in a job's stream from bit `pos` on and ends before bit `p`: `lit` and `dist` are the lengths
of its codes. -/
def State.tokenAt (s : State) (c : Cmd) (lit dist : List Nat) (pos p : Nat) : DToken → Prop
  | .lit b => b < 256 ∧ s.symbolAt c lit pos b p
  | .stop => s.symbolAt c lit pos 256 p
  | .copy n d => ∃ x y lb le db de ex dx p1 p2, 257 ≤ x ∧ s.symbolAt c lit pos x p1 ∧ lengthBase[x - 257]? = some (lb, le) ∧
      s.streamNum c p1 le ex ∧ n = lb + ex ∧ s.symbolAt c dist (p1 + le) y p2 ∧ distBase[y]? = some (db, de) ∧
      s.streamNum c p2 de dx ∧ d = db + dx ∧ p = p2 + de

/-- Code lengths stand in a job's stream from bit `pos` to bit `p`, coded with the lengths `cl`: `n` symbols that make `acc` into `all`.
Symbols 0 to 15 are lengths; 16 repeats the last one 3 to 6 times; 17 and 18 stand for 3 to 10 and 11 to 138 zeros. -/
def State.lengthsAt (s : State) (c : Cmd) (cl : List Nat) : Nat → List Nat → Nat → List Nat → Nat → Prop
  | 0, acc, pos, all, p => all = acc ∧ p = pos
  | n + 1, acc, pos, all, p => ∃ x q, s.symbolAt c cl pos x q ∧
      ((x < 16 ∧ s.lengthsAt c cl n (acc ++ [x]) q all p) ∨
       (x = 16 ∧ ∃ v r, acc.getLast? = some v ∧ s.streamNum c q 2 r ∧
         s.lengthsAt c cl n (acc ++ List.replicate (3 + r) v) (q + 2) all p) ∨
       (x = 17 ∧ ∃ r, s.streamNum c q 3 r ∧ s.lengthsAt c cl n (acc ++ List.replicate (3 + r) 0) (q + 3) all p) ∨
       (x = 18 ∧ ∃ r, s.streamNum c q 7 r ∧ s.lengthsAt c cl n (acc ++ List.replicate (11 + r) 0) (q + 7) all p))

/-- A job writes one byte of its output, and nothing else. -/
def State.puts (s u : State) (c : Cmd) (o : Nat) (b : Byte) : Prop :=
  o < c.card.dstcap ∧ s.engineStores u c [(c.card.dst + o, b)]

/-- A job writes these bytes from output offset `o` on, one after the other. -/
def State.putsAll (c : Cmd) : List Byte → Nat → State → State → Prop
  | [], _, s, u => u = s
  | b :: bs, o, s, u => ∃ s', s.puts s' c o b ∧ State.putsAll c bs (o + 1) s' u

/-- A job copies `n` bytes of its output from `d` back to offset `o` on, one at a time, so that a copy may read what it wrote. -/
def State.putsBack (c : Cmd) (d : Nat) : Nat → Nat → State → State → Prop
  | 0, _, s, u => u = s
  | n + 1, o, s, u => ∃ b s', s.engineByteAs c .write (c.card.dst + (o - d)) b ∧ s.puts s' c o b ∧ State.putsBack c d n (o + 1) s' u

/-- A job copies `n` bytes of its stream to the same offsets of its output, from `o` on, one at a time. -/
def State.putsStream (c : Cmd) : Nat → Nat → State → State → Prop
  | 0, _, s, u => u = s
  | n + 1, o, s, u => ∃ b s', s.streamByte c o b ∧ s.puts s' c o b ∧ State.putsStream c n (o + 1) s' u

/-- A job decodes `n` tokens of a compressed block, from bit `pos` and output offset `o` to `p` and `q`: a literal is written as it is, a
copy repeats the output from its distance back, which is not beyond the output's start. -/
def State.inflates (c : Cmd) (lit dist : List Nat) : Nat → Nat → Nat → State → Nat → Nat → State → Prop
  | 0, pos, o, s, p, q, u => u = s ∧ p = pos ∧ q = o
  | n + 1, pos, o, s, p, q, u => ∃ pos' s',
      (∃ b, s.tokenAt c lit dist pos pos' (.lit b) ∧ s.puts s' c o (BitVec.ofNat 8 b) ∧
        State.inflates c lit dist n pos' (o + 1) s' p q u) ∨
      (∃ len d, s.tokenAt c lit dist pos pos' (.copy len d) ∧ d ≤ o ∧ State.putsBack c d len o s s' ∧
        State.inflates c lit dist n pos' (o + len) s' p q u)

/-- How a compressed block ends once its whole tokens are decoded, at bit `p` and output offset `q` (R244 to R246): at its end code; as a
bad stream; at a fault; or, with the bytes of the last token written that there is room for, at the capacity. -/
def State.blockEnds (s : State) (c : Cmd) (lit dist : List Nat) (last : Bool) (p q : Nat) (u : State) : Prop :=
  let used := ceilDiv p 8
  (∃ p', s.tokenAt c lit dist p p' .stop ∧ u = if last then s.jobEnd c 0 q (ceilDiv p' 8) else s.jobAt c p' q) ∨
    u = s.jobEnd c 2 q used ∨
    ∃ k s', ((k = 0 ∧ s' = s) ∨
        ∃ len d p', s.tokenAt c lit dist p p' (.copy len d) ∧ d ≤ q ∧ k < len ∧ State.putsBack c d k q s s') ∧
      ((c.card.dstcap ≤ q + k ∧ u = s'.jobEnd c 1 c.card.dstcap used) ∨ ∃ e, u = s'.jobFault c e used (q + k))

/-- Every scratchpad byte outside the given runs of `n` bytes is as before. -/
def State.scratchOutside (s u : State) (as : List Nat) (n : Nat) : Prop :=
  ∀ p, (∀ a ∈ as, p < a ∨ a + n ≤ p) → u.scratch.read p = s.scratch.read p

/-- Element k of row (or column) i of an MMA operand, which the team's threads hold from register `a` on (R258): word q of the row is
register a + q mod n of team thread i + 64 ⌊q / n⌋, with n registers to a thread. -/
def State.teamElem (s : State) (m : MatOp) (a : Reg) (w i k : Nat) : Nat :=
  let n := 32 / m.team
  let q := k * w / 32
  match s.teamThread m (i + 64 * (q / n)) with
  | some t => elemOf (t.reg (a.toNat + q % n)) w (k * w % 32 / w)
  | none => 0

/-- Element k of column j of an MMAS's image: 64 bytes at the image's address + 64 j (R261). -/
def State.imageElem (s : State) (m : MatOp) (w j k : Nat) : Nat :=
  match s.crew? (m.core * 64 + m.crew) with
  | some cr => natOf (s.readScr (crewAddr m.core cr (m.sa + 64 * j)) 64) / 2 ^ (w * k) % 2 ^ w
  | none => 0

/-- A step goes on: it answers a next state. -/
def goesOn (o : Out) : Prop := ∃ t, o = .next t

/-- The tables of the machine are tables: global memory and the scratchpads are in their canonical form, and the keys of the
threads, the crews, the sectors, the pool blocks, the tiles with their elements and the unowned registers strictly rise. -/
def State.wf (s : State) : Bool := s.mem.wf && s.scratch.wf && NMap.wf s.threads && NMap.wf s.crews && NMap.wf s.sectors &&
  NMap.wf s.pool && s.mapWf

end Sys2Proof.Machine
end

