-- ==== Sys2Proof/Certificates/Slice0/Obligations.lean ====
section
/-!
DEFINITION. The statements for the provers. Each docstring names the rules of spec/ that its statement comes from; a next state is
said with the words of Safety.lean (`issues`, `gives`, `did`, `stored`, `commands`).
-/
open Sys2Proof Sys2Proof.Machine

/-- R149, R153, R156, R148: what decides a word before its own effect. A word that no steward core has takes ILLEGAL_OPCODE there;
then a privileged word at the unprivileged level takes PRIVILEGED; then a bad field takes ILLEGAL_MODIFIER, whatever the
guard; then a false guard retires the word with no effect; then an ENTER out of its place takes ILLEGAL_MODIFIER (R164); then a
register beyond the allocation takes REG_RANGE.

R46, R150, R159, R178: what holds a legal word back. It parks on FAULT when it may not pass the operand log; it takes
LA_VIOLATION when it breaks a window; it makes its bundle not ready when it depends on an outstanding result or writes a
held register; with none of these it is the thread's to perform. A replayed word has passed all of this when it was logged
(notes/assumptions/18.md). -/
def Obligations.ChecksAndWaits : Prop :=
  (∀ (s : State) (i : Instr) (k : Nat) (t : Thread), s.cur? = some k → s.thread? k = some t → s.replaying = true →
     s.issues i k t) ∧
  (∀ (s : State) (i : Instr) (k : Nat) (t : Thread), isEvent i = false → s.cur? = some k → s.thread? k = some t →
     s.replaying = false →
     ((isSteward (coreOf k) = true ∧ (infoOf i).noSteward = true) → exec i s = .next (s.trap k .illegalOpcode)) ∧
     (¬(isSteward (coreOf k) = true ∧ (infoOf i).noSteward = true) →
       ((infoOf i).priv = true ∧ t.priv = false → exec i s = .next (s.trap k .privileged)) ∧
       (¬((infoOf i).priv = true ∧ t.priv = false) →
         (i.wellFormed = false → exec i s = .next (s.trap k .illegalModifier)) ∧
         (i.wellFormed = true →
           (t.guard (infoOf i).g = false → exec i s = .next (s.retire k)) ∧
           (t.guard (infoOf i).g = true → misplaced i t = true → exec i s = .next (s.trap k .illegalModifier)) ∧
           (t.guard (infoOf i).g = true → misplaced i t = false → (∃ r ∈ (infoOf i).reads ++ (infoOf i).writes, 8 * t.alloc ≤ r) →
             exec i s = .next (s.trap k .regRange)))))) ∧
  (∀ (s : State) (i : Instr) (k : Nat) (t : Thread), isEvent i = false → s.cur? = some k → s.thread? k = some t →
     ¬(isSteward (coreOf k) = true ∧ (infoOf i).noSteward = true) → ¬((infoOf i).priv = true ∧ t.priv = false) →
     i.wellFormed = true → misplaced i t = false → t.guard (infoOf i).g = true →
     (∀ r ∈ (infoOf i).reads ++ (infoOf i).writes, r < 8 * t.alloc) → s.replaying = false →
     ((infoOf i).stopsAtLog t = true → exec i s = .next (s.park k .fault)) ∧
     ((infoOf i).stopsAtLog t = false →
       ((infoOf i).breaksWindow t = true → exec i s = .next (s.trap k .laViolation)) ∧
       ((infoOf i).breaksWindow t = false →
         ((infoOf i).busy t = true ∨ (infoOf i).blocked t = true → exec i s = .next s.stall) ∧
         ((infoOf i).busy t = false ∧ (infoOf i).blocked t = false → s.issues i k t))))

/-- The step runs what it decodes (R139 to R142, R149, R204): when a bundle is issuing, nothing is to be delivered to its next
thread, the thread holds the clause it stands in, or its clause can be fetched, the entry of the clause, if it stands there, waits
for nothing, and the word it issues decodes and passes the decode checks, then the step is that instruction's meaning. After it,
earlier results that the word has overwritten are dead (R253, `overwritten`), and the bundle goes on when its last member has issued
(`settleIssue`). The last word of a REFORM clause marks the bundle first. -/
def Obligations.StepRunsWord : Prop :=
  ∀ (s u : State) (b : Bundle) (k : Nat) (t : Thread) (rest : List Nat) (h : Header) (ws : List DWord) (n : Nat) (w : DWord)
    (i : Instr),
    s.issue = some b → b.todo = k :: rest → s.thread? k = some t → t.waiting = false →
    ((t.holds? = some (h, ws) ∧ u = s) ∨ (t.holds? = none ∧ s.fetchClause k t = .words u h ws)) →
    (t.pc = t.cb → t.log = [] ∧ u.clauseWaits k t h = none ∧ n = 1) →
    (t.pc ≠ t.cb → t.pc = t.cb + BitVec.ofNat 64 (8 * n)) → 1 ≤ n → n ≤ h.count.toNat + 1 → ws.getD (n - 1) 0 = w →
    decode w = .instr i → opcAssigned (w.extractLsb' 56 8) = true →
    ¬(isSteward (coreOf k) = true ∧ stewardRefuses (w.extractLsb' 56 8) = true) → ¬(privWord w = true ∧ t.priv = false) →
    let v : State := if h.reform = true ∧ n = h.count.toNat + 1 then u.dissolve else u
    let z : State := v.modThread k fun x => { x with pc := t.cb + BitVec.ofNat 64 (8 * n), code := some (t.cb, h, ws) }
    step s = match exec i z with
      | .next w => .next (z.overwritten w i).settleIssue
      | .fault r => .fault r
      | .refused r => .refused r

/-- Every step goes on: no step of any state ends the machine. What the spec calls a fault is a trap, a halted partition or a
report, and each is a next state (R8, R348, R351). -/
def Obligations.EveryStepGoesOn : Prop := ∀ s : State, goesOn (step s)

/-- A word that a decoder reads back: for every well-formed instruction, decoding its encoding gives it (R143 to R147, R154). -/
def Obligations.DecodeOfEncode : Prop :=
  ∀ (i : Instr) (w : DWord), i.wellFormed = true → encode i = some w → decode w = .instr i

/-- R169: each operation of the table writes its result to D and changes nothing else; `y` is the second operand, register b or
the immediate of the RRI form. The result is said through the numbers that the registers hold. -/
def Obligations.IntegerArithmetic : Prop :=
  ∀ (s : State) (k : Nat) (t : Thread) (g : Guard) (d a b : Reg) (imm : Word),
    (∀ x ∈ ([ (.iadd g d a b, fun v y => v.toNat = ((t.r a).toNat + y.toNat) % 2 ^ 32),
              (.isub g d a b, fun v y => v.toNat = ((t.r a).toNat + (2 ^ 32 - y.toNat)) % 2 ^ 32),
              (.imul g d a b, fun v y => v.toNat = (t.r a).toNat * y.toNat % 2 ^ 32),
              (.imin g false d a b, fun v y => v.toInt = min (t.r a).toInt y.toInt),
              (.imin g true d a b, fun v y => v.toNat = min (t.r a).toNat y.toNat),
              (.imax g false d a b, fun v y => v.toInt = max (t.r a).toInt y.toInt),
              (.imax g true d a b, fun v y => v.toNat = max (t.r a).toNat y.toNat),
              (.and g d a b, fun v y => ∀ n, v.getLsbD n = ((t.r a).getLsbD n && y.getLsbD n)),
              (.or g d a b, fun v y => ∀ n, v.getLsbD n = ((t.r a).getLsbD n || y.getLsbD n)),
              (.xor g d a b, fun v y => ∀ n, v.getLsbD n = ((t.r a).getLsbD n != y.getLsbD n)),
              (.andn g d a b, fun v y => ∀ n, v.getLsbD n = ((t.r a).getLsbD n && !y.getLsbD n)),
              (.shl g d a b, fun v y => v.toNat = (t.r a).toNat * 2 ^ y.toNat % 2 ^ 32),
              (.shr g d a b, fun v y => v.toNat = (t.r a).toNat / 2 ^ y.toNat),
              (.sar g d a b, fun v y => v.toInt = (t.r a).toInt / (2 ^ y.toNat : Nat)),
              (.rot g d a b, fun v y => ∀ n < 32, v.getLsbD ((n + y.toNat) % 32) = (t.r a).getLsbD n) ] :
            List (Instr × (Word → Word → Prop))),
      s.issues x.1 k t → ∃ v, s.gives x.1 k (t.setReg d.toNat v) ∧ x.2 v (t.r b)) ∧
    (∀ x ∈ ([ (.iaddI g d a imm, fun v y => v.toNat = ((t.r a).toNat + y.toNat) % 2 ^ 32),
              (.isubI g d a imm, fun v y => v.toNat = ((t.r a).toNat + (2 ^ 32 - y.toNat)) % 2 ^ 32),
              (.imulI g d a imm, fun v y => v.toNat = (t.r a).toNat * y.toNat % 2 ^ 32),
              (.iminI g d a imm, fun v y => v.toInt = min (t.r a).toInt y.toInt),
              (.imaxI g d a imm, fun v y => v.toInt = max (t.r a).toInt y.toInt),
              (.andI g d a imm, fun v y => ∀ n, v.getLsbD n = ((t.r a).getLsbD n && y.getLsbD n)),
              (.orI g d a imm, fun v y => ∀ n, v.getLsbD n = ((t.r a).getLsbD n || y.getLsbD n)),
              (.xorI g d a imm, fun v y => ∀ n, v.getLsbD n = ((t.r a).getLsbD n != y.getLsbD n)),
              (.andnI g d a imm, fun v y => ∀ n, v.getLsbD n = ((t.r a).getLsbD n && !y.getLsbD n)),
              (.shlI g d a imm, fun v y => v.toNat = (t.r a).toNat * 2 ^ y.toNat % 2 ^ 32),
              (.shrI g d a imm, fun v y => v.toNat = (t.r a).toNat / 2 ^ y.toNat),
              (.sarI g d a imm, fun v y => v.toInt = (t.r a).toInt / (2 ^ y.toNat : Nat)),
              (.rotI g d a imm, fun v y => ∀ n < 32, v.getLsbD ((n + y.toNat) % 32) = (t.r a).getLsbD n) ] :
            List (Instr × (Word → Word → Prop))),
      s.issues x.1 k t → ∃ v, s.gives x.1 k (t.setReg d.toNat v) ∧ x.2 v imm) ∧
    (s.issues (.iadd64 g d a b) k t → ∃ v : DWord,
      s.gives (.iadd64 g d a b) k (t.setPair d v) ∧ v.toNat = ((t.pair a).toNat + (t.pair b).toNat) % 2 ^ 64) ∧
    (s.issues (.iadd64I g d a imm) k t → ∃ v : DWord,
      s.gives (.iadd64I g d a imm) k (t.setPair d v) ∧ (v.toNat : Int) = ((t.pair a).toNat + imm.toInt) % (2 ^ 64 : Nat))

/-- R170, the operations with one result register: each writes its result to D and changes nothing else.

R170, the operations with a carry or with a pair result. A carry written to p7 is discarded (`setPred`). -/
def Obligations.IntegerBits : Prop :=
  (∀ (s : State) (k : Nat) (t : Thread) (g : Guard) (d a b c : Reg) (pc : Pred) (imm : Word),
     ∀ x ∈ ([ (.imulh g false d a b, fun v => v.toInt = (t.r a).toInt * (t.r b).toInt / (2 ^ 32 : Nat)),
              (.imulh g true d a b, fun v => v.toNat = (t.r a).toNat * (t.r b).toNat / 2 ^ 32),
              (.imad g d a b c, fun v => v.toNat = ((t.r a).toNat * (t.r b).toNat + (t.r c).toNat) % 2 ^ 32),
              (.iabs g d a, fun v => v.toNat = (t.r a).toInt.natAbs),
              (.ineg g d a, fun v => v.toNat = (2 ^ 32 - (t.r a).toNat) % 2 ^ 32),
              (.not g d a, fun v => ∀ n < 32, v.getLsbD n = !(t.r a).getLsbD n),
              (.shf g false d a b c, fun v =>
                v.toNat = ((t.r b).toNat * 2 ^ 32 + (t.r a).toNat) / 2 ^ ((t.r c).toNat % 32) % 2 ^ 32),
              (.shf g true d a b c, fun v =>
                v.toNat = ((t.r b).toNat * 2 ^ 32 + (t.r a).toNat) * 2 ^ ((t.r c).toNat % 32) / 2 ^ 32 % 2 ^ 32),
              (.bfx g false d a b, fun v =>
                let pos := (t.r b).toNat % 32
                let w := min ((t.r b).toNat / 256 % 64) (32 - pos)
                v.toNat = (t.r a).toNat / 2 ^ pos % 2 ^ w),
              (.bfx g true d a b, fun v =>
                let pos := (t.r b).toNat % 32
                let w := min ((t.r b).toNat / 256 % 64) (32 - pos)
                let x := (t.r a).toNat / 2 ^ pos % 2 ^ w
                v.toInt = if w = 0 then 0 else if x < 2 ^ (w - 1) then (x : Int) else (x : Int) - (2 ^ w : Nat)),
              (.bfi g d a b c, fun v =>
                let pos := (t.r b).toNat % 32
                let w := min ((t.r b).toNat / 256 % 64) (32 - pos)
                ∀ n < 32, v.getLsbD n = if pos ≤ n ∧ n < pos + w then (t.r a).getLsbD (n - pos) else (t.r c).getLsbD n),
              (.popc g d a, fun v => v.toNat = ((List.range 32).filter fun n => (t.r a).getLsbD n).length),
              (.clz g d a, fun v => v.toNat ≤ 32 ∧ (v.toNat < 32 → (t.r a).getLsbD (31 - v.toNat) = true) ∧
                ∀ n < 32, 32 - v.toNat ≤ n → (t.r a).getLsbD n = false),
              (.ctz g d a, fun v => v.toNat ≤ 32 ∧ (v.toNat < 32 → (t.r a).getLsbD v.toNat = true) ∧
                ∀ n < v.toNat, (t.r a).getLsbD n = false),
              (.brev g d a, fun v => ∀ n < 32, v.getLsbD n = (t.r a).getLsbD (31 - n)),
              (.prmt g d a b c, fun v => ∀ n < 4,
                let sel := (t.r c).toNat / 2 ^ (4 * n) % 16
                let y := ((t.r b).toNat * 2 ^ 32 + (t.r a).toNat) / 2 ^ (8 * (sel % 8)) % 256
                v.toNat / 2 ^ (8 * n) % 256 = if 8 ≤ sel then (if 128 ≤ y then 255 else 0) else y),
              (.sel g d a b pc, fun v => v = if t.pred pc then t.r a else t.r b),
              (.mov g d a, fun v => v = t.r a),
              (.movi g d imm, fun v => v = imm) ] : List (Instr × (Word → Prop))),
       s.issues x.1 k t → ∃ v, s.gives x.1 k (t.setReg d.toNat v) ∧ x.2 v) ∧
  (∀ (s : State) (k : Nat) (t : Thread) (g : Guard) (x u : Bool) (d a b : Reg) (pc : Pred) (sh : BitVec 3),
     (s.issues (.iaddc g x d a b pc) k t →
       let n := (t.r a).toNat + (t.r b).toNat + (if x = true ∧ t.pred pc = true then 1 else 0)
       s.gives (.iaddc g x d a b pc) k ((t.setPred pc (decide (2 ^ 32 ≤ n))).setReg d.toNat (BitVec.ofNat 32 n))) ∧
     (s.issues (.lea g sh u d a b) k t → ∃ v : DWord, s.gives (.lea g sh u d a b) k (t.setPair d v) ∧
       (v.toNat : Int) =
         ((t.pair a).toNat + (if u then ((t.r b).toNat : Int) else (t.r b).toInt) * (2 ^ sh.toNat : Nat)) % (2 ^ 64 : Nat)) ∧
     (s.issues (.imul64 g true d a b) k t → ∃ v : DWord, s.gives (.imul64 g true d a b) k (t.setPair d v) ∧
       v.toNat = (t.r a).toNat * (t.r b).toNat) ∧
     (s.issues (.imul64 g false d a b) k t → ∃ v : DWord, s.gives (.imul64 g false d a b) k (t.setPair d v) ∧
       v.toInt = (t.r a).toInt * (t.r b).toInt))

/-- R171 (ISETP) and R172: the predicate written, from predicates and registers as they stood. p7 reads true and a write to
it is discarded (R22). -/
def Obligations.PredicateResults : Prop :=
  ∀ (s : State) (k : Nat) (t : Thread) (g : Guard) (cmp : Cmp) (u : Bool) (comb : Comb) (pd pa pb pc : Pred) (a b : Reg)
    (lut : BitVec 8),
    t.pred 7 = true ∧ (∀ v, t.setPred 7 v = t) ∧ (∀ v, pd ≠ 7 → (t.setPred pd v).pred pd = v) ∧
    (∀ v q, q ≠ pd → (t.setPred pd v).pred q = t.pred q) ∧
    (s.issues (.isetp g cmp u comb pd a b pc) k t →
      let x : Int := if u then ((t.r a).toNat : Int) else (t.r a).toInt
      let y : Int := if u then ((t.r b).toNat : Int) else (t.r b).toInt
      let r : Bool :=
        match cmp with
        | .eq => decide (x = y) | .ne => decide (x ≠ y) | .lt => decide (x < y) | .le => decide (x ≤ y)
        | .gt => decide (y < x) | .ge => decide (y ≤ x) | .unord => false | .ord => false
      let q := t.pred pc
      s.gives (.isetp g cmp u comb pd a b pc) k
        (t.setPred pd (match comb with | .none => r | .and => r && q | .or => r || q | .xor => r != q))) ∧
    (s.issues (.plop g pd pa pb pc lut) k t →
      s.gives (.plop g pd pa pb pc lut) k (t.setPred pd
        (lut.getLsbD (4 * (t.pred pa).toNat + 2 * (t.pred pb).toNat + (t.pred pc).toNat))))

/-- R12, R23, R173: what MOVSV writes, on a compute core and on a steward core. -/
def Obligations.SpecialValues : Prop :=
  ∀ (s : State) (k : Nat) (t : Thread) (g : Guard) (d : Reg) (sv : SpecialValue) (cr : Crew),
    s.issues (.movsv g d sv) k t → s.crew? (t.crewKey k) = some cr →
    let steward : Bool := decide (128 ≤ coreOf k)
    let lane := laneOf k % 32
    let v : Nat :=
      match sv with
      | .tid => if steward then 0 else t.gang * 32 + lane
      | .lane => if steward then 0 else lane
      | .gang => if steward then 0 else t.gang
      | .lgrp => if steward then 0 else laneOf k / 32
      | .team => if steward ∨ cr.team = 0 ∨ cr.ngang / cr.team * cr.team ≤ t.gang then 0xFFFFFFFF else t.gang / cr.team
      | .crew => if steward then 0 else t.crew
      | .core => coreOf k
      | .die => if steward then 4 else coreOf k / 32
      | .ngang => if steward then 1 else cr.ngang
      | .alloc => t.alloc
      | .part => t.vf
      | .clkl => s.now % 2 ^ 32
      | .clkh => s.now / 2 ^ 32 % 2 ^ 32
      | .priv => if t.priv then 1 else 0
    s.gives (.movsv g d sv) k (t.setReg d.toNat (BitVec.ofNat 32 v))

/-- R160, R161: where each branch goes when the word at its target is a clause header, or cannot be fetched now (R151). The
thread continues at the target, whose clause it has entered; a CALL and a CALLI write the link, the address of the next
word, and CALLI reads its target first. Nothing else of the machine changes but the marks of the issuing bundle.

R161: a register target T takes BAD_TARGET, precisely and with no link written, when T[2:0] or T[63:56] is nonzero or the
word at T is not a clause header.

R151: an immediate target whose word is not a header takes BAD_TARGET at the branch, with no link written; BRA with the
hint UNIFORM and JMP mark their bundle first (R152, R162). -/
def Obligations.BranchesTaken : Prop :=
  (∀ (s : State) (k : Nat) (t : Thread) (g : Guard) (hint : Hint) (d a : Reg) (ofs : BitVec 30),
     let imm : DWord := t.pc + ofs.signExtend 64 * 8
     let regT : DWord := t.pair a
     let goes (i : Instr) (target : DWord) (t' : Thread) : Prop :=
       s.issues i k t → s.notHeader t.vf (coreOf k) target = false →
         ∃ u, exec i s = .next u ∧
           u.thread? k = some { t' with pc := target, cb := target, issued := t.issued + 1, wins := t.endWins,
                                              passed := false, rsHold := false } ∧
           (∀ j, j ≠ k → u.thread? j = s.thread? j) ∧ u = { s with threads := u.threads, issue := u.issue }
     goes (.bra g hint ofs) imm t ∧ goes (.jmp g ofs) imm t ∧ goes (.call g d ofs) imm (t.setPair d (t.pc + 8)) ∧
     (regT.toNat % 8 = 0 → regT.toNat < 2 ^ 56 →
       goes (.jmpi g a) regT t ∧ goes (.ret g a) regT t ∧ goes (.calli g d a) regT (t.setPair d (t.pc + 8)))) ∧
  (∀ (s : State) (k : Nat) (t : Thread) (g : Guard) (d a : Reg),
     ((t.pair a).toNat % 8 ≠ 0 ∨ 2 ^ 56 ≤ (t.pair a).toNat ∨ s.notHeader t.vf (coreOf k) (t.pair a) = true) →
     ∀ i ∈ [.jmpi g a, .calli g d a, .ret g a], s.issues i k t → exec i s = .next (s.trap k .badTarget)) ∧
  (∀ (s : State) (k : Nat) (t : Thread) (g : Guard) (hint : Hint) (d : Reg) (ofs : BitVec 30),
     s.notHeader t.vf (coreOf k) (t.pc + ofs.signExtend 64 * 8) = true →
     (s.issues (.call g d ofs) k t → exec (.call g d ofs) s = .next (s.trap k .badTarget)) ∧
     (s.issues (.jmp g ofs) k t → exec (.jmp g ofs) s = .next (s.dissolve.trap k .badTarget)) ∧
     (s.issues (.bra g hint ofs) k t →
       exec (.bra g hint ofs) s = .next ((if hint = .uniform then s.markUniform else s).trap k .badTarget)))

/-- R43, R164, R165: ENTER and GROW give the thread blocks whose registers read 0, or park it on GRANT when the lane is short
or an older grant waits; SHRINK discards the registers above its budget, and waits or parks on FAULT while one of them is pending. A budget on the wrong side of the allocation changes
nothing but the PC. -/
def Obligations.RegisterGrants : Prop :=
  ∀ (s : State) (k : Nat) (t : Thread) (g : Guard) (b : BitVec 6),
    (∀ i ∈ [.enter g b, .grow g b], s.issues i k t →
      (b.toNat ≤ t.alloc → s.gives i k t) ∧
      (t.alloc < b.toNat →
        ((s.freeBlocks (coreOf k) (laneOf k)).length < b.toNat - t.alloc ∨ s.grantQueue (coreOf k) (laneOf k) ≠ [] →
          exec i s = .next (s.park k (.grant b.toNat))) ∧
        (b.toNat - t.alloc ≤ (s.freeBlocks (coreOf k) (laneOf k)).length → s.grantQueue (coreOf k) (laneOf k) = [] →
          s.gives i k { t with
            alloc := b.toNat, blocks := t.blocks ++ (s.freeBlocks (coreOf k) (laneOf k)).take (b.toNat - t.alloc)
            regs := t.regs ++ List.replicate (8 * (b.toNat - t.alloc)) 0 }))) ∧
    (s.issues (.shrink g b) k t →
      (t.alloc ≤ b.toNat → s.gives (.shrink g b) k t) ∧
      (b.toNat < t.alloc →
        ((∃ o ∈ t.outs, ∃ r ∈ o.dests, 8 * b.toNat ≤ r) ∨ (∃ h ∈ t.held, 8 * b.toNat ≤ h.2) →
          exec (.shrink g b) s = .next s.stall) ∧
        ((∀ o ∈ t.outs, ∀ r ∈ o.dests, r < 8 * b.toNat) → (∀ h ∈ t.held, h.2 < 8 * b.toNat) →
          (∃ e ∈ t.log, ∃ r ∈ e.dests, 8 * b.toNat ≤ r) → exec (.shrink g b) s = .next (s.park k .fault)) ∧
        ((∀ o ∈ t.outs, ∀ r ∈ o.dests, r < 8 * b.toNat) → (∀ h ∈ t.held, h.2 < 8 * b.toNat) →
          (∀ e ∈ t.log, ∀ r ∈ e.dests, r < 8 * b.toNat) →
          t.phase = .active → s.grantQueue (coreOf k) (laneOf k) = [] →
          ∃ u, exec (.shrink g b) s = .next u ∧
            u.thread? k = some (s.after { t with
              alloc := b.toNat, blocks := t.blocks.take b.toNat, regs := t.regs.take (8 * b.toNat) }) ∧
            (∀ j, j ≠ k → u.thread? j = s.thread? j) ∧
            u = { s with threads := u.threads, issue := u.issue, phys := u.phys })))

/-- R348: a cause that is neither fatal nor met in a handler, with a handler installed: the trap registers as R348 fills them, the
level, and the PC at TVEC; an arrival at a JOIN is given up; nothing else of the thread or of any other thread changes.

R348, R351: otherwise the thread stops, or stays parked (R33), and the partition's halt line rises, with HALTREC's cause DOUBLE_TRAP
in a handler and BAD_TARGET when only TVEC's word is no header. That HALTREC's CODE is the ICODE of the cause that was met for these
two as well is the model's reading (notes/assumptions/22.md). -/
def Obligations.TrapEntry : Prop :=
  ∀ (s : State) (k : Nat) (t : Thread) (x : TrapInfo), s.thread? k = some t →
    let tvec := (s.part t.vf).tvec
    (x.cause.fatal = false → tvec ≠ 0 → t.tr.sstat.getLsbD 2 = false → s.notHeader t.vf (coreOf k) tvec = false →
      ∃ t', (s.raise k x).thread? k = some t' ∧
        t'.tr.cause.toNat % 128 = x.cause.code ∧ t'.tr.cause.getLsbD 7 = x.imp ∧ t'.tr.cause.getLsbD 8 = x.logged ∧
        t'.tr.cause.toNat / 65536 = x.icode % 65536 ∧ t'.tr.epc = x.epc ∧ t'.tr.ecb = x.ecb ∧ t'.tr.npc = x.npc ∧
        t'.tr.ncb = x.ncb ∧ t'.tr.skid.toNat = min x.skid (2 ^ 32 - 1) ∧ t'.tr.badva = (if x.cause.hasVa = true then x.badva else 0) ∧
        t'.tr.sstat.getLsbD 0 = true ∧ t'.tr.sstat.getLsbD 1 = t.tr.sstat.getLsbD 0 ∧ t'.tr.sstat.getLsbD 2 = true ∧
        t'.pc = tvec ∧ t'.cb = tvec ∧
        t' = { t with pc := t'.pc, cb := t'.cb, phase := .active, passed := false, arrival := none, rsHold := false, privSince := s.now
                      tr := { t.tr with cause := t'.tr.cause, epc := t'.tr.epc, ecb := t'.tr.ecb, npc := t'.tr.npc
                                        ncb := t'.tr.ncb, skid := t'.tr.skid, badva := t'.tr.badva, sstat := t'.tr.sstat } } ∧
        (∀ j, j ≠ k → (s.raise k x).thread? j = s.thread? j) ∧ (s.raise k x).mem = s.mem ∧
        (s.raise k x).parts = s.parts) ∧
    ((x.cause.fatal = true ∨ tvec = 0 ∨ t.tr.sstat.getLsbD 2 = true ∨ s.notHeader t.vf (coreOf k) tvec = true) →
      (s.part t.vf).line = .running →
      (s.raise k x).thread? k = some (if t.isParked = true then t else { t with phase := .stopped }) ∧
      (let p := (s.raise k x).part t.vf
       let c := if t.tr.sstat.getLsbD 2 = true then Cause.doubleTrap
         else if x.cause.fatal = true ∨ tvec = 0 then x.cause else Cause.badTarget
       p.line = .stopping true s.now none ∧ p.haltrec.toNat % 128 = c.code ∧ p.haltrec.getLsbD 7 = false ∧
       p.haltrec.toNat / 256 % 256 = coreOf k % 256 ∧ p.haltrec.toNat / 65536 % 128 = laneOf k ∧
       p.haltrec.toNat / 8388608 % 16 = slotOf k ∧ p.haltrec.toNat / 2 ^ 32 = x.icode % 2 ^ 32))

/-- R168: BKPT, TRAP and SYS take their causes, precisely, with CODE as ICODE: with a handler installed the thread enters it,
EPC and NPC naming the instruction.

R349: RETT resumes at NPC within the clause at NCB, RETT.TGT at a checked target, at the level that PPRIV names; outside a
handler both take SYSREG_BAD, and a bad target takes BAD_TARGET. That the lookahead windows of the interrupted clause stand again after
a plain RETT (notes/assumptions/20.md), and that SYSREG_BAD has ICODE 0 here (notes/assumptions/22.md), are the model's readings. -/
def Obligations.SoftwareTrapsAndReturn : Prop :=
  (∀ (s : State) (k : Nat) (t : Thread) (g : Guard) (code : BitVec 16),
     ∀ x ∈ [((.bkpt g code : Instr), Cause.breakpoint), (.trap g code, Cause.softTrap), (.sys g code, Cause.syscall)],
       s.issues x.1 k t →
       exec x.1 s = .next (s.trap k x.2 0 code.toNat) ∧
       ((s.part t.vf).tvec ≠ 0 → t.tr.sstat.getLsbD 2 = false →
         s.notHeader t.vf (coreOf k) (s.part t.vf).tvec = false →
         ∃ u t', exec x.1 s = .next u ∧ u.thread? k = some t' ∧ t'.pc = (s.part t.vf).tvec ∧
           t'.tr.cause = BitVec.ofNat 32 (x.2.code + code.toNat * 65536) ∧ t'.tr.epc = t.pc ∧ t'.tr.ecb = t.cb ∧
           t'.tr.npc = t.pc ∧ t'.tr.ncb = t.cb ∧ t'.tr.skid = 0 ∧ t'.tr.badva = 0 ∧ t'.regs = t.regs ∧ t'.preds = t.preds ∧
           u.mem = s.mem)) ∧
  (∀ (s : State) (k : Nat) (t : Thread) (g : Guard) (a : Reg),
     let back (i : Instr) (pc cb : DWord) : Prop :=
       ∃ u t', exec i s = .next u ∧ u.thread? k = some t' ∧ t'.pc = pc ∧ t'.cb = cb ∧
         t'.tr.sstat.getLsbD 0 = t.tr.sstat.getLsbD 1 ∧ t'.tr.sstat.getLsbD 2 = false ∧
         t' = { t with pc := pc, cb := cb, issued := t.issued + 1, grainTrap := false, passed := false, rsHold := false, privSince := s.now
                       wins := if pc = cb then [] else t.endWins.filter fun w => w.cb == cb
                       tr := { t.tr with sstat := t'.tr.sstat } } ∧
         (∀ j, j ≠ k → u.thread? j = s.thread? j) ∧ u = { s with threads := u.threads, issue := u.issue } ∧
         (∀ b, u.issue = some b → b.dissolve = true)
     let bad := (t.pair a).toNat % 8 ≠ 0 ∨ 2 ^ 56 ≤ (t.pair a).toNat ∨ s.notHeader t.vf (coreOf k) (t.pair a) = true
     (s.issues (.rett g) k t →
       (t.tr.sstat.getLsbD 2 = false → exec (.rett g) s = .next (s.trap k .sysregBad)) ∧
       (t.tr.sstat.getLsbD 2 = true → back (.rett g) t.tr.npc t.tr.ncb)) ∧
     (s.issues (.rettTgt g a) k t →
       (t.tr.sstat.getLsbD 2 = false → exec (.rettTgt g a) s = .next (s.trap k .sysregBad)) ∧
       (t.tr.sstat.getLsbD 2 = true → bad → exec (.rettTgt g a) s = .next (s.trap k .badTarget)) ∧
       (t.tr.sstat.getLsbD 2 = true → ¬bad → back (.rettTgt g a) (t.pair a) (t.pair a))))

/-- R49, R163: EXIT takes TASK_STATE in a task, waits for outstanding results and held registers, and else ends the thread: its
slot is free. That it waits for every outstanding result, not for R163's loads alone, is the model's reading
(notes/assumptions/9.md).

R40, R41, R166, R209: a thread whose lane the mask leaves out, or on a steward core with any mask but 1, takes JOIN_MASK at a JOIN, as
does one that finds a thread of its gang waiting there under another mask; one that finds a masked thread of its gang missing parks on
ARRIVE with its arrival noted; with the last one, every thread that takes part is filed at the next word with a filing time that is
AGE_LIMIT cycles in the past. -/
def Obligations.ExitAndJoin : Prop :=
  (∀ (s : State) (k : Nat) (t : Thread) (g : Guard), s.issues (.exit g) k t →
     (t.inTask = true → exec (.exit g) s = .next (s.trap k .taskState)) ∧
     (t.inTask = false → (t.outs ≠ [] ∨ t.held ≠ []) → exec (.exit g) s = .next s.stall) ∧
     (t.inTask = false → t.outs = [] → t.held = [] → exec (.exit g) s = .next (s.endThread k)) ∧
     (s.threads.wf = true → (s.endThread k).thread? k = none)) ∧
  (∀ (s : State) (k : Nat) (t : Thread) (g : Guard) (a : Reg), s.issues (.join g a) k t →
     let other := (∃ x ∈ s.gangThreads k t, x.1 ≠ k ∧ x.2.otherMask t.pc (t.r a) = true) ∨
       ∃ e ∈ s.gangEvicted k t, e.t.otherMask t.pc (t.r a) = true
     ((t.r a).getLsbD (laneInGang k) = false → exec (.join g a) s = .next (s.trap k .joinMask)) ∧
     (isSteward (coreOf k) = true → t.r a ≠ 1 → exec (.join g a) s = .next (s.trap k .joinMask)) ∧
     (other → exec (.join g a) s = .next (s.trap k .joinMask)) ∧
     ((t.r a).getLsbD (laneInGang k) = true → (isSteward (coreOf k) = false ∨ t.r a = 1) → ¬other →
       let s' := s.modThread k fun t => { t with arrival := some { pc := t.pc, mask := t.r a } }
       let ks := ((s'.gangThreads k t).filter fun x => (t.r a).getLsbD (laneInGang x.1) && x.2.arrivedAt t.pc).map (·.1)
       (allArrived (s'.gangThreads k t) t.pc (t.r a) = false → exec (.join g a) s = .next (s'.park k (.arrive (t.r a)))) ∧
       (allArrived (s'.gangThreads k t) t.pc (t.r a) = true → NMap.wf s.threads = true →
         ∃ u, exec (.join g a) s = .next u ∧
           (∀ j ∈ ks, ∀ x, s.thread? j = some x → ∃ f, u.thread? j = some { x.next with
             arrival := none, ftime := s.fileTime - (s.coreRegs (coreOf k)).furcfg.toNat % 8192, since := s.now, phase := .filed f }) ∧
           (∀ j, j ∉ ks → u.thread? j = s.thread? j ∨ ∃ y f, s.thread? j = some y ∧ y.filed? ≠ none ∧ y.since = s.now ∧
             u.thread? j = some { y with phase := .filed f }) ∧
           u = { s with threads := u.threads, issue := u.issue })))

/-- R93, R94, R96: what the flags `fl` of a result do. With none of them enabled in FCTL the result is written and the flags are
ORed into FSTAT; with one enabled the lowest-numbered one is the cause of a precise trap and nothing is written.

R79: an operation with a NaN input gives the canonical NaN of its format, and raises NV when an input is signalling and
nothing otherwise; 0 × ∞ in FFMA, in either order and with either sign, raises NV with any third operand. -/
def Obligations.FloatRules : Prop :=
  (∀ (s : State) (k : Nat) (t : Thread) (fl : FFlags) (write : Thread → Thread), s.thread? k = some t →
     (t.fctl.setWidth 5 &&& fl = 0 →
       s.did (s.floatDone k t fl write) k (s.after (write { t with fstat := t.fstat ||| fl.setWidth 32 }))) ∧
     (∀ n, (t.fctl.setWidth 5 &&& fl).getLsbD n = true → (∀ m < n, (t.fctl.setWidth 5 &&& fl).getLsbD m = false) →
       ∃ c : Cause, c.code = 0x10 + n ∧ s.floatDone k t fl write = s.trap k c)) ∧
  (∀ (f : NumFmt) (rm : RMode) (a b c : Nat),
     let nan (x : Nat) : Prop := ∃ q, decodeFloat f x = .nan q
     let snan (x : Nat) : Prop := decodeFloat f x = .nan true
     (nan a ∨ nan b → ∀ r ∈ [fAdd f rm a b, fSub f rm a b, fMul f rm a b],
       r.1 = canonNaN f ∧ (snan a ∨ snan b → r.2 = fNV) ∧ (¬(snan a ∨ snan b) → r.2 = 0)) ∧
     let inf (x : Nat) : Prop := ∃ neg, decodeFloat f x = .inf neg
     let zero (x : Nat) : Prop := ∃ neg e, decodeFloat f x = .fin neg 0 e
     let invalid := (inf a ∧ zero b) ∨ (zero a ∧ inf b)
     (invalid → fFma f rm a b c = (canonNaN f, fNV)) ∧
     (¬invalid → nan a ∨ nan b ∨ nan c → (fFma f rm a b c).1 = canonNaN f ∧
       (snan a ∨ snan b ∨ snan c → (fFma f rm a b c).2 = fNV) ∧ (¬(snan a ∨ snan b ∨ snan c) → (fFma f rm a b c).2 = 0)))

/-- R171 (FSETP), R174, R175, R179 to R183: an instruction whose result completes at its issue ends as R94 says (`floatDone`), with
the value and the flags of its exact operation, rounded once. The immediate forms round to nearest even. -/
def Obligations.FloatResults : Prop :=
  ∀ (s : State) (k : Nat) (t : Thread) (g : Guard) (rm : RMode) (d a b c : Reg) (imm : Word) (bf x y : Bool) (pd pc : Pred)
    (cmp : Cmp) (comb : Comb),
    (∀ i ∈ ([ (.fadd g rm d a b, fAdd .f32 rm (t.r a).toNat (t.r b).toNat),
              (.fsub g rm d a b, fSub .f32 rm (t.r a).toNat (t.r b).toNat),
              (.fmul g rm d a b, fMul .f32 rm (t.r a).toNat (t.r b).toNat),
              (.ffma g rm d a b c, fFma .f32 rm (t.r a).toNat (t.r b).toNat (t.r c).toNat),
              (.fmin g d a b, fMinMax false (t.r a).toNat (t.r b).toNat),
              (.fmax g d a b, fMinMax true (t.r a).toNat (t.r b).toNat),
              (.faddI g d a imm, fAdd .f32 .rne (t.r a).toNat imm.toNat),
              (.fsubI g d a imm, fSub .f32 .rne (t.r a).toNat imm.toNat),
              (.fmulI g d a imm, fMul .f32 .rne (t.r a).toNat imm.toNat),
              (.fminI g d a imm, fMinMax false (t.r a).toNat imm.toNat),
              (.fmaxI g d a imm, fMinMax true (t.r a).toNat imm.toNat),
              (.frnd g rm d a, fRound rm (t.r a).toNat),
              (.hadd2 g rm bf d a b, packed fun n =>
                fAdd (if bf then .bf16 else .f16) rm ((t.r a).toNat / 2 ^ (16 * n) % 2 ^ 16) ((t.r b).toNat / 2 ^ (16 * n) % 2 ^ 16)),
              (.hmul2 g rm bf d a b, packed fun n =>
                fMul (if bf then .bf16 else .f16) rm ((t.r a).toNat / 2 ^ (16 * n) % 2 ^ 16) ((t.r b).toNat / 2 ^ (16 * n) % 2 ^ 16)),
              (.hfma2 g rm bf d a b c, packed fun n =>
                fFma (if bf then .bf16 else .f16) rm ((t.r a).toNat / 2 ^ (16 * n) % 2 ^ 16) ((t.r b).toNat / 2 ^ (16 * n) % 2 ^ 16)
                  ((t.r c).toNat / 2 ^ (16 * n) % 2 ^ 16)),
              (.dpf8 g rm x y d a b c, dotF8 rm x y (t.r a) (t.r b) (t.r c)) ] : List (Instr × Nat × FFlags)),
      s.issues i.1 k t → exec i.1 s = .next (s.floatDone k t i.2.2 fun t => t.setReg d.toNat (BitVec.ofNat 32 i.2.1))) ∧
    (s.issues (.fsetp g cmp comb pd a b pc) k t →
      let r := fCompare cmp (t.r a).toNat (t.r b).toNat
      exec (.fsetp g cmp comb pd a b pc) s = .next (s.floatDone k t r.2 fun t => t.setPred pd (combine comb r.1 (t.pred pc)))) ∧
    (∀ (src dst : NumFmt) (sat ef : Bool) (si di : BitVec 3), s.issues (.cvt g rm src dst sat ef si di d a c) k t →
      let r := convert rm src dst sat ef si.toNat di.toNat (t.r a) (t.r d) (t.r c)
      exec (.cvt g rm src dst sat ef si di d a c) s = .next (s.floatDone k t r.2.2 fun t =>
        if ef then (t.setReg d.toNat r.1).setReg c.toNat r.2.1 else t.setReg d.toNat r.1)) ∧
    (∀ ua ub sat : Bool, ∀ i ∈ ([ (.dp4 g ua ub sat d a b c, dotResult sat (dotSum 4 ua ub (t.r a) (t.r b) (t.r c))),
              (.dp8 g ua ub sat d a b c, dotResult sat (dotSum 8 ua ub (t.r a) (t.r b) (t.r c))),
              (.fclass g d a, BitVec.ofNat 32 (fClass (t.r a).toNat)) ] : List (Instr × Word)),
      s.issues i.1 k t → s.gives i.1 k (t.setReg d.toNat i.2))

/-- R150, R177, R178: the long-latency operations. With no trap enabled the value waits for LONG_LATENCY_COMPLETE and LA opens
a window over D; with a trap enabled the instruction ends as R94 says, at its issue, and its window of LA words opens as well; that it completes then at
once is the model's reading (notes/assumptions/14.md).

LONG_LATENCY_COMPLETE (R150, R178): the first result that no matrix operation supplies reaches its destinations, but for those that a
younger word has written (R253), its flags FSTAT, and is no longer outstanding. -/
def Obligations.LongLatency : Prop :=
  (∀ (s : State) (k : Nat) (t : Thread) (g : Guard) (la : BitVec 4) (rm : RMode) (d a b : Reg),
     ∀ i ∈ ([ (.fdiv g la rm d a b, fDiv rm (t.r a).toNat (t.r b).toNat), (.rcp g la rm d a, fRcp rm (t.r a).toNat),
              (.rsq g la rm d a, fRsq rm (t.r a).toNat), (.sqrt g la rm d a, fSqrt rm (t.r a).toNat),
              (.exp2 g la rm d a, fExp2 rm (t.r a).toNat), (.log2 g la rm d a, fLog2 rm (t.r a).toNat),
              (.sint g la rm d a, fSinT rm (t.r a).toNat), (.cost g la rm d a, fCosT rm (t.r a).toNat) ] :
            List (Instr × Nat × FFlags)),
       s.issues i.1 k t → s.replaying = false →
       (t.fctl.setWidth 5 = (0 : BitVec 5) →
         ∃ u o, exec i.1 s = .next u ∧ o.dests = [d.toNat] ∧ o.vals = [BitVec.ofNat 32 i.2.1] ∧ o.flags = i.2.2 ∧ o.mat = none ∧
           s.did u k { t.next with
             outs := t.outs ++ [o], wins := t.next.openWin la.toNat [d.toNat] true }) ∧
       (t.fctl.setWidth 5 ≠ (0 : BitVec 5) → la = 0 →
         exec i.1 s = .next (s.floatDone k t i.2.2 fun t => t.setReg d.toNat (BitVec.ofNat 32 i.2.1))) ∧
       (t.fctl.setWidth 5 ≠ (0 : BitVec 5) →
         (∀ c, trapCause t.fctl i.2.2 = some c → exec i.1 s = .next (s.trap k c)) ∧
         (trapCause t.fctl i.2.2 = none → ∃ u, exec i.1 s = .next u ∧
           (let x := ((t.orFlags i.2.2).setReg d.toNat (BitVec.ofNat 32 i.2.1)).next
            s.did u k { x with wins := x.openWin la.toNat [d.toNat] true })))) ∧
  (∀ (s : State) (k : Nat) (t : Thread) (o : Outst) (rest : List Outst), s.who = [k, 0] → s.thread? k = some t →
     t.outs = o :: rest → o.mat = none →
     ∃ u t', exec .longLatencyComplete s = .next u ∧ u.thread? k = some t' ∧
       t' = { t with regs := t'.regs, fstat := t.fstat ||| o.flags.setWidth 32, outs := rest } ∧
       (∀ r, r ∉ o.dests ∨ r ∈ o.dead → t'.reg r = t.reg r) ∧
       (o.dests.Nodup → ∀ x ∈ o.dests.zip o.vals, x.1 ∉ o.dead → x.1 < t.regs.length → t'.reg x.1 = x.2) ∧
       (∀ j, j ≠ k → u.thread? j = s.thread? j) ∧ u = { s with threads := u.threads })

/-- R103, R121, R187, R189, R247: LD and SIGREAD. With an aligned address in range, a translation and no held read, the load reads the
bytes that its thread sees, and its result is outstanding (or, in a replay, in its registers); it notes what it saw (R127), and
in a task of an ordered queue its lines enter the read set, all of them while that keeps to 64. A held read leaves its bundle not ready
(R66). No byte of memory changes; a read of a peer window first lets the thread's earlier stores leave (`forWindow`). That the value is
the one at the issue is the model's reading (notes/assumptions/14.md).

R45, R187, R188: what a global load or store meets in its way. A load's misaligned or out of range address, and every fault of
its access that is not recoverable, is an imprecise cause of a thread that goes on; a store's is a precise trap, but for a peer that
does not answer; a recoverable fault enters the operand log of both (`logFault`), and the store's thread parks; so does that of an
LD.ACQ, at its next instruction. SIGREAD takes its causes precisely, and a recoverable fault as an LD.ACQ does (R247).

R117, R192: LDT. The element j of the tensor at P0 is read from the page that holds it, whose format must be that of P0's page; its value
is exact in binary32 or rounded there, and is outstanding with its flags; with an enable bit set its flags are raised, or their trap
taken, at the issue (notes/assumptions/14.md). Its faults name P0 or the page; a page past the end of the
address space takes TYPED_RANGE; what only the target reports comes last (R402). A read that would take an ordered task past 64
lines, data and scale together, is held (R66). No byte of memory changes. -/
def Obligations.Loads : Prop :=
  (∀ (s : State) (k : Nat) (t : Thread) (g : Guard) (la : BitVec 4) (w : Width) (acq : Bool) (sc : Scope) (d a : Reg)
     (imm : BitVec 24),
     ∀ x ∈ ([ (.ld g la w acq sc d a imm, t.pair a + imm.signExtend 64, widthBytes w, widthBytes w, loadWords w),
              (.sigread g la d a, t.pair a, 16, 8, fun bs => wordsOfNat (natOf bs) 2) ] :
            List (Instr × DWord × Nat × Nat × (List Byte → List Word))),
     ∀ l : Loc, s.issues x.1 k t → x.2.1.toNat % x.2.2.1 = 0 → x.2.1.toNat < 2 ^ 56 →
       s.access (coreOf k) t.vf (tlbPort k) x.2.1.toNat .read = .ok l →
       let s0 := s.forWindow k l
       let lines := linesOf x.2.1.toNat x.2.2.2.1
       (s.holdRead k t l x.2.1.toNat x.2.2.2.1 = true → exec x.1 s = .next (s.holdThread k)) ∧
       (s.holdRead k t l x.2.1.toNat x.2.2.2.1 = false →
         ∃ u o, exec x.1 s = .next u ∧ o.dests = (infoOf x.1).writes ∧
           o.vals = x.2.2.2.2 (s0.threadRead k t l x.2.1.toNat x.2.2.2.1) ∧ o.flags = 0 ∧ o.mat = none ∧
           u.thread? k = some (s.afterLong (t.behindWindow l |>.sees (s0.visibleTo (coreOf k))) la.toNat o) ∧
           (∀ j, j ≠ k → u.thread? j = s.thread? j) ∧ (t.inTask = false → u.crews = s.crews) ∧
           u = { s0 with threads := u.threads, issue := u.issue, crews := u.crews, tlb := (s.keep l.ent).tlb } ∧
           (t.inTask = true → l.sealed = false → ∀ task, s.task? (t.crewKey k) = some task → s.taskOrdered task = true →
             ∃ rs, u.task? (t.crewKey k) = some { task with rset := rs } ∧
               (∀ n ∈ task.rset, n ∈ rs) ∧ (∀ n ∈ rs, n ∈ task.rset ∨ n ∈ lines) ∧
               ((lines.foldl (fun l x => insertNat x l) task.rset).length ≤ 64 → ∀ n ∈ lines, n ∈ rs)))) ∧
  (∀ (s : State) (k : Nat) (t : Thread) (g : Guard) (la : BitVec 4) (w : Width) (acq rel : Bool) (sc : Scope) (d a : Reg)
     (imm : BitVec 24) (c : Cause),
     let va := t.pair a + imm.signExtend 64
     let ld : Instr := .ld g la w acq sc d a imm
     let st : Instr := .st g w rel sc d a imm
     let sr : Instr := .sigread g la d a
     let logged (i : Instr) (va : DWord) (how : Logged) (acq : Bool) : Prop :=
       let u := s.logFault k ((encode i).getD 0) (infoOf i).reads (infoOf i).writes c va how (infoOf i).la false
       exec i s = .next (if acq = true ∧ s.replaying = false then u.modThread k fun x => { x with acqFault := true } else u)
     let imp (i : Instr) (la : Nat) : Prop :=
       ∃ u, exec i s = .next u ∧ s.did u k (s.afterImp t la (infoOf i).writes false c va)
     let early := (va.toNat % widthBytes w ≠ 0 ∧ c = .misaligned) ∨ (va.toNat % widthBytes w = 0 ∧ 2 ^ 56 ≤ va.toNat ∧ c = .addrRange)
     let inRange := va.toNat % widthBytes w = 0 ∧ va.toNat < 2 ^ 56
     (s.issues ld k t →
       (early → imp ld la.toNat) ∧
       (inRange → s.access (coreOf k) t.vf (tlbPort k) va.toNat .read = .error c →
         (c.recoverable = false → imp ld la.toNat) ∧ (c.recoverable = true → logged ld va .goesOn acq))) ∧
     (s.issues st k t →
       (early → exec st s = .next (s.trap k c va)) ∧
       (inRange → s.storeAccess k t va (fun _ => true) = .error c →
         (c.recoverable = true → logged st va .parksHere false) ∧
         (c = .linkDown ∨ c = .peerFail → imp st 0) ∧
         (c.recoverable = false → c ≠ .linkDown → c ≠ .peerFail → exec st s = .next (s.trap k c va)))) ∧
     (s.issues sr k t →
       ((t.pair a).toNat % 16 ≠ 0 → exec sr s = .next (s.trap k .misaligned (t.pair a))) ∧
       ((t.pair a).toNat % 16 = 0 → 2 ^ 56 ≤ (t.pair a).toNat → exec sr s = .next (s.trap k .addrRange (t.pair a))) ∧
       ((t.pair a).toNat % 16 = 0 → (t.pair a).toNat < 2 ^ 56 →
         s.access (coreOf k) t.vf (tlbPort k) (t.pair a).toNat .read = .error c →
         (c.recoverable = true → logged sr (t.pair a) .goesOn true) ∧
         (c.recoverable = false → exec sr s = .next (s.trap k c (t.pair a)))))) ∧
  (∀ (s : State) (k : Nat) (t : Thread) (g : Guard) (la : BitVec 4) (d a : Reg) (imm : BitVec 24) (l0 : Loc),
     let i : Instr := .ldt g la d a imm
     let p0 := t.pair a
     let j := (t.reg (a.toNat + 2) + imm.signExtend 32).toNat
     let n := pageElems l0.elem l0.geom
     let page := p0.toNat + 65536 * (j / n)
     let e := elemPlace l0.elem l0.geom (j % n)
     let fault (c : Cause) (va : DWord) : Prop := exec i s = .next (s.loadFault i k c va false)
     s.issues i k t →
     (p0.toNat % 65536 ≠ 0 → fault .misaligned p0) ∧
     (p0.toNat % 65536 = 0 → 2 ^ 56 ≤ p0.toNat → fault .addrRange p0) ∧
     (p0.toNat % 65536 = 0 → p0.toNat < 2 ^ 56 → s.xlate (coreOf k) t.vf (tlbPort k) p0.toNat .read = .ok l0 →
       (l0.geom = 0 → fault .formatMismatch p0) ∧
       (l0.geom ≠ 0 → 2 ^ 56 ≤ page → fault .typedRange (BitVec.ofNat 64 page)) ∧
       (l0.geom ≠ 0 → page < 2 ^ 56 → ∀ l, s.xlate (coreOf k) t.vf (tlbPort k) page .read = .ok l →
         let held := s.holdLines k t l (linesOf (page + e.1) e.2.1 ++ linesOf (page + e.2.2.2) 1)
         (l.elem ≠ l0.elem ∨ l.geom ≠ l0.geom → fault .formatMismatch (BitVec.ofNat 64 page)) ∧
         (l.elem = l0.elem → l.geom = l0.geom → ∀ c, s.sentCause t.vf l.tgt l.key l.ports = some c → fault c (BitVec.ofNat 64 page)) ∧
         (l.elem = l0.elem → l.geom = l0.geom → s.sentCause t.vf l.tgt l.key l.ports = none →
           held = true → exec i s = .next (s.holdThread k)) ∧
         (l.elem = l0.elem → l.geom = l0.geom → s.sentCause t.vf l.tgt l.key l.ports = none → held = false →
           let s0 := s.forWindow k l
           let t0 := t.behindWindow l |>.sees (s0.visibleTo (coreOf k))
           let bs := s0.threadRead k t { l with key := l.key + e.1 } (page + e.1) e.2.1
           let sc := (s0.threadRead k t { l with key := l.key + e.2.2.2 } (page + e.2.2.2) 1).headD 0
           let r := narrow .f32 .rne false (elemValue l.elem bs e.2.2.1 sc)
           (t.floatTraps = false → ∃ u o, exec i s = .next u ∧ o.dests = [d.toNat] ∧ o.vals = [BitVec.ofNat 32 r.1] ∧ o.flags = r.2 ∧
             o.mat = none ∧ u.thread? k = some (s.afterLong t0 la.toNat o) ∧
             (∀ m, m ≠ k → u.thread? m = s.thread? m) ∧ u.mem = s0.mem ∧ u.flights = s0.flights) ∧
           (t.floatTraps = true → ∀ c, trapCause t.fctl r.2 = some c → ∃ v : State, exec i s = .next (v.trap k c) ∧ v.thread? k = some t0 ∧
             v = { s0 with threads := v.threads, crews := v.crews, tlb := v.tlb }) ∧
           (t.floatTraps = true → trapCause t.fctl r.2 = none → ∃ u o, exec i s = .next u ∧ o.dests = [d.toNat] ∧
             o.vals = [BitVec.ofNat 32 r.1] ∧ u.mem = s0.mem ∧ (∀ m, m ≠ k → u.thread? m = s.thread? m) ∧
             u.thread? k = some ((s.afterLong t0 la.toNat o).orFlags r.2))))))

/-- R124, R127, R188: a store that is not in a task enters the store queue of its thread, with the bytes of its width; a release
waits for what the thread saw. Memory does not change until the store leaves the queue (R124); that the coherence order is the order of
leaving is the model's reading (notes/assumptions/13.md). The stores of lower lanes in the same word lose the bytes that this lane stores
to as well, queued or logged (R113). A store to a peer stays outstanding until its response (R396). A store into a reserved tail changes
nothing (R84). In a task the bytes enter the write buffer, whose lines read as merged, and global memory is as it was; without room the
task is exhausted (R64, R189).

R124, R189: STORE_QUEUE_DRAIN and STORE_PROPAGATION. The oldest store leaves its queue and takes its place in coherence
order: its bytes are stored, every other byte of memory is as before. A store that propagates changes no byte of the coherence
order; it makes its store visible to the agents it names. -/
def Obligations.StoresPerformed : Prop :=
  (∀ (s : State) (k : Nat) (t : Thread) (g : Guard) (w : Width) (rel : Bool) (sc : Scope) (d a : Reg) (imm : BitVec 24)
     (l : Loc),
     let i : Instr := .st g w rel sc d a imm
     let va := t.pair a + imm.signExtend 64
     let done (bs : List Host.Cell) : List Host.Cell :=
       if s.replaying then bs.filter fun c => !(((t.log.head?.map (·.covered)).getD []).contains c.1) else bs
     s.issues i k t → va.toNat % widthBytes w = 0 → va.toNat < 2 ^ 56 → s.storeAccess k t va (fun _ => true) = .ok l →
     (inTail l va.toNat = true → exec i s = .next ((s.keep l.ent).retire k)) ∧
     (t.inTask = false → inTail l va.toNat = false → k ∉ s.wordStores → s.wordStores.Nodup →
       ∃ u q, exec i s = .next u ∧ q.bytes = done (cellsAt l.key (storeBytes w t d)) ∧
         q.need = (if rel then t.seen.map fun n => (n, scopeMask sc (coreOf k)) else []) ++ t.relNeed ∧
         (l.tgt ≠ 4 → u.thread? k = some (s.after { t with storeq := t.storeq ++ [q] })) ∧
         (l.tgt = 4 → ∃ o, o.dests = [] ∧ o.vals = [] ∧ o.flags = 0 ∧ o.mat = none ∧ o.target = 2 ∧
           u.thread? k = some (s.afterLong { t with storeq := t.storeq ++ [q] } 0 o)) ∧
         (∀ j, j ≠ k → j ∉ s.wordStores → s.covers u k j) ∧
         (∀ j ∈ s.wordStores, ∀ x, s.thread? j = some x → ∃ y, u.thread? j = some y ∧
           y = { x with storeq := y.storeq, log := y.log } ∧
           (∀ q0 qs, x.storeq = qs ++ [q0] →
             y.storeq = qs ++ [{ q0 with bytes := q0.bytes.filter fun c => (cellAt q.bytes c.1).isNone }])) ∧
         u = { s with threads := u.threads, issue := u.issue, tlb := (s.keep l.ent).tlb }) ∧
     (t.inTask = true → inTail l va.toNat = false → ∀ task, s.task? (t.crewKey k) = some task →
       let bs := done (cellsAt va.toNat (storeBytes w t d))
       let room := task.units + 9 * (task.newLines bs).length ≤ (s.queue task.q).wbufUnits
       (¬room → s.overflows i (t.crewKey k) task) ∧
       (room → ∃ u buf, exec i s = .next u ∧ u.thread? k = some (s.after t) ∧ (∀ j, j ≠ k → s.covers u k j) ∧
         u.task? (t.crewKey k) = some { task with buf := buf } ∧
         (∀ p, bufferedByte p buf = (cellAt bs p).or (bufferedByte p task.buf)) ∧
         u = { s with threads := u.threads, issue := u.issue, crews := u.crews, tlb := (s.keep l.ent).tlb }))) ∧
  (∀ (s : State), s.mem.wf = true →
     (∀ (k : Nat) (t : Thread) (q : StoreQ) (qs : List StoreQ), s.who = [k] → s.thread? k = some t → t.storeq = q :: qs →
       s.midStore k = false →
       ∃ u, exec .storeQueueDrain s = .next u ∧ s.stored u q.bytes ∧ u.thread? k = some { t with storeq := qs } ∧
         (∀ j, j ≠ k → u.thread? j = s.thread? j)) ∧
     (∀ id m, s.who = [id, m] → ∃ u, exec .storePropagation s = .next u ∧ s.stored u [] ∧ u.threads = s.threads ∧
       (∀ f ∈ u.flights, f.id = id → f.seen &&& (m % 2 ^ 297) = m % 2 ^ 297)))

/-- R196, R199, R200, R197: ATOM, CAS and RED at a place where the operation exists, outside a task, with an empty store queue. The
old value is read, the new one of the operation stored, all in one step; every other byte is as before; a CAS that fails
stores nothing. ATOM and CAS give the old value. A RED of host or peer memory stays outstanding, with nothing to write, until its
response (R393, R396). Where the operation does not exist, it takes ATOM_TARGET. In a task ATOM and CAS take TASK_IRREVOCABLE, and a RED
enters the write buffer, with global memory as it was (R64).

R195: the values of the atomic operations on w-bit numbers. -/
def Obligations.Atomics : Prop :=
  (∀ (s : State) (k : Nat) (t : Thread) (g : Guard) (la : BitVec 4) (op : AtomOp) (w64 rel : Bool) (sc : Scope)
     (ord : AtomOrd) (d a b c : Reg) (l : Loc),
     let n := if w64 then 8 else 4
     let arg (r : Reg) : Nat := if w64 then (t.pair r).toNat else (t.r r).toNat
     let va := t.pair a
     let m := if 3 ≤ l.tgt then maskSys else scopeMask sc (coreOf k)
     let old := natOf (s.readAtom (coreOf k) m l.key n)
     s.mem.wf = true → va.toNat % n = 0 → va.toNat < 2 ^ 56 → s.access (coreOf k) t.vf (tlbPort k) va.toNat .write = .ok l →
     t.inTask = false → t.storeq = [] → inTail l va.toNat = false →
     (∀ x ∈ ([ (.atom g la op w64 sc ord d a b, op, 0), (.cas g la w64 sc ord d a b c, .cas, arg c) ] :
         List (Instr × AtomOp × Nat)),
       s.issues x.1 k t → (l.tgt ≠ 3 ∨ x.2.1 ∈ [AtomOp.add, .xchg, .cas]) →
         ∃ u o, exec x.1 s = .next u ∧ o.vals = wordsOfNat old (if w64 then 2 else 1) ∧
           o.dests = (infoOf x.1).writes ∧ o.mat = none ∧ (∃ seen, u.thread? k = some (s.afterLong { t with seen := seen } la.toNat o)) ∧
           (∀ j, j ≠ k → u.thread? j = s.thread? j) ∧
           s.stored u (if x.2.1 = .cas ∧ old ≠ x.2.2 then []
             else cellsAt l.key (bytesOf (atomNew x.2.1 (8 * n) old (arg b) x.2.2) n))) ∧
     (∀ i ∈ ([.atom g la op w64 sc ord d a b, .red g op w64 sc rel a b] : List Instr), s.issues i k t →
       l.tgt = 3 → op ∉ [AtomOp.add, .xchg, .cas] → exec i s = .next (s.trap k .atomTarget va)) ∧
     (s.issues (.red g op w64 sc rel a b) k t → op ≠ .cas → (l.tgt ≠ 3 ∨ op ∈ [AtomOp.add, .xchg]) →
       ∃ u, exec (.red g op w64 sc rel a b) s = .next u ∧ (l.server = 0 → u.thread? k = some (s.after t)) ∧
         (l.server ≠ 0 → ∃ o, o.dests = [] ∧ o.vals = [] ∧ o.flags = 0 ∧ o.mat = none ∧ o.target = l.server ∧
           u.thread? k = some (s.afterLong t 0 o)) ∧
         (∀ j, j ≠ k → u.thread? j = s.thread? j) ∧
         s.stored u (cellsAt l.key (bytesOf (atomNew op (8 * n) old (arg b) 0) n)))) ∧
  (∀ (s : State) (k : Nat) (t : Thread) (g : Guard) (la : BitVec 4) (op : AtomOp) (w64 rel : Bool) (sc : Scope)
     (ord : AtomOrd) (d a b c : Reg) (l : Loc) (task : Task),
     let n := if w64 then 8 else 4
     let va := t.pair a
     let r : BufRec := .red va op w64 sc (BitVec.ofNat 64 (if w64 then (t.pair b).toNat else (t.r b).toNat))
     va.toNat % n = 0 → va.toNat < 2 ^ 56 → t.inTask = true → s.task? (t.crewKey k) = some task →
     (∀ i ∈ ([.atom g la op w64 sc ord d a b, .cas g la w64 sc ord d a b c] : List Instr), s.issues i k t →
       exec i s = .next (s.trap k .taskIrrevocable)) ∧
     (s.issues (.red g op w64 sc rel a b) k t → s.xlate (coreOf k) t.vf (tlbPort k) va.toNat .write = .ok l →
       (l.tgt ≠ 3 ∨ op ∈ [AtomOp.add, .xchg]) →
       ((s.queue task.q).wbufUnits < task.units + 2 → s.overflows (.red g op w64 sc rel a b) (t.crewKey k) task) ∧
       (task.units + 2 ≤ (s.queue task.q).wbufUnits → s.buffers (.red g op w64 sc rel a b) k t task r))) ∧
  (∀ (w old b c : Nat), old < 2 ^ w → b < 2 ^ w → 0 < w →
     let low (x y : Nat) : Nat := if signedOf w y < signedOf w x then y else x
     atomNew .add w old b c = (old + b) % 2 ^ w ∧ signedOf w (atomNew .min w old b c) = min (signedOf w old) (signedOf w b) ∧
     signedOf w (atomNew .max w old b c) = max (signedOf w old) (signedOf w b) ∧ atomNew .min w old b c = low old b ∧
     atomNew .umin w old b c = min old b ∧ atomNew .umax w old b c = max old b ∧
     (∀ n, (atomNew .and w old b c).testBit n = (old.testBit n && b.testBit n)) ∧
     (∀ n, (atomNew .or w old b c).testBit n = (old.testBit n || b.testBit n)) ∧
     (∀ n, (atomNew .xor w old b c).testBit n = (old.testBit n != b.testBit n)) ∧
     atomNew .xchg w old b c = b ∧ atomNew .cas w old b c = (if old = c then b else old) ∧
     (∀ op, atomNew op w old b c < 2 ^ w ∨ op ∈ [AtomOp.fadd, .fmin, .fmax]))

/-- R89, R90, R201: an XADD outside a task with an empty store queue, into an element with a good descriptor, aligned and out of
host memory: the contribution at the element's anchor is added and the flags of a loss are set, both in one step; with RT the
old sum is the result. Every byte but the element's and the flags' byte is as before.

R64, R200: in a task an XADD.RET takes TASK_IRREVOCABLE, and an XADD enters the write buffer with its contribution and its anchor, global
memory as it was. -/
def Obligations.ExactAddition : Prop :=
  (∀ (s : State) (k : Nat) (t : Thread) (g : Guard) (la : BitVec 4) (anchor : BitVec 8) (sc : Scope) (rt : Bool)
    (d a b c : Reg) (el dl : Loc) (task : Task),
    let i : Instr := .xadd g la anchor sc rt d a b c
    let ea := t.pair a
    let da := t.pair c
    s.issues i k t → ea.toNat % 16 = 0 → da.toNat % 16 = 0 → ea.toNat < 2 ^ 56 → da.toNat < 2 ^ 56 → t.inTask = true →
    s.task? (t.crewKey k) = some task →
    (rt = true → exec i s = .next (s.trap k .taskIrrevocable)) ∧
    (rt = false → s.xlate (coreOf k) t.vf (tlbPort k) ea.toNat .write = .ok el →
      s.xlate (coreOf k) t.vf (tlbPort k) da.toNat .write = .ok dl → el.tgt ≠ 3 → dl.tgt ≠ 3 →
      ((s.queue task.q).wbufUnits < task.units + 2 → s.overflows i (t.crewKey k) task) ∧
      (task.units + 2 ≤ (s.queue task.q).wbufUnits → s.buffers i k t task
        (.xadd ea da sc (BitVec.ofInt 128 (signedOf 128 (natOfWords (t.rs b 4)))) anchor.toInt)))) ∧
  ∀ (s : State) (k : Nat) (t : Thread) (g : Guard) (la : BitVec 4) (anchor : BitVec 8) (sc : Scope) (rt : Bool)
    (d a b c : Reg) (el dl : Loc),
    let i : Instr := .xadd g la anchor sc rt d a b c
    let ea := (t.pair a).toNat
    let da := (t.pair c).toNat
    let m := if 3 ≤ el.tgt then maskSys else scopeMask sc (coreOf k)
    s.mem.wf = true → s.issues i k t → ea % 16 = 0 → da % 16 = 0 → ea < 2 ^ 56 → da < 2 ^ 56 → t.inTask = false →
    s.access (coreOf k) t.vf (tlbPort k) ea .write = .ok el → s.access (coreOf k) t.vf (tlbPort k) da .write = .ok dl →
    el.tgt ≠ 3 → dl.tgt ≠ 3 → t.storeq = [] → inTail el ea = false → inTail dl da = false →
    (el.key + 16 ≤ dl.key ∨ dl.key + 16 ≤ el.key) →
    let desc := natOf (s.readAtom (coreOf k) m dl.key 16)
    let old := natOf (s.readAtom (coreOf k) m el.key 16)
    let (v, fl) := exactAddend (signedOf 128 (natOfWords (t.rs b 4))) anchor.toInt (signedOf 8 (desc % 256))
    (desc / 2 ^ 12 ≠ 0 → exec i s = .next (((s.keep el.ent).keep dl.ent).trap k .x128Desc (t.pair c))) ∧
    (desc / 2 ^ 12 = 0 →
      ∃ u, exec i s = .next u ∧ (∀ j, j ≠ k → u.thread? j = s.thread? j) ∧
        (rt = false → el.server = 0 → u.thread? k = some (s.after t)) ∧
        (rt = false → el.server ≠ 0 → ∃ o, o.dests = [] ∧ o.vals = [] ∧ o.flags = 0 ∧ o.mat = none ∧
          u.thread? k = some (s.afterLong t 0 o)) ∧
        (rt = true → ∃ o seen, o.vals = wordsOfNat old 4 ∧ o.dests = (infoOf i).writes ∧
          u.thread? k = some (s.afterLong (t.sees seen) la.toNat o)) ∧
        (∀ p, ¬(el.key ≤ p ∧ p < el.key + 16) → p ≠ dl.key + 1 → u.lastByte p = s.lastByte p) ∧
        (∀ n < 16, u.lastByte (el.key + n) = (bytesOf (modPow ((old : Int) + v) 128) 16).getD n 0) ∧
        (fl = 0 → u.lastByte (dl.key + 1) = s.lastByte (dl.key + 1)) ∧
        (∀ n, fl.getLsbD n = true → (u.lastByte (dl.key + 1)).getLsbD n = true))

/-- R15, R109, R191, R198: LDS, STS and ATOMS of a READY or EMPTY sector. A load of an EMPTY or FILLING sector parks; a write of a
FILLING one, and any access of a DRAINING one, takes OWNER; a store of an EMPTY sector makes it READY. A misaligned address takes
MISALIGNED, one outside the crew's allocation SCRATCH_RANGE. The thread's earlier global stores leave its queue before an STS or ATOMS,
as one order of stores needs (R124). -/
def Obligations.ScratchAccesses : Prop :=
  ∀ (s : State) (k : Nat) (t : Thread) (g : Guard) (la : BitVec 4) (w : Width) (op : AtomOp) (w64 : Bool) (d a b c : Reg)
    (imm : BitVec 24) (cr : Crew),
    s.crew? (t.crewKey k) = some cr →
    let core := coreOf k
    let sa := t.r a + imm.signExtend 32
    let n := widthBytes w
    let lds : Instr := .lds g la w d a imm
    let sts : Instr := .sts g w d a imm
    let m := crewAddr core cr sa.toNat
    let s0 := s.drainAll k
    let t0 : Thread := { t with storeq := [] }
    (∀ i ∈ [lds, sts], s.issues i k t →
      (sa.toNat % n ≠ 0 → exec i s = .next (s.trap k .misaligned (sa.setWidth 64))) ∧
      (sa.toNat % n = 0 → cr.inAlloc sa.toNat n = false → exec i s = .next (s.trap k .scratchRange (sa.setWidth 64)))) ∧
    (s.issues sts k t → sa.toNat % n = 0 → cr.inAlloc sa.toNat n = true → t.inTask = true → s.ownRegion k t cr sa.toNat n = false →
      exec sts s = .next (s.trap k .taskIrrevocable)) ∧
    (s.issues lds k t → s.scratchCause k t cr sa.toNat n false = none →
      (s.sector (m / 32) = .ready →
        ∃ u o, exec lds s = .next u ∧ o.vals = loadWords w (s.readScr m n) ∧ o.dests = (infoOf lds).writes ∧
          s.did u k (s.afterLong (t.sees (s.visibleTo core)) la.toNat o)) ∧
      (s.sector (m / 32) = .empty ∨ s.sector (m / 32) = .filling → exec lds s = .next (s.park k (.sector sa))) ∧
      (s.sector (m / 32) = .draining → exec lds s = .next (s.trap k .owner (sa.setWidth 64)))) ∧
    (s.issues sts k t → s.scratchCause k t cr sa.toNat n true = none →
      (s.sector (m / 32) = .ready ∨ s.sector (m / 32) = .empty →
        ∃ u, exec sts s = .next u ∧ u.thread? k = some (s.after t0) ∧ (∀ j, j ≠ k → u.thread? j = s.thread? j) ∧
          (NMap.wf s.sectors = true → u.sector (m / 32) = .ready) ∧ u.scratch = s.scratch.writeAll (cellsAt m (storeBytes w t d)) ∧
          u = { s0 with threads := u.threads, issue := u.issue, scratch := u.scratch, sectors := u.sectors }) ∧
      (s.sector (m / 32) = .filling ∨ s.sector (m / 32) = .draining →
        exec sts s = .next (s.trap k .owner (sa.setWidth 64)))) ∧
    (let i : Instr := .atoms g la op w64 d a b c
     let n := if w64 then 8 else 4
     let arg (r : Reg) : Nat := if w64 then (t.pair r).toNat else (t.r r).toNat
     let sa := t.r a
     let m := crewAddr core cr sa.toNat
     s.issues i k t →
     (sa.toNat % n ≠ 0 → exec i s = .next (s.trap k .misaligned (sa.setWidth 64))) ∧
     (sa.toNat % n = 0 → cr.inAlloc sa.toNat n = false → exec i s = .next (s.trap k .scratchRange (sa.setWidth 64))) ∧
     (sa.toNat % n = 0 → cr.inAlloc sa.toNat n = true →
       (t.inTask = true → exec i s = .next (s.trap k .taskIrrevocable)) ∧
       (t.inTask = false → (s.sector (m / 32) = .filling ∨ s.sector (m / 32) = .draining) →
         exec i s = .next (s.trap k .owner (sa.setWidth 64))) ∧
       (t.inTask = false → (s.sector (m / 32) = .ready ∨ s.sector (m / 32) = .empty) →
         let old := natOf (s.readScr m n)
         ∃ u o, exec i s = .next u ∧ o.vals = wordsOfNat old (if w64 then 2 else 1) ∧ o.dests = (infoOf i).writes ∧
           u.thread? k = some (s.afterLong (t0.sees (s0.visibleTo core)) la.toNat o) ∧ (∀ j, j ≠ k → u.thread? j = s.thread? j) ∧
           (NMap.wf s.sectors = true → u.sector (m / 32) = .ready) ∧
           u.scratch = s.scratch.writeAll (cellsAt m (bytesOf (atomNew op (8 * n) old (arg b) (arg c)) n)) ∧
           u = { s0 with threads := u.threads, issue := u.issue, scratch := u.scratch, sectors := u.sectors })))

/-- R107, R108, R190: LD.MAP and ST.MAP read and write scratchpads, tiles and physical registers by map address, with no regard to
sectors; an address that is misaligned or in no window takes MISALIGNED or MAP_RANGE, imprecisely for the load. After ST.MAP every byte
that it stored reads back through the map, every other byte of the map reads as before, and so do every other register, tile, flag and
anchor. -/
def Obligations.OnChipMap : Prop :=
  ∀ (s : State) (k : Nat) (t : Thread) (g : Guard) (la : BitVec 4) (w : Width) (d a : Reg) (imm : BitVec 24),
    let va := t.pair a + imm.signExtend 64
    let n := widthBytes w
    let ld : Instr := .ldMap g la w d a imm
    let st : Instr := .stMap g w d a imm
    let good := va.toNat % n = 0 ∧ va.toNat < 2 ^ 32 ∧ (mapPlace va.toNat).isSome = true
    let bad := if va.toNat % n ≠ 0 then Cause.misaligned else .mapRange
    (s.issues ld k t →
      (good → ∃ u o, exec ld s = .next u ∧ o.dests = (infoOf ld).writes ∧ o.mat = none ∧ o.flags = 0 ∧
        o.vals = loadWords w ((upTo va.toNat n).map s.mapByte) ∧ s.did u k (s.afterLong (t.sees (s.visibleTo (coreOf k))) la.toNat o)) ∧
      (¬good → ∃ u, exec ld s = .next u ∧ s.did u k (s.afterImp t la.toNat (infoOf ld).writes false bad va))) ∧
    (s.issues st k t →
      (good → ∃ u, exec st s = .next u ∧
        (s.scratch.wf = true → s.mapWf = true →
          (∀ p, p < va.toNat ∨ va.toNat + n ≤ p → u.mapByte p = s.mapByte p) ∧
          (∀ m < n, (∀ c ln r o, mapPlace (va.toNat + m) = some (.phys c ln r o) → ∀ j q, s.ownerOf c ln r = some (j, q) →
              ∃ x, s.thread? j = some x ∧ q < x.regs.length) →
            u.mapByte (va.toNat + m) = (storeBytes w t d).getD m 0)) ∧
        (∀ c, mapPlace va.toNat = some (.scratch c) →
          u.scratch = s.scratch.writeAll (cellsAt va.toNat (storeBytes w t d)) ∧ s.did { u with scratch := s.scratch } k (s.after t)) ∧
        (∀ c m e o, mapPlace va.toNat = some (.tile c m e o) →
          s.did { u with tiles := s.tiles } k (s.after t) ∧
          (s.mapWf = true → (∀ p, p ≠ c * 16 + m → u.tiles.find? p = s.tiles.find? p) ∧
            (u.tile (c * 16 + m)).anchor = (s.tile (c * 16 + m)).anchor ∧
            ∀ p, ((u.tile (c * 16 + m)).elem p).fl = ((s.tile (c * 16 + m)).elem p).fl)) ∧
        (∀ c ln r o, mapPlace va.toNat = some (.phys c ln r o) →
          u = { s with threads := u.threads, issue := s.issue.map (fun b => { b with todo := b.todo.erase k, begun := true }), phys := u.phys } ∧
          (∀ j, ∀ x, s.thread? j = some x → ∃ y, u.thread? j = some y ∧
            y = { (if j = k then s.after x else x) with regs := y.regs } ∧
            ∀ q, (∀ m < n, ∀ c' l' r' o', mapPlace (va.toNat + m) = some (.phys c' l' r' o') → s.ownerOf c' l' r' ≠ some (j, q)) →
              y.reg q = x.reg q))) ∧
      (¬good → exec st s = .next (s.trap k bad va)))

/-- R167: NOP and YIELD leave the thread at its next word and change nothing else.

R202, R193, R126, R127, R129: PREF and FENCE.ACQ change nothing but the PC; FENCE.REL makes later stores wait for what the thread
saw; FENCE.SC empties the thread's store queue, whose bytes are stored, and makes its stores, and what it saw, visible at its scope:
that it does so at once is the model's reading (notes/assumptions/13.md). -/
def Obligations.FencesAndNops : Prop :=
  (∀ (s : State) (k : Nat) (t : Thread) (g : Guard), ∀ i ∈ [.nop g, .yield g], s.issues i k t → s.gives i k t) ∧
  (∀ (s : State) (k : Nat) (t : Thread) (g : Guard) (a : Reg) (imm : BitVec 24) (sc : Scope),
     let m := scopeMask sc (coreOf k)
     (s.issues (.pref g a imm) k t → s.gives (.pref g a imm) k t) ∧
     (s.issues (.fence g sc .acq) k t → s.gives (.fence g sc .acq) k t) ∧
     (s.issues (.fence g sc .rel) k t →
       s.gives (.fence g sc .rel) k { t with relNeed := (t.seen.map fun n => (n, m)) ++ t.relNeed }) ∧
     (s.issues (.fence g sc .sc) k t →
       ∃ u, exec (.fence g sc .sc) s = .next u ∧ u.thread? k = some (s.after { t with storeq := [] }) ∧
         (∀ j, j ≠ k → u.thread? j = s.thread? j) ∧
         (∀ f ∈ u.flights, f.writer = t.writer k ∨ f.id ∈ t.seen → f.seen &&& m = m) ∧
         (s.mem.wf = true → s.stored u (t.storeq.flatMap fun q => q.bytes))))

/-- R205: SPALLOC that finds its run of rows gives its base; the region is the crew's, its sectors are READY and its bytes 0, every
other byte of the scratchpads is as before. When a thread outside a task asks for what cannot be had it gets 0xFFFFFFFF.

R206, R207: SPFREE gives the rows of a region back and keeps their bytes; SECT.QUERY gives the state of a sector; SECT.CLR and
SECT.SET change a sector that no engine owns and take OWNER at one that an engine owns. Which run SPALLOC takes, what SPFREE keeps, and
that SECT.CLR keeps the bytes, are the model's readings (notes/assumptions/16.md). -/
def Obligations.RegionsAndSectors : Prop :=
  (∀ (s : State) (k : Nat) (t : Thread) (g : Guard) (d a : Reg) (cr : Crew),
     let i : Instr := .spalloc g d a
     let rows := ((t.r a).toNat + 2047) / 2048
     s.issues i k t → s.crew? (t.crewKey k) = some cr →
     (((t.r a) = 0 ∨ cr.pool < rows ∨ 64 ≤ cr.regions.length ∨ cr.freeRun rows = none) →
       t.inTask = false → s.gives i k (t.setReg d.toNat 0xFFFFFFFF)) ∧
     (∀ b, (t.r a) ≠ 0 → rows ≤ cr.pool → cr.regions.length < 64 → cr.freeRun rows = some b →
       let m := crewAddr (coreOf k) cr (b * 2048)
       (s.quietSectors (rowSectors (coreOf k) cr b rows) = false → exec i s = .next s.stall) ∧
       (s.quietSectors (rowSectors (coreOf k) cr b rows) = true →
         ∃ u r, exec i s = .next u ∧ u.thread? k = some (s.after (t.setReg d.toNat (BitVec.ofNat 32 (b * 2048)))) ∧
           (∀ j, j ≠ k → u.thread? j = s.thread? j) ∧ r.row = b ∧ r.rows = rows ∧ (t.inTask = false → r.task = none) ∧
           u.crew? (t.crewKey k) = some { cr with regions := cr.regions ++ [r] } ∧
           u = { s with threads := u.threads, issue := u.issue, crews := u.crews, scratch := u.scratch, sectors := u.sectors } ∧
           (s.scratch.wf = true → ∀ p, u.scratch.read p = if m ≤ p ∧ p < m + rows * 2048 then 0 else s.scratch.read p) ∧
           (NMap.wf s.sectors = true → ∀ n, m / 32 ≤ n → n < m / 32 + rows * 64 → u.sector n = .ready)))) ∧
  (∀ (s : State) (k : Nat) (t : Thread) (g : Guard) (d a : Reg) (cr : Crew), s.crew? (t.crewKey k) = some cr →
     let n := sectorAt (coreOf k) cr (t.r a).toNat
     (∀ r, s.issues (.spfree g a) k t → cr.regions.find? (fun r => r.row * 2048 == (t.r a).toNat) = some r → t.inTask = false →
       (s.quietSectors (rowSectors (coreOf k) cr r.row r.rows) = false → exec (.spfree g a) s = .next s.stall) ∧
       (s.quietSectors (rowSectors (coreOf k) cr r.row r.rows) = true →
         ∃ u cr', exec (.spfree g a) s = .next u ∧ u.thread? k = some (s.after t) ∧ (∀ j, j ≠ k → u.thread? j = s.thread? j) ∧
           u.crew? (t.crewKey k) = some cr' ∧ cr'.regions = cr.regions.filter (fun x => x != r) ∧
           u = { s with threads := u.threads, issue := u.issue, crews := u.crews })) ∧
     ((t.r a).toNat + 1 ≤ (cr.rows - cr.wbuf) * 2048 →
       (s.issues (.sectQuery g d a) k t → s.gives (.sectQuery g d a) k (t.setReg d.toNat
         (match s.sector n with | .empty => 0 | .ready => 1 | .filling => 2 | .draining => 3))) ∧
       (t.inTask = false → ∀ x ∈ ([(.sectClr g a, .empty), (.sectSet g a, .ready)] : List (Instr × Sector)), s.issues x.1 k t →
         (s.sector n = .filling ∨ s.sector n = .draining → exec x.1 s = .next (s.trap k .owner ((t.r a).setWidth 64))) ∧
         (s.sector n = .ready ∨ s.sector n = .empty →
           ∃ u, exec x.1 s = .next u ∧ u.thread? k = some (s.after t) ∧ (∀ j, j ≠ k → u.thread? j = s.thread? j) ∧
             (NMap.wf s.sectors = true → u.sector n = x.2 ∧ ∀ m, m ≠ n → u.sector m = s.sector m) ∧
             u = { s with threads := u.threads, issue := u.issue, sectors := u.sectors }))) ∧
     ((cr.rows - cr.wbuf) * 2048 < (t.r a).toNat + 1 →
       ∀ i ∈ ([.sectQuery g d a, .sectClr g a, .sectSet g a] : List Instr), s.issues i k t →
         exec i s = .next (s.trap k .scratchRange ((t.r a).setWidth 64))))

/-- R98, R99: the draw of RAND and RANDF. `out` is R98's function of the key, the position and the draw; RAND writes it, RANDF the
number (out >> 8) × 2^−24, and DRAW goes up by one; at the last draw both take RNG_EXHAUSTED and write nothing. No flag is raised. -/
def Obligations.RandomDraws : Prop :=
  ∀ (s : State) (k : Nat) (t : Thread) (g : Guard) (d a : Reg),
    let key0 := t.reg a.toNat
    let key1 := t.reg (a.toNat + 1)
    let q := t.reg (a.toNat + 3)
    let rounds := (List.range 10).foldl (fun (x : Word × Word × Word × Word) (n : Nat) =>
        let x0 := x.1 + x.2.1
        let x3 := (x.2.2.2 ^^^ x0).rotateLeft 13
        let x2 := x.2.2.1 + x3
        let x1 := (x.2.1 ^^^ x2).rotateLeft 9
        let x0 := x0 + x1
        let x3 := (x3 ^^^ x0).rotateLeft 17
        let x2 := x2 + x3
        let x1 := (x1 ^^^ x2).rotateLeft 5
        (x0 + BitVec.ofNat 32 (0x5A3C96E1 * (n + 1)), x1, x2, x3))
      (key0, key1, t.reg (a.toNat + 2), q)
    let out : Word := (rounds.1 + key0) ^^^ (rounds.2.2.1 + key1) ^^^ rounds.2.1.rotateLeft 11 ^^^ rounds.2.2.2
    let drawn := t.setReg (a.toNat + 3) (q + 256)
    (q.toNat / 256 = 0xFFFFFF → ∀ i ∈ ([.rand g d a, .randf g d a] : List Instr), s.issues i k t →
      exec i s = .next (s.trap k .rngExhausted)) ∧
    (q.toNat / 256 ≠ 0xFFFFFF →
      (q + 256).toNat / 256 = q.toNat / 256 + 1 ∧ (q + 256).toNat % 256 = q.toNat % 256 ∧
      (s.issues (.rand g d a) k t → s.gives (.rand g d a) k (drawn.setReg d.toNat out)) ∧
      (s.issues (.randf g d a) k t → ∃ v m e, s.gives (.randf g d a) k (drawn.setReg d.toNat v) ∧
        decodeFloat .f32 v.toNat = .fin false m e ∧ m * 2 ^ (e + 149).toNat = out.toNat / 256 * 2 ^ 125))

/-- R203, R204, R355, R381: SEAL, UNSEAL, TLBINV and DLOG. A region with a bad shape takes the first cause of R203. With its pages
checked, SEAL waits for the commands that write it and then every page's entry is sealed, with no translation of the region
left; UNSEAL answers 1 while a command touches it, else it clears the seal and the replica count of every page and answers 0. No other
byte of memory changes but those that the threads' queues held (none, in a quiet machine). TLBINV leaves no translation that it names.
DLOG reads and clears one word of the dirty bitmap. That the thread's queue empties first is the model's reading
(notes/assumptions/13.md, notes/assumptions/15.md), as is the order of DLOG's two causes (notes/assumptions/34.md). -/
def Obligations.SealsAndTranslations : Prop :=
  ∀ (s : State) (k : Nat) (t : Thread) (g : Guard) (d a b : Reg),
    let va := t.pair a
    let len := t.pair b
    let sl : Instr := .seal g a b
    let us : Instr := .unseal g d a b
    let meets (e : TlbEnt) : Prop := e.vf = t.vf ∧ e.va < va.toNat + len.toNat ∧ va.toNat < e.va + e.size
    (∀ i ∈ [sl, us], s.issues i k t →
      (len = 0 ∨ va.toNat % 65536 ≠ 0 ∨ len.toNat % 65536 ≠ 0 → exec i s = .next (s.trap k .sealRange va)) ∧
      (len ≠ 0 → va.toNat % 65536 = 0 → len.toNat % 65536 = 0 →
        (2 ^ 56 < va.toNat + len.toNat → exec i s = .next (s.trap k .addrRange va)) ∧
        (va.toNat + len.toNat ≤ 2 ^ 56 → t.inTask = true → exec i s = .next (s.trap k .taskIrrevocable)))) ∧
    (∀ ts, len ≠ 0 → va.toNat % 65536 = 0 → len.toNat % 65536 = 0 → va.toNat + len.toNat ≤ 2 ^ 56 → t.inTask = false →
      s.regionPages (coreOf k) t.vf (tlbPort k) va.toNat len.toNat (len.toNat / 65536) va.toNat = .ok ts →
      (s.issues sl k t →
        (s.inFlight t.vf true va.toNat len.toNat = true → exec sl s = .next s.stall) ∧
        (s.inFlight t.vf true va.toNat len.toNat = false →
          ∃ u, exec sl s = .next u ∧ (∀ e ∈ u.tlb, ¬meets e) ∧ u.thread? k = some (s.after { t with storeq := [] }) ∧
            (s.quiet → (∀ e ∈ ts, (u.lastByte e.pte).getLsbD 5 = true) ∧ (∀ j, j ≠ k → u.thread? j = s.thread? j) ∧
              ∀ p, (∀ e ∈ ts, p ≠ e.pte) → u.lastByte p = s.lastByte p))) ∧
      (s.issues us k t →
        (s.inFlight t.vf false va.toNat len.toNat = true → s.gives us k (t.setReg d.toNat 1)) ∧
        (s.inFlight t.vf false va.toNat len.toNat = false →
          ∃ u, exec us s = .next u ∧ (∀ e ∈ u.tlb, ¬meets e) ∧
            u.thread? k = some (s.after (({ t with storeq := [] } : Thread).setReg d.toNat 0)) ∧
            (∀ j, j ≠ k → u.thread? j = s.thread? j) ∧
            (s.quiet → (∀ e ∈ ts, (u.lastByte e.pte).getLsbD 5 = false ∧
                ((s.lastByte e.pte).getLsbD 5 = true → (u.lastByte (e.pte + 1)).getLsbD 3 = false ∧ (u.lastByte (e.pte + 1)).getLsbD 4 = false)) ∧
              ∀ p, (∀ e ∈ ts, p ≠ e.pte ∧ p ≠ e.pte + 1) → u.lastByte p = s.lastByte p)))) ∧
    (va.toNat < 2 ^ 56 → s.issues (.tlbinvPage g a) k t →
      ∃ u, exec (.tlbinvPage g a) s = .next u ∧
        ∀ e, e ∈ u.tlb ↔ e ∈ s.tlb ∧ ¬(e.vf = t.vf ∧ e.va ≤ va.toNat ∧ va.toNat < e.va + e.size)) ∧
    (va.toNat < 2 ^ 56 → va.toNat + len.toNat ≤ 2 ^ 56 → s.issues (.tlbinvRange g a b) k t →
      ∃ u, exec (.tlbinvRange g a b) s = .next u ∧
        ∀ e, e ∈ u.tlb ↔ e ∈ s.tlb ∧ ¬(len ≠ 0 ∧ e.size ≠ 0 ∧ meets e)) ∧
    (s.issues (.tlbinvAll g) k t →
      ∃ u, exec (.tlbinvAll g) s = .next u ∧ ∀ e, e ∈ u.tlb ↔ e ∈ s.tlb ∧ e.vf ≠ t.vf) ∧
    (s.issues (.dlog g d a) k t →
      (s.dirtyBits t.vf ≤ 64 * (t.r a).toNat → exec (.dlog g d a) s = .next (s.trap k .sysregBad)) ∧
      (64 * (t.r a).toNat < s.dirtyBits t.vf → t.inTask = true → exec (.dlog g d a) s = .next (s.trap k .taskIrrevocable)) ∧
      (64 * (t.r a).toNat < s.dirtyBits t.vf → t.inTask = false →
        ∃ u v, exec (.dlog g d a) s = .next u ∧ u.thread? k = some (s.after (t.setPair d v)) ∧
          ((s.part t.vf).dirty.Nodup → ∀ n < 64, v.getLsbD n = true ↔
            64 * (t.r a).toNat + n ∈ (s.part t.vf).dirty ∧ 64 * (t.r a).toNat + n < s.dirtyBits t.vf) ∧
          (∀ n, n ∈ (u.part t.vf).dirty ↔ n ∈ (s.part t.vf).dirty ∧ n / 64 ≠ (t.r a).toNat)))

/-- R41, R209 to R211, R215, R216: SHFL, VOTE, MATCH and ELECT, when the last masked thread of the gang arrives: every thread that
takes part has its result and goes on at the next word, and nothing else of the machine changes. `src` is what a lane offers. -/
def Obligations.LaneCollectives : Prop :=
  ∀ (s s' : State) (k : Nat) (t : Thread) (ks : List Nat) (g : Guard) (mode : ShflMode) (w64 : Bool) (d a b m : Reg)
    (pa pd : Pred), s.wf = true → s.arrivesLast k t (t.r m) s' ks →
    let src (x : Thread) : DWord := if w64 then x.pair a else (x.r a).setWidth 64
    let takes (l : Nat) (x : Thread) : Prop := ∃ j ∈ ks, laneInGang j = l ∧ s'.thread? j = some x
    let each (i : Instr) (result : Nat → Thread → Thread → Prop) : Prop :=
      s.issues i k t → ∃ u, exec i s = .next u ∧ (∀ j, j ∉ ks → j ≠ k → u.thread? j = s.thread? j) ∧
        u = { s with threads := u.threads, issue := u.issue } ∧
        (∀ j ∈ ks, ∀ x, s'.thread? j = some x → ∃ y, result (laneInGang j) x y ∧ u.thread? j = some (
          if j = k then s.after { y with arrival := none } else { y.next with arrival := none, passed := true }))
    each (.shfl g mode w64 d a b m) (fun l x y => ∃ v : DWord,
      y = (if w64 then x.setPair d v else x.setReg d.toNat (loWord v)) ∧
      let n := (x.r b).toNat
      let from? : Option Nat :=
        match mode with
        | .idx => some (n % 32)
        | .up => if n ≤ l then some (l - n) else none
        | .down => if l + n ≤ 31 then some (l + n) else none
        | .xor => some (l ^^^ (n % 32))
      (∀ z l', from? = some l' → takes l' z → (∀ z', takes l' z' → z' = z) → v = src z) ∧
        ((∀ l', from? = some l' → ∀ z, ¬takes l' z) → v = src x)) ∧
    each (.vote g .all d pa m) (fun _ x y => ∃ v,
      y = x.setPred (d.setWidth 3) v ∧ (v = true ↔ ∀ l z, takes l z → z.pred pa = true)) ∧
    each (.vote g .any d pa m) (fun _ x y => ∃ v,
      y = x.setPred (d.setWidth 3) v ∧ (v = true ↔ ∃ l z, takes l z ∧ z.pred pa = true)) ∧
    each (.vote g .ballot d pa m) (fun _ x y => ∃ v : Word,
      y = x.setReg d.toNat v ∧ ∀ l < 32, v.getLsbD l = true ↔ ∃ z, takes l z ∧ z.pred pa = true) ∧
    each (.matchx g w64 d a m) (fun _ x y => ∃ v : Word,
      y = x.setReg d.toNat v ∧ ∀ l < 32, v.getLsbD l = true ↔ ∃ z, takes l z ∧ src z = src x) ∧
    each (.elect g pd m) (fun l x y => ∃ v,
      y = x.setPred pd v ∧ (v = true ↔ ∀ l' z, takes l' z → l ≤ l'))

/-- R212 to R214: SCAN and REDX, when the last masked thread arrives, with no trap of the floating point enabled in any thread that
takes part: each has its result and the flags of it, and goes on. SCAN combines the values of the lanes in increasing order
(`scanLanes`), REDX those of a fixed tree of 32 leaves (`redTree`).

R92, R184, R185: QNT is a gang collective: with every masked thread arrived it is performed for all of them together, and each has
its element and the block's scale in gd, with EF its residue in ge, and its flags; else the thread parks on ARRIVE. The scale is that of
the greatest finite element; an element is scaled and rounded to the format, or what R92 says of a NaN and an infinity. A lane value that
nothing is combined with stands as it is (notes/assumptions/48.md). -/
def Obligations.LaneReductions : Prop :=
  (∀ (s s' : State) (k : Nat) (t : Thread) (ks : List Nat) (g : Guard) (rm : RMode) (op : LaneOp) (excl : Bool) (d a m : Reg),
     s.wf = true → s.arrivesLast k t (t.r m) s' ks → (∀ j ∈ ks, ∀ x, s'.thread? j = some x → x.fctl = 0) →
     let each (i : Instr) (result : Nat → Nat × FFlags) : Prop :=
       s.issues i k t → ∃ u, exec i s = .next u ∧ (∀ j, j ∉ ks → j ≠ k → u.thread? j = s.thread? j) ∧
         u = { s with threads := u.threads, issue := u.issue } ∧
         (∀ j ∈ ks, ∀ x, s'.thread? j = some x →
           let r := result (laneInGang j)
           let y : Thread := ({ x with fstat := x.fstat ||| r.2.setWidth 32 } : Thread).setReg d.toNat (BitVec.ofNat 32 r.1)
           u.thread? j = some (if j = k then s.after { y with arrival := none } else { y.next with arrival := none, passed := true }))
     let vals := ks.map fun j => (laneInGang j, ((s'.threadAt j).r a).toNat)
     each (.scan g rm op excl d a m) (fun l => laneVal (scanLanes op rm excl none 0 vals) l (0, 0)) ∧
     each (.redx g rm op d a m) (fun _ =>
       (redTree op rm (fun l => (vals.find? fun x => x.1 == l).map (·.2)) 5 0).getD (0, 0))) ∧
  (∀ (s s' : State) (k : Nat) (t : Thread) (ks : List Nat) (g : Guard) (fmt : QntFmt) (ef : Bool) (d a m e : Reg),
     let i : Instr := .qnt g fmt ef d a m e
     s.wf = true → s.arrivesLast k t (t.r m) s' ks → (∀ j ∈ ks, ∀ x, s'.thread? j = some x → x.fctl = 0) → s.issues i k t →
     let z := quantise fmt ef (ks.map fun j => (((s'.threadAt j).r a).toNat, if ef then ((s'.threadAt j).r e).toNat else 0))
     ∃ u, exec i s = .next u ∧ (∀ j, j ∉ ks → j ≠ k → u.thread? j = s.thread? j) ∧
       u = { s with threads := u.threads, issue := u.issue } ∧
       (∀ (n j : Nat) (x : Thread), ks[n]? = some j → s'.thread? j = some x → ∃ r : Nat × Nat × FFlags, z.2[n]? = some r ∧
         let y0 : Thread := ({ x with fstat := x.fstat ||| r.2.2.setWidth 32 } : Thread).setReg d.toNat
           (BitVec.ofNat 32 (r.1 + (z.1 % 256).toNat * 65536))
         let y : Thread := if ef then y0.setReg e.toNat (BitVec.ofNat 32 r.2.1) else y0
         u.thread? j = some (if j = k then s.after { y with arrival := none } else { y.next with arrival := none, passed := true }))) ∧
  (∀ (s : State) (k : Nat) (t : Thread) (g : Guard) (fmt : QntFmt) (ef : Bool) (d a m e : Reg),
     s.issues (.qnt g fmt ef d a m e) k t → (t.r m).getLsbD (laneInGang k) = true → (isSteward (coreOf k) = false ∨ t.r m = 1) →
     (∀ x ∈ s.gangThreads k t, x.1 ≠ k → x.2.otherMask t.pc (t.r m) = false) →
     (∀ x ∈ s.gangEvicted k t, x.t.otherMask t.pc (t.r m) = false) →
     let s' := s.modThread k fun t => { t with arrival := some { pc := t.pc, mask := t.r m } }
     allArrived (s'.gangThreads k t) t.pc (t.r m) = false →
       exec (.qnt g fmt ef d a m e) s = .next (s'.park k (.arrive (t.r m)))) ∧
  (∀ (fmt : QntFmt) (ef : Bool) (xs : List (Nat × Nat)),
     let z := quantise fmt ef xs
     let emax : Int := match fmt with | .i8 => 6 | .i4 => 2 | .f8a => 8 | .f8b => 15
     let y (x : Nat × Nat) : Nat := if ef then (fAdd .f32 .rne x.1 x.2).1 else x.1
     let ilog (x : Nat × Nat) (l : Int) : Prop := ∃ neg m e, decodeFloat .f32 (y x) = .fin neg m e ∧ m ≠ 0 ∧ l = (Nat.log2 m : Int) + e
     let zero := (∀ x ∈ xs, ∃ neg e, decodeFloat .f32 x.1 = .fin neg 0 e) ∧ ∀ x ∈ xs, ∀ l, ¬ilog x l
     (zero → z = (-128, xs.map fun x => (0, x.2, 0))) ∧
     (¬zero →
       ((∀ x ∈ xs, ∀ l, ¬ilog x l) → z.1 = -128) ∧
       (∀ x ∈ xs, ∀ l, ilog x l → (∀ x' ∈ xs, ∀ l', ilog x' l' → l' ≤ l) → z.1 = max (-128) (min 127 (l - emax))) ∧
       z.2.length = xs.length ∧
       ∀ (n : Nat) (x : Nat × Nat) (r : Nat × Nat × FFlags), xs[n]? = some x → z.2[n]? = some r →
         (∀ q, decodeFloat .f32 (y x) = .nan q →
           r.1 = match fmt with | .i8 => 0 | .i4 => 0 | .f8a => canonNaN .f8a | .f8b => canonNaN .f8b) ∧
         (∀ neg, decodeFloat .f32 (y x) = .inf neg →
           r.1 = match fmt with
             | .i8 => if neg then 0x80 else 0x7F
             | .i4 => if neg then 0x8 else 0x7
             | .f8a => withSign .f8a neg (maxFinite .f8a)
             | .f8b => infBits .f8b neg) ∧
         (∀ neg m e, decodeFloat .f32 (y x) = .fin neg m e →
           r.1 = (encodeElem (qntNum fmt) .rne true ((FVal.fin neg m e).scale (-z.1))).1)))

/-- R38, R217: CBAR.ARM arms a convergence register that no thread has signed in this generation, with its members and what it
expects, and keeps the generation; a set of gangs or a number that cannot be takes CONV_MISMATCH.

R255: CONV arms a convergence register for a team: the team's gangs, 32 signatures for each, COUNT 0, GEN kept. A team that the
crew does not have, or a register that threads have signed in this generation, takes CONV_MISMATCH. -/
def Obligations.ConvergenceArmed : Prop :=
  (∀ (s : State) (k : Nat) (t : Thread) (g : Guard) (c : Conv) (a b : Reg) (cr : Crew),
     let i : Instr := .cbarArm g c a b
     let r := cr.conv c.toNat
     let bad := (r.st = .armed ∧ r.count ≠ 0) ∨ t.r a = 0 ∨ 2 ^ cr.ngang ≤ (t.r a).toNat ∨ t.r b = 0 ∨
       gangSize (coreOf k) * popCount (t.r a).toNat 32 < (t.r b).toNat
     s.issues i k t → s.crew? (t.crewKey k) = some cr → c.toNat < cr.convs.length →
     (bad → exec i s = .next (s.trap k .convMismatch)) ∧
     (¬bad → ∃ u cr', exec i s = .next u ∧ u.thread? k = some (s.after t) ∧ (∀ j, j ≠ k → u.thread? j = s.thread? j) ∧
       u.crew? (t.crewKey k) = some cr' ∧ (∀ n, n ≠ c.toNat → cr'.conv n = cr.conv n) ∧
       cr'.conv c.toNat =
         { st := .armed, members := t.r a, expect := (t.r b).toNat, count := 0, gen := r.gen, op := none, rel := [] } ∧
       u = { s with threads := u.threads, issue := u.issue, crews := u.crews })) ∧
  (∀ (s : State) (k : Nat) (t : Thread) (g : Guard) (c : Conv) (team : BitVec 4) (cr : Crew),
     let i : Instr := .conv g c team
     let r := cr.conv c.toNat
     let bad := cr.team = 0 ∨ cr.ngang / cr.team ≤ team.toNat ∨ (r.st = .armed ∧ r.count ≠ 0)
     s.issues i k t → s.crew? (t.crewKey k) = some cr → c.toNat < cr.convs.length →
     (bad → exec i s = .next (s.trap k .convMismatch)) ∧
     (¬bad → ∃ u cr', exec i s = .next u ∧ u.thread? k = some (s.after t) ∧ (∀ j, j ≠ k → u.thread? j = s.thread? j) ∧
       u.crew? (t.crewKey k) = some cr' ∧ (∀ n, n ≠ c.toNat → cr'.conv n = cr.conv n) ∧
       (∀ n < 32, (cr'.conv c.toNat).members.getLsbD n = decide (team.toNat * cr.team ≤ n ∧ n < (team.toNat + 1) * cr.team)) ∧
       (cr'.conv c.toNat).expect = 32 * cr.team ∧ (cr'.conv c.toNat).st = .armed ∧ (cr'.conv c.toNat).count = 0 ∧
       (cr'.conv c.toNat).gen = r.gen ∧ u = { s with threads := u.threads, issue := u.issue, crews := u.crews }))

/-- R37, R218: the signature of a CBAR. The causes of R37 come in its order; a thread that has signed this generation parks; one that is
not the last signs and parks on CONV; the last one opens the next generation, and every signer that waits for it goes on; one that waits
for something else, or runs its handler, does not move. -/
def Obligations.BarrierSigned : Prop :=
  ∀ (s : State) (k : Nat) (t : Thread) (g : Guard) (sc : Scope) (c : Conv) (cr : Crew),
    let i : Instr := .cbar g sc c
    let ck := t.crewKey k
    let r := cr.conv c.toNat
    let op := opRecord i 0 0 (c.setWidth 32)
    s.issues i k t → s.crew? ck = some cr → c.toNat < cr.convs.length → t.crew < 64 →
    (r.st = .orphaned → exec i s = .next (s.trap k .convOrphan)) ∧
    (r.st = .idle → exec i s = .next (s.trap k .convNotArmed)) ∧
    (r.st = .armed → r.members.getLsbD t.gang = false → exec i s = .next (s.trap k .convNotMember)) ∧
    (r.st = .armed → r.members.getLsbD t.gang = true → r.expect ≤ s.liveIn ck r.members →
      ((t.sig.any fun m => m.1 == c) = true → exec i s = .next (s.park k (.conv c))) ∧
      ((t.sig.any fun m => m.1 == c) = false → r.count ≠ 0 → r.op ≠ some op → exec i s = .next (s.trap k .convMismatch)) ∧
      ((t.sig.any fun m => m.1 == c) = false → (r.count = 0 ∨ r.op = some op) →
        (r.count + 1 ≠ r.expect → ∃ u cr' x, exec i s = .next u ∧ u.crew? ck = some cr' ∧
          (cr'.conv c.toNat).count = r.count + 1 ∧ (cr'.conv c.toNat).op = some op ∧ (cr'.conv c.toNat).gen = r.gen ∧
          u.thread? k = some x ∧ x.phase = .parked (.conv c) s.nextId ∧ x.sig = t.sig ++ [(c, r.gen)] ∧ x.pc = t.pc ∧
          (∀ j, j ≠ k → u.thread? j = s.thread? j)) ∧
        (r.count + 1 = r.expect → s.wf = true → ∃ u cr' x, exec i s = .next u ∧ u.crew? ck = some cr' ∧
          (cr'.conv c.toNat).count = 0 ∧ (cr'.conv c.toNat).gen = (r.gen + 1) % 256 ∧ u.thread? k = some x ∧
          (s.replaying = false → x.pc = t.pc + 8) ∧ (∀ m ∈ x.sig, m.1 ≠ c) ∧
          (∀ j y, j ≠ k → s.thread? j = some y → coreOf j = coreOf k → y.crew = t.crew → (y.sig.any fun m => m.1 == c) = true →
            ∃ y', u.thread? j = some y' ∧ (∀ m ∈ y'.sig, m.1 ≠ c) ∧ (y'.pc = y.pc ∨ y'.pc = y.pc + 8) ∧
              (∀ n, y.phase = .parked (.conv c) n → y'.pc = y.pc + 8) ∧
              (∀ e n, e ≠ c → y.phase = .parked (.conv e) n → y'.pc = y.pc)))))

/-- R220, R226 to R228: ACP is accepted when its operands pass and its unit has room: its tag counter goes up and its thread goes on.
KCNT reads a tag counter; AWAIT goes on at zero and parks on the tag otherwise.

R220, R229, R232 to R235, R241: MCAST, BCP and DRAIN are accepted when their operands and their layout record pass and their
sluice has room: the thread goes on and the engine works by itself. -/
def Obligations.CopiesAccepted : Prop :=
  (∀ (s : State) (k : Nat) (t : Thread) (g : Guard) (slack : BitVec 4) (tag : Tag) (v : BitVec 6) (vreg : Bool) (d a b : Reg)
     (cr : Crew),
     let core := coreOf k
     let va := (t.pair a).toNat
     (s.crew? (t.crewKey k) = some cr → (t.r d).toNat % 32 = 0 → cr.inAlloc (t.r d).toNat 32 = true → t.inTask = false →
       va % 32 = 0 → va < 2 ^ 56 → core ∉ s.fenced → t.kcnt.getD tag.toNat 0 ≠ 255 → s.cmdWaits t (.sluice core) = false →
       let up : Thread := { t with kcnt := t.kcnt.set tag.toNat (t.kcnt.getD tag.toNat 0 + 1) }
       (s.issues (.acpL g slack tag v vreg d a b) k t →
         s.commands (.acpL g slack tag v vreg d a b) k (.sluice core) up) ∧
       (s.issues (.acpS g slack tag v vreg d a b) k t → s.access (agSluice core) t.vf core va .write ≠ .error .sealed →
         s.commands (.acpS g slack tag v vreg d a b) k (.sluice core) up)) ∧
     (s.issues (.kcnt g d tag) k t →
       s.gives (.kcnt g d tag) k (t.setReg d.toNat (BitVec.ofNat 32 (t.kcnt.getD tag.toNat 0)))) ∧
     (s.issues (.await g tag) k t →
       (t.kcnt.getD tag.toNat 0 = 0 → s.gives (.await g tag) k t) ∧
       (t.kcnt.getD tag.toNat 0 ≠ 0 → exec (.await g tag) s = .next (s.park k (.tag (1#8 <<< tag.toNat)))))) ∧
  (∀ (s : State) (k : Nat) (t : Thread) (g : Guard) (slack : BitVec 4) (dir : BcpDir) (mode : DrainMode) (len : BitVec 11)
     (nosig mapd clr : Bool) (tile : Tile) (d a b c : Reg) (cr : Crew),
     let core := coreOf k
     let va := t.pair a
     let sig : List Word := if nosig then [] else [loWord (t.pair c), hiWord (t.pair c)]
     s.crew? (t.crewKey k) = some cr → t.inTask = false → core ∉ s.fenced → s.cmdWaits t (.sluice core) = false →
     (nosig = true ∨ ((t.pair c).toNat % 16 = 0 ∧ (t.pair c).toNat < 2 ^ 56)) →
     (let i : Instr := .mcast g slack len nosig d a b c
      let cores := bitsSet (natOfWords (t.rs b 4)) 128
      s.issues i k t → (t.r d).toNat % 32 = 0 → va.toNat % 32 = 0 → va.toNat < 2 ^ 56 → cores ≠ [] →
       (∀ x ∈ cores, (s.part t.vf).hasCore x = true) → (t.r d).toNat + mcastLen len ≤ 0x300000 → s.commands i k (.sluice core) t) ∧
     (let i : Instr := .bcp g slack dir nosig mapd d a b c
      let cmd := s.newCmd i k t (.sluice core) slack.toNat ([t.r d] ++ t.rs b 5 ++ [loWord va, hiWord va] ++ sig)
      ∀ u bs, s.issues i k t → (t.r d).toNat % 32 = 0 → (mapd = true → s.mapdOk t.vf (t.r d) = true) →
       (s.forUnit k cmd).readTlr cmd va = .ok (u, bs) →
       let tl := Tlr.read bs
       tlrBad bs tl (dir == .load) = false → bcpFmtOk dir tl.fmt = true → (tl.ilv = 1 → (t.r d).toNat % 2048 = 0) →
       (u.bcpPlace k t cr mapd (t.r d) tl.image).2.2 = true →
       (tl.decode = true → ∃ l, u.typedBase { cmd with recd := bs } tl.base = .ok l ∧ tlrFmt tl.fmt = some (pageFmt l.elem)) →
       (tl.decode = false → dir ≠ .load → u.sealedPoint { cmd with recd := bs } tl (coords (t.rs b 5)) = none) →
       s.commands i k (.sluice core) t) ∧
     (let i : Instr := .drain g slack mode nosig clr tile a b c
      let cmd := s.newCmd i k t (.sluice core) slack.toNat
        ([BitVec.ofNat 32 (cr.tiles.getD tile.toNat 0)] ++ t.rs b 5 ++ [loWord va, hiWord va] ++ sig)
      ∀ u bs, s.issues i k t → tile.toNat < cr.tiles.length → (s.forUnit k cmd).readTlr cmd va = .ok (u, bs) →
       let tl := Tlr.read bs
       drainTlrBad bs tl = false → drainShapeBad tl mode = false →
       u.sealedPoint { cmd with recd := bs } tl (coords (t.rs b 5)) = none → s.commands i k (.sluice core) t))

/-- R236 to R239, R284, R288: KVG, KVA, SEGSUM and KVR are accepted when their records can be read and pass. Every masked thread of a
KVG receives its error mask in gd and goes on at the next word; a handle that names no entry gives no fault. -/
def Obligations.KvCommandsAccepted : Prop :=
  ∀ (s : State) (k : Nat) (t : Thread) (g : Guard) (slack : BitVec 4) (n : BitVec 5) (v stale trapE spread nosig : Bool)
    (d a b c m p : Reg) (cr : Crew),
    let core := coreOf k
    let sig : List Word := if nosig then [] else [loWord (t.pair c), hiWord (t.pair c)]
    let sigOk := nosig = true ∨ ((t.pair c).toNat % 16 = 0 ∧ (t.pair c).toNat < 2 ^ 56)
    s.crew? (t.crewKey k) = some cr → t.inTask = false → core ∉ s.fenced →
    (let i : Instr := .kvg g slack v stale trapE spread d a m p
     ∀ s' ks s1 s2 s3 x xb c', s.issues i k t → s.arrivesLast k t (t.r m) s' ks →
      let low := ks.headD k
      let tl := s'.threadAt low
      let w := tl.reg (p.toNat + 3)
      let hs := ks.map fun j => (laneInGang j, (s'.threadAt j).r a)
      let cmd := s'.newCmd i low tl (.sluice core) slack.toNat (tl.rs p 4 ++ handleWords hs)
      tl.inTask = false → tl.crewKey k = t.crewKey k → w.toNat % 2048 = 0 →
      (∀ j ∈ ks, (s'.threadAt j).storeq = []) → s'.kvaRuns tl.vf (cmd.op2 0).toNat = false →
      (ks.foldl (fun (st : State) j => st.forUnit j cmd) s').ctxOf cmd (cmd.op2 0).toNat = .ok (s1, x) → x.malformed = false →
      cr.inAlloc w.toNat (gatherSize x.shape + 32) = true → s1.cmdRead cmd x.va 64 = .ok (s2, xb) →
      s2.gatherFetch { cmd with recd := xb } x hs = .ok (s3, c') →
      (trapE = true → c'.errs = 0) → s'.cmdWaits tl (.sluice core) = false →
      ∃ u, exec i s = .next u ∧ s'.accepted u i low (.sluice core) ∧
        (s.wf = true → (∀ j, j ∉ ks → u.thread? j = s.thread? j) ∧ ∀ j ∈ ks, ∀ x, s'.thread? j = some x →
          let y := x.setReg d.toNat (BitVec.ofNat 32 c'.errs)
          u.thread? j = some (if j = k then s.after { y with arrival := none } else { y.next with arrival := none, passed := true }))) ∧
    (let i : Instr := .kva g slack n nosig a b c
     let cmd := s.newCmd i k t (.sluice core) slack.toNat
       ([loWord (t.pair b), hiWord (t.pair b), loWord (t.pair a), hiWord (t.pair a)] ++ sig)
     ∀ s1 s2 x xb, s.issues i k t → sigOk → (s.forUnit k cmd).ctxOf cmd (t.pair b).toNat = .ok (s1, x) → x.malformed = false →
      s1.cmdRead cmd (t.pair b).toNat 64 = .ok (s2, xb) → s2.kvaSealed { cmd with recd := xb } = none → s.cmdWaits t (.sluice core) = false →
      s.commands i k (.sluice core) t) ∧
    (let i : Instr := .segsum g nosig a c
     let cmd := s.newCmd i k t (.sluice core) 0 ([t.r a] ++ sig)
     ∀ s1 s2 hdr seg, s.issues i k t → sigOk → t.storeq = [] → (s.forUnit k cmd).segHdr cmd = .ok (s1, hdr) →
      s1.segOf cmd hdr (t.r a).toNat = .ok (s2, some seg) → seg.state = 1 → s.cmdWaits t (.sluice core) = false →
      s.commands i k (.sluice core) t) ∧
    (let i : Instr := .kvr g a b c
     let cmd := s.newCmd i k t (.sluice core) 0 ([t.r c, loWord (t.pair a), hiWord (t.pair a)] ++ t.rs b 2)
     ∀ s1 s2 o x, s.issues i k t → s.scrCause k t cr (t.r c).toNat 64 32 true = none → (t.pair a).toNat % 256 = 0 →
      (s.forUnit k cmd).ovlOf cmd (t.pair a).toNat = .ok (s1, o) → s1.ctxOf cmd o.ctx = .ok (s2, x) →
      s.scrCause k t cr (t.r c).toNat (2 * x.shape.heads * x.shape.rb) 32 true = none →
      bits (t.r b).toNat 22 16 < o.rcnt → bits (t.r b).toNat 15 0 < x.shape.layers →
      (∀ va ∈ kvrWrites x o (t.pair a).toNat (bits (t.r b).toNat 15 0) (bits (t.r b).toNat 22 16), s2.sealedAt cmd va = false) →
      s.cmdWaits t (.sluice core) = false →
      s.commands i k (.sluice core) t)

/-- R62, R133, R135, R247: SIGDEC and SIGADD outside a task, with an empty store queue, at an aligned signal: VALUE changes by the
addend at sys scope and in one step, and no other byte does; the thread goes on. In a task the change enters the write buffer, and global
memory is as it was (R64).

R247, R248: SIGWAIT goes on when its condition holds of VALUE, or its wait has ended, and parks on SIGNAL otherwise; VALUE and
the operand are signed. It has seen the changes of VALUE that it may have read, so that its thread's releases cover them (R135).
SIGWAIT_REREAD ends the park of a thread that may run and whose condition holds. -/
def Obligations.Signals : Prop :=
  (∀ (s : State) (k : Nat) (t : Thread) (g : Guard) (a b : Reg) (l : Loc),
     let va := (t.pair a).toNat
     s.mem.wf = true → va % 16 = 0 → va < 2 ^ 56 → s.access (coreOf k) t.vf (tlbPort k) va .write = .ok l → t.inTask = false →
     t.storeq = [] → inTail l va = false →
     ∀ x ∈ ([(.sigdec g a, -1), (.sigadd g a b, t.pair b)] : List (Instr × DWord)), s.issues x.1 k t →
       let new := BitVec.ofNat 64 (natOf (s.readAtom (coreOf k) maskSys l.key 8)) + x.2
       ∃ u, exec x.1 s = .next u ∧ s.stored u (cellsAt l.key (bytesOf new.toNat 8)) ∧
         (∃ y, u.thread? k = some y ∧ y.regs = t.regs ∧ (s.replaying = false → y.pc = t.pc + 8)) ∧
         (∀ h, h ∈ u.host.msix → h ∈ s.host.msix ∨ (new = 0 ∧ h.1 = t.vf ∧ x.1 = .sigdec g a))) ∧
  (∀ (s : State) (k : Nat) (t : Thread) (g : Guard) (a b : Reg) (l : Loc) (task : Task),
     let va := t.pair a
     va.toNat % 16 = 0 → va.toNat < 2 ^ 56 → t.inTask = true → s.task? (t.crewKey k) = some task →
     s.xlate (coreOf k) t.vf (tlbPort k) va.toNat .write = .ok l →
     ∀ x ∈ ([(.sigdec g a, -1, true), (.sigadd g a b, t.pair b, false)] : List (Instr × DWord × Bool)), s.issues x.1 k t →
       ((s.queue task.q).wbufUnits < task.units + 2 → s.overflows x.1 (t.crewKey k) task) ∧
       (task.units + 2 ≤ (s.queue task.q).wbufUnits → s.buffers x.1 k t task (.signal va x.2.1 x.2.2))) ∧
  (∀ (s : State) (k : Nat) (t : Thread) (g : Guard) (cond : SigCond) (a b : Reg) (l : Loc),
     let i : Instr := .sigwait g cond a b
     let va := t.pair a
     let holds (x y : DWord) : Prop :=
       match cond with | .eq => x = y | .le => x.toInt ≤ y.toInt | .ne => x ≠ y
     (s.issues i k t → va.toNat % 16 = 0 → va.toNat < 2 ^ 56 → s.access (coreOf k) t.vf (tlbPort k) va.toNat .read = .ok l →
       s.holdRead k t l va.toNat 8 = false → t.storeq = [] → inTail l va.toNat = false → s.mem.wf = true →
       let x := BitVec.ofNat 64 (natOf (s.readAtom (coreOf k) maskSys l.key 8))
       ∃ u seen, exec i s = .next u ∧ (∀ j, j ≠ k → u.thread? j = s.thread? j) ∧ s.stored u [] ∧
         (∀ f ∈ u.flights, f.mutual (coreOf k) maskSys = true →
           (∃ c ∈ f.bytes, l.key ≤ c.1 ∧ c.1 < l.key + 8) → f.id ∈ seen) ∧
         (t.passed = true ∨ holds x (t.pair b) → u.thread? k = some (s.after { t with seen := seen })) ∧
         (t.passed = false → ¬holds x (t.pair b) → u.thread? k = some { t with
           seen := seen, phase := .parked (.signal va cond (t.pair b)) s.nextId, since := s.now })) ∧
     (∀ y order, s.who = [k] → s.thread? k = some t → t.phase = .parked (.signal va cond y) order →
       s.mayRun t.vf (t.crewKey k) = true → inTail l va.toNat = false →
       s.access (coreOf k) t.vf (tlbPort k) va.toNat .read = .ok l →
       holds (BitVec.ofNat 64 (natOf (s.readAtom (coreOf k) maskSys l.key 8))) y →
       ∃ u, exec .sigwaitReread s = .next u ∧ u.thread? k = some { t with passed := true } ∧
         ∀ j, j ≠ k → u.thread? j = s.thread? j))

/-- R221: the command that a sluice serves next has work, can be served, and has the least effective slack of such commands of the
sluice; of several it is the earliest. A command's effective slack is 1 lower for every 1024 cycles in which it is not served.
SLACK_DECAY writes that down, for the command it names and no other, and changes no effective slack.

R227, R233, R235, R238, R240, R242: what a step of the command that a sluice serves performs: SLUICE_BEAT for copies, gathers and
appends, DRAIN_ROW for drains (`EngineBytes` says which bytes each reads and writes). An ACP.L writes the bytes it reads and then
zeros, and touches no global memory. A KVA's beats before the last of a token move nothing yet
(notes/assumptions/28.md).

R110: ENGINE_SECTOR_TAKE. Of the sectors that a command waits for, the ones that are READY or EMPTY, and that no earlier command
waits for, become FILLING or DRAINING and are its own; the others it still waits for. -/
def Obligations.SluiceSteps : Prop :=
  (∀ (s : State) (core : Nat) (c : Cmd),
     let waits (x : Cmd) : Prop := x ∈ s.cmds ∧ x.unit = .sluice core ∧ s.servable x = true ∧ s.cmdWork x = true ∧
       s.cmdReadFree x = true
     (s.sluiceNext core = some c → waits c ∧ ∀ x, waits x → c.slackAt s.now ≤ x.slackAt s.now ∧
       (x.slackAt s.now = c.slackAt s.now → s.cmds.idxOf c ≤ s.cmds.idxOf x)) ∧
     (∀ n, c.lastServed ≤ n → c.slackAt (n + 1024) = c.slackAt n - 1) ∧
     (s.sluiceNext core = none → ∀ x, ¬waits x) ∧
     (∀ id, s.who = [id] → s.cmd? id = some c → c.lastServed + 1024 ≤ s.now → 0 < c.slack → s.mayRun c.vf c.crew = true →
       ∃ u, exec .slackDecay s = .next u ∧ u = { s with cmds := u.cmds } ∧
         (∀ x ∈ s.cmds, x.id ≠ id → x ∈ u.cmds) ∧ (∀ x ∈ u.cmds, x.id = id → ∃ y ∈ s.cmds, y.id = id ∧ x.slack = y.slackAt s.now ∧
           ((∀ z ∈ s.cmds, z.id = id → z = c) → s.now < x.lastServed + 1024 ∧ ∀ n, s.now ≤ n → x.slackAt n = y.slackAt n)))) ∧
  (∀ (s : State) (core : Nat) (c : Cmd) (g : Guard) (slack : BitVec 4) (tag : Tag) (v : BitVec 6) (vreg : Bool) (d a b e : Reg)
     (dir : BcpDir) (nosig mapd : Bool) (len : BitVec 11) (mode : DrainMode) (clr : Bool) (tile : Tile)
     (vv stale trapE spread : Bool) (n : BitVec 5), s.who = [core] → s.sluiceNext core = some c →
     (c.i = .acpL g slack tag v vreg d a b → c.task = none →
       ∀ s1 bs, s.cmdRead c (c.op2 2).toNat (c.op 1).toNat = .ok (s1, bs) →
         ∃ u, exec .sluiceBeat s = .next u ∧
           u.scratch = s1.scratch.writeAll (cellsAt (s1.cmdScr c (c.op 0).toNat) (bs ++ List.replicate (32 - (c.op 1).toNat) 0)) ∧
           u.mem = s1.mem ∧ u.flights = s1.flights ∧ u.threads = s1.threads ∧ u.crews = s1.crews ∧
           (∀ x ∈ u.cmds, x.id = c.id → x.beat = 1)) ∧
     (c.i = .acpS g slack tag v vreg d a b → exec .sluiceBeat s = .next (s.serve c (s.acpStore c))) ∧
     (c.i = .bcp g slack dir nosig mapd d a b e → exec .sluiceBeat s = .next (s.serve c (s.bcpBeat c))) ∧
     (c.i = .mcast g slack len nosig d a b e → exec .sluiceBeat s = .next (s.serve c (s.mcastBeat c len))) ∧
     (c.i = .kvg g slack vv stale trapE spread d a b e →
       (c.beat < c.kvgBeats → exec .sluiceBeat s = .next (s.serve c (s.kvgBeat c))) ∧
       (c.kvgBeats ≤ c.beat → ∀ r, s.kvgFill c c.rows = some r → exec .sluiceBeat s = .next (s.serve c r))) ∧
     (c.i = .kva g slack n nosig a b e →
       (c.sub + 1 < c.kvaTokenBeats → exec .sluiceBeat s = .next ((s.cmdServed c.id).modCmd c.id fun c => { c with sub := c.sub + 1 })) ∧
       (c.kvaTokenBeats ≤ c.sub + 1 → exec .sluiceBeat s = .next ((s.cmdServed c.id).kvaStep c))) ∧
     (c.i = .drain g slack mode nosig clr tile a b e → exec .drainRow s = .next (s.serve c (s.drainRow c mode clr)))) ∧
  (∀ (s : State) (id : Nat) (c : Cmd), s.wf = true → s.who = [id] → s.cmd? id = some c → (∀ x ∈ s.cmds, x.id = id → x = c) →
     (∀ ck t, s.task? ck = some t → ∀ x, .cmd x ∉ t.buf) → (∀ m ∈ s.mats, m.id ≠ id) →
     ∃ u, exec .engineSectorTake s = .next u ∧ u.mem = s.mem ∧ u.scratch = s.scratch ∧ u.threads = s.threads ∧
       (∀ n, (∀ w ∈ c.want, w.1 ≠ n) → u.sector n = s.sector n) ∧
       ∃ c', u.cmd? id = some c' ∧ (∀ w, w ∈ c'.want ↔ w ∈ c.want ∧ s.takable s.claims id w.1 = false) ∧
         (∀ w, w ∈ c'.got ↔ w ∈ c.got ∨ (w ∈ c.want ∧ s.takable s.claims id w.1 = true)) ∧
         (∀ w ∈ c.want, s.takable s.claims id w.1 = true → (∀ w' ∈ c.want, w'.1 = w.1 → w' = w) →
           u.sector w.1 = if w.2 then .filling else .draining))

/-- R227, R230 to R233, R235, R236, R238 to R240, R242: the bytes that the beats of the copy engines move (`State.engineByte` and its
neighbours in Safety say what a command reads and stores at a virtual address, by the model's own translation with the TLBs as they stand
or as the command's own accesses leave them). A BCP load gives each point of its box the element at the
point's place, or the fill; the other directions store or add the elements of the image that are not clipped. A beat of an MCAST lands
the bytes that were read once. A row of a KVG comes from zeros, the block's space or the overlay, and is cleaned or rotated; the status
sector holds STALE, DEADREAD and the errors. A KVA takes the lowest free blocks, which read zero (the zeros are the model's,
notes/assumptions/28.md), lists them, stores the token's rows, cleaned, and last the tail entry, visible to the device. A DRAIN row stores
or adds the values of its elements. An ACP.S stores its sector's bytes and zeros, in a task into the write buffer. -/
def Obligations.EngineBytes : Prop :=
  ∀ (s u : State) (c : Cmd) (g : Guard) (slack : BitVec 4) (tag : Tag) (v : BitVec 6) (vreg : Bool) (d a b e : Reg) (dir : BcpDir)
    (nosig mapd : Bool) (len : BitVec 11) (mode : DrainMode) (clr : Bool) (tile : Tile) (vv stale trapE spread : Bool) (n : BitVec 5),
    s.wf = true →
    let same (u : State) : Prop := u.mem = s.mem ∧ u.flights = s.flights
    let holds (u : State) (p : Nat) (bs : List Byte) : Prop := u.readScr p bs.length = bs
    let t := c.tlr
    let cs := coords ((c.ops.drop 1).take 5)
    let fmt := (tlrFmt t.fmt).getD .f32
    let adds (es : List (Nat × Nat)) : Prop :=
      ∃ w, s.elementAdds c fmt (fmtBits fmt / 8) es s w ∧ w.mem = u.mem ∧ w.flights = u.flights
    let xadds (anchor : Option Int) (es : List ((Nat × Nat) × BitVec 4)) : Prop :=
      ∃ as dl w, s.cmdAccess c t.desc .write = .ok dl ∧
        s.elementXadds c dl t.desc (anchor.getD (descAnchor (s.descAt c.agent (atomScope dl) dl t.desc))) es (s.translated c as) w ∧
        w.mem = u.mem ∧ w.flights = u.flights
    (c.i = .bcp g slack dir nosig mapd d a b e → s.bcpBeat c = .ok u →
      let as := t.granules (s.bcpScr c) c.beat
      let n0 := 512 * c.beat / t.image2
      let num := min 512 (2 * t.image - 512 * c.beat) / t.image2
      let el (x : State) (w i : Nat) : Nat := natOf (x.readGranules as) / 16 ^ (w * i) % 16 ^ w
      let es := t.unclipped cs ((upTo 0 num).map fun i => (n0 + i, el s t.size2 i))
      (dir = .load → t.image % 32 = 0 →
        (∀ i < num, s.boxValue c t cs (n0 + i) (el u t.image2 i)) ∧ s.scratchOutside u as 32 ∧ same u) ∧
      (dir ≠ .load → u.scratch = s.scratch) ∧
      (dir = .store → ∃ cells, s.elementCells c t.size2 es [] cells ∧ s.stored u cells) ∧
      (dir = .fadd → adds es) ∧
      (dir = .xadd → xadds none (es.map fun x => (x, 0)))) ∧
    (c.i = .mcast g slack len nosig d a b e → s.mcastBeat c len = .ok u → ∀ dest n, s.mcastDest c len = some (dest, n) →
      (dest, n) ∈ c.landing len ∧ ∃ bs,
        (c.ahead.find? (fun x => x.1 == n) = none →
          bs.length = min 256 (mcastLen len - 256 * n) ∧ s.engineReads c ((c.op2 1).toNat + 256 * n) bs) ∧
        (∀ x, c.ahead.find? (fun x => x.1 == n) = some x → bs = x.2) ∧
        holds u (mapAddr dest ((c.op 0).toNat + 256 * n)) bs ∧
        s.scratchOutside u [mapAddr dest ((c.op 0).toNat + 256 * n)] bs.length ∧ same u) ∧
    (c.i = .kvg g slack vv stale trapE spread d a b e → ∀ (x : KvEntry) (k : Nat) (src : RowFrom),
      let sh := c.ctx.shape
      let layer := (c.op 2).toNat % 65536
      let head := (c.op 2).toNat / 65536
      let j := 32 * x.tb + k
      let repaired := x.tail = false ∧ j < 64 ∧ x.rmask.getLsbD j = true
      (s.rowFrom c x k = .ok (u, src) → same u ∧
        (x.len ≤ j → src = .zero) ∧
        (j < x.len → ¬repaired → src = .space) ∧
        (j < x.len → repaired → ∀ m, x.dead = some m →
          src = if m.getLsbD j then .overlay else if stale then .spaceStale else .spaceDead) ∧
        (j < x.len → repaired → x.dead = none → ∃ bs, bs.length = 8 ∧ s.engineReads c (ovlMaskVa x.ova layer) bs ∧
          src = if (natOf bs).testBit j then .overlay else if stale then .spaceStale else .wait)) ∧
      (src ≠ .wait → s.fillRow c x k src = .ok u →
        ∃ bs, same u ∧ s.scratchOutside u (s.rowPlace c x k) 32 ∧
          (src = .zero → bs = List.replicate sh.rb 0) ∧
          (src ≠ .zero → ∃ raw,
            (src = .overlay → raw.length = sh.rb ∧
              s.engineReads c (ovlRowVa sh x.ova x.rcnt layer (repairIndex x.rmask j) head vv) raw) ∧
            (src ≠ .overlay →
              s.spaceBytes c c.segHdr x.blist (rowOff sh (if x.tail then 0 else x.tb) layer head vv k) (sh.rb / 32) raw) ∧
            bs = if vv then cleanRow sh raw
              else rotateRow sh ((c.rtab.headD 0).getLsbD 0) (c.rtab.drop 1) ((x.base + j) % 2 ^ 32) raw) ∧
          ∀ w < sh.rb / 32, holds u (s.cmdScr c ((c.op 3).toNat + 32 * sh.rb * x.lane) + k * sh.rb +
            32 * (if spread then (w + k) % (sh.rb / 32) else w)) ((bs.drop (32 * w)).take 32)) ∧
      (let p := s.cmdScr c ((c.op 3).toNat + 1024 * sh.rb)
       holds (s.kvgStatus c) p (bytesOf (c.stale + c.dead * 2 ^ 32 + c.errs * 2 ^ 64) 32) ∧
         s.scratchOutside (s.kvgStatus c) [p] 32)) ∧
    (c.i = .kva g slack n nosig a b e → ∀ (hdr : SegHdr) (te te' : TailE) (tok pos : Nat),
      let x := c.ctx
      let sh := x.shape
      let grp := x.tailBlocks hdr.p
      let blist := x.tblist + 4 * grp * (pos / 32)
      let rows := 2 * sh.layers * sh.heads
      let off (r w : Nat) : Nat := rowOff sh 0 (r / 2 / sh.heads) (r / 2 % sh.heads) (r % 2 == 1) (pos % 32) + 32 * w
      (s.kvaBlock c x hdr te = .ok (u, te') → te' = { te with used := te.used + 1 } ∧
        let blocks := s.freePool.take grp
        blocks.length = grp ∧ (∀ i ∈ blocks, u.poolTag i = { owner := c.vf + 1, sealed := false }) ∧
        (∀ i, i ∉ blocks → u.poolTag i = s.poolTag i) ∧
        ∃ cells, ({ s with pool := u.pool } : State).engineCells c
            (cellsAt (x.tblist + 4 * grp * te.used) (blocks.flatMap fun i => bytesOf i 4)) cells ∧
          s.stored u ((blocks.flatMap fun i => cellsAt (s.blockKey i) (List.replicate s.poolBlock 0)) ++ cells)) ∧
      (s.kvaRows c x hdr tok pos = .ok u → ∃ (raw : Nat → List Byte) (blk : Nat → Nat → List Byte),
        (∀ r < rows, (raw r).length = sh.rb ∧ s.engineReads c ((c.op2 2).toNat + sh.rb * (tok * rows + r)) (raw r)) ∧
        (∀ r < rows, ∀ w < sh.rb / 32, (blk r w).length = 4 ∧ s.engineReads c (blist + 4 * (off r w / hdr.p)) (blk r w)) ∧
        s.engineStores u c ((upTo 0 rows).flatMap fun r => (upTo 0 (sh.rb / 32)).flatMap fun w =>
          cellsAt (hdr.poolva + natOf (blk r w) * hdr.p + off r w % hdr.p) (((cleanRow sh (raw r)).drop (32 * w)).take 32))) ∧
      (∀ s1 s2, s.segHdr c = .ok (s1, hdr) → s1.tailOf c x = .ok (s2, te) → s.kvaToken c = .ok u →
        let pos := (if c.beat = 0 then te.len else c.done) + c.beat
        (∃ bs, bs.length = 32 ∧ s.engineReads c (x.va + 320 + 32 * x.slots) bs ∧ te = TailE.read bs) ∧ te.resv = false ∧
        ∃ s3 s4 te', (if pos % 32 = 0 then s2.kvaBlock c x hdr te = .ok (s3, te') else s3 = s2 ∧ te' = te) ∧
          s3.kvaRows c x hdr c.beat pos = .ok s4 ∧
          s4.engineStores u c (cellsAt (x.va + 320 + 32 * x.slots)
            (bytesOf ((pos + 1) % 2 ^ 32 + te'.base * 2 ^ 32 + te'.used * 2 ^ 64) 12)) ∧
          ∀ f ∈ u.flights, f.writer = cmdWriter c.id → f.seen &&& maskDev = maskDev)) ∧
    (c.i = .drain g slack mode nosig clr tile a b e → s.drainRow c mode clr = .ok u →
      let til := s.tile c.drainTile
      let el (j : Nat) : Elem := til.elem (c.beat * 64 + j)
      let es (val : Elem → Nat) : List ((Nat × Nat) × BitVec 4) := (upTo 0 64).filterMap fun j =>
        (t.place cs (c.beat * 64 + j)).map fun h => ((h, val (el j)), (el j).fl)
      let rounded := (es fun y => drainValue fmt t.sat y til.anchor).map (·.1)
      u.scratch = s.scratch ∧
      (NMap.wf s.tiles = true → u.tile c.drainTile = (if clr = true ∧ c.beat = 63 then { til with els := [] } else til) ∧
        ∀ m, m ≠ c.drainTile → u.tile m = s.tile m) ∧
      (mode = .store → ∃ cells, s.elementCells c t.size2 rounded [] cells ∧ s.stored u cells) ∧
      (mode = .fadd → adds rounded) ∧
      (mode = .xadd → xadds (some til.anchor) (es fun y => y.s.toNat))) ∧
    (c.i = .acpS g slack tag v vreg d a b →
      let va := (c.op2 2).toNat
      let bs := s.readScr (s.cmdScr c (c.op 0).toNat) (c.op 1).toNat ++ List.replicate (32 - (c.op 1).toNat) 0
      (s.acpStore c = .ok u → u.scratch = s.scratch ∧
        (c.task = none → s.engineStores u c (cellsAt va bs)) ∧ (c.task ≠ none → s.cmdTask c = none → same u)) ∧
      (∀ s1 cells y z, s.cmdTask c = some y → s.cmdCells c va bs = .ok (s1, cells) →
        s1.bufferBytes c.crew (cellsAt va bs) = (z, true) → s.acpStore c = .ok u →
        same u ∧ ∃ y', u.task? c.crew = some y' ∧ ∀ p, bufferedByte p y'.buf = (cellAt (cellsAt va bs) p).or (bufferedByte p y.buf)))

/-- R109, R110, R133: a command completes: its stores are performed at dev scope, its sectors are READY, or taken by whoever waits for
them, and no unit holds it. With a signal that can be changed the signal changes first; a fault of it stops the command, which keeps the
fault while it may be served, and else is given up. SEGSUM and KVR are performed whole in one step (notes/assumptions/28.md), and jobs end
in order (notes/assumptions/32.md).

R227, R233, R235, R238, R240, R242, R244, R284, R288: the events that end a command, once all its beats are performed, or that
perform a whole one. -/
def Obligations.CommandsEnd : Prop :=
  (∀ (s : State) (c : Cmd) (sig : Option DWord), s.wf = true → s.cmd? c.id = some c →
     (sig = none →
       let u := s.completeCmd c sig
       (∀ x ∈ u.cmds, x.id ≠ c.id) ∧
       (∀ x ∈ s.cmds, x.id ≠ c.id → ∃ y ∈ u.cmds, y.id = x.id ∧ y.i = x.i ∧ y.beat = x.beat ∧ y.fault = x.fault) ∧
       (∀ w ∈ c.got, (∀ x ∈ s.claims, x.2 ≠ w.1) → u.sector w.1 = .ready) ∧
       (∀ n, (∀ w ∈ c.got, w.1 ≠ n) → (∀ x ∈ s.claims, x.2 ≠ n) → u.sector n = s.sector n) ∧
       (∀ f ∈ u.flights, f.writer = cmdWriter c.id → f.seen &&& maskDev = maskDev) ∧ s.stored u [] ∧ u.threads = s.threads) ∧
     (∀ va u, sig = some va →
       ((s.showWriter (cmdWriter c.id) maskDev).finishAll c.id).cmdSignal c va = .ok u →
       s.completeCmd c sig = u.dropCmd c.id) ∧
     (∀ va e, sig = some va →
       let s1 := (s.showWriter (cmdWriter c.id) maskDev).finishAll c.id
       s1.cmdSignal c va = .error e →
       let u := s.completeCmd c sig
       (∀ s2 id, (e.1.recoverable && ((s.part c.vf).fqOn || c.issued)) = true →
         s1.fileFault c.vf e.1 (BitVec.ofNat 64 e.2) (faultStamp c.thr true) = (s2, some id) →
         ∃ y f, u.cmd? c.id = some y ∧ y.i = c.i ∧ y.fault = some f ∧ f.cause = e.1 ∧ f.va = BitVec.ofNat 64 e.2 ∧ f.fid = some id ∧
           f.resolved = false) ∧
       ((e.1.recoverable && ((s.part c.vf).fqOn || c.issued)) = false → ∀ x ∈ u.cmds, x.id ≠ c.id))) ∧
  (∀ (s : State) (c : Cmd) (g : Guard) (slack : BitVec 4) (tag : Tag) (d a b e : Reg) (dir : BcpDir) (nosig mapd clr : Bool)
     (len : BitVec 11) (mode : DrainMode) (tile : Tile) (vv stale trapE spread : Bool) (n : BitVec 5), s.whoCmd = some c →
     (c.tag? = some tag → c.beat = 1 → exec .acpComplete s = .next ((s.completeCmd c none).decTag c tag)) ∧
     (c.i = .bcp g slack dir nosig mapd d a b e → c.tlr.beats ≤ c.beat →
       exec .bcpComplete s = .next (s.completeCmd c (if nosig then none else some (c.op2 8)))) ∧
     (c.i = .mcast g slack len nosig d a b e → (∀ x ∈ c.land, mcastBeats len ≤ x.2) →
       exec .mcastComplete s = .next (s.completeCmd c (if nosig then none else some (c.op2 7)))) ∧
     (c.i = .kvg g slack vv stale trapE spread d a b e →
       (∀ r, s.isNext c = true → s.kvgFill c c.rows = some r → exec .kvgRowFill s = .next (s.serve c r)) ∧
       (c.kvgBeats ≤ c.beat → c.rows = [] → exec .kvgComplete s = .next ((s.kvgStatus c).completeCmd c none))) ∧
     (c.i = .kva g slack n nosig a b e → c.kvaTokens ≤ c.beat →
       exec .kvaComplete s = .next (s.completeCmd c (if nosig then none else some (c.op2 4)))) ∧
     (c.i = .drain g slack mode nosig clr tile a b e → 64 ≤ c.beat →
       exec .drainComplete s = .next (s.completeCmd c (if nosig then none else some (c.op2 8)))) ∧
     (∀ u, c.i = .segsum g nosig a b → c.beat ≠ 1 → s.isNext c = true → s.segsumAll c = .ok u →
       exec .segsumComplete s = .next (((u.cmdServed c.id).modCmd c.id fun c => { c with beat := 1 }).completeCmd c
         (if nosig then none else some (c.op2 1)))) ∧
     (∀ u, c.i = .kvr g a b e → s.isNext c = true → s.kvrAll c = .ok u → exec .kvrPerform s = .next (u.completeCmd c none)) ∧
     (∀ r, c.unit = .siphon → c.job = some r → s.behind c = false → exec .jobComplete s = .next (s.jobComplete c r)))

/-- R243 to R245: JOB is accepted when its card can be read and passes. The Siphon decodes its jobs in order; an empty stream ends
OK with no output; a beat of STORED, a token of BREF or a block of DEFLATE is one step (`State.symbolAt` and its neighbours in Safety say
what stands in a stream, by RFC 1951 for DEFLATE). STORED copies the stream's bytes; a BREF token writes its literals, or repeats the
output from its distance back; a block of DEFLATE writes the literals and copies of its tokens, with the fixed codes or those that it
describes, or its stored bytes.

R244: the completion of a job. Its record holds STATUS, CODEC, OUTLEN, INUSED, the cause and its address, and TAG; it and PROD + 1 are
stored, visible to the device, before the signal changes. While the ring is full the job waits. -/
def Obligations.SiphonJobs : Prop :=
  ∀ (s : State),
    (∀ (k : Nat) (t : Thread) (g : Guard) (a : Reg) (s1 : State) (bs : List Byte),
      let i : Instr := .job g a
      let va := t.pair a
      let cmd := s.newCmd i k t .siphon 0 [loWord va, hiWord va]
      s.issues i k t → va.toNat % 64 = 0 → va.toNat < 2 ^ 56 → t.inTask = false → 289 ∉ s.fenced → s.cmdWaits t .siphon = false →
      (s.forUnit k cmd).cmdRead cmd va.toNat 64 = .ok (s1, bs) → cardBad bs (Card.read bs) = false →
      s.commands i k .siphon t) ∧
    (∀ c, s.siphonNext = some c →
      (∀ x ∈ s.cmds, x.unit = .siphon → s.mayRun x.vf x.crew = true → x ≠ c → s.cmds.idxOf c < s.cmds.idxOf x) ∧
      (c.card.srclen = 0 → exec .siphonDecode s = .next ((s.cmdServed c.id).jobEnd c 0 0 0)) ∧
      (c.card.srclen ≠ 0 → c.card.codec = 0 → c.card.dstcap = 0 → exec .siphonDecode s = .next ((s.cmdServed c.id).jobEnd c 1 0 0)) ∧
      (c.card.srclen ≠ 0 → c.card.codec = 0 → c.card.dstcap ≠ 0 →
        exec .siphonDecode s = .next ((s.cmdServed c.id).storedBeat c)) ∧
      (c.card.srclen ≠ 0 → c.card.codec = 1 → exec .siphonDecode s = .next ((s.cmdServed c.id).brefStep c)) ∧
      (c.card.srclen ≠ 0 → 2 ≤ c.card.codec → exec .siphonDecode s = .next ((s.cmdServed c.id).deflateBlock c))) ∧
    (∀ (c : Cmd) (o : Nat) (bs : List Byte), s.wf = true →
      (∀ u q, s.putAll c o bs = .ok u q → q = o + bs.length ∧ State.putsAll c bs o s u) ∧
      (∀ u, s.putAll c o bs = .over u → ∃ k < bs.length, c.card.dstcap ≤ o + k ∧ State.putsAll c (bs.take k) o s u) ∧
      (∀ u e q, s.putAll c o bs = .fault u e q → ∃ k < bs.length, q = o + k ∧ State.putsAll c (bs.take k) o s u)) ∧
    (∀ (c : Cmd) (d o n : Nat), s.wf = true →
      (∀ u q, s.putMatch c d o n = .ok u q → q = o + n ∧ State.putsBack c d n o s u) ∧
      (∀ u, s.putMatch c d o n = .over u → ∃ k < n, c.card.dstcap ≤ o + k ∧ State.putsBack c d k o s u) ∧
      (∀ u e q, s.putMatch c d o n = .fault u e q → ∃ k < n, q = o + k ∧ State.putsBack c d k o s u)) ∧
    (∀ c : Cmd, s.wf = true →
      let total := min c.card.srclen c.card.dstcap
      let n := min 256 (total - c.beat)
      (∀ u q, s.storedBytes c n c.beat = .ok u q → q = c.beat + n ∧ State.putsStream c n c.beat s u ∧
        s.storedBeat c =
          if total ≤ q then u.jobEnd c (if c.card.dstcap < c.card.srclen then 1 else 0) q q else u.jobAt c q q) ∧
      (∀ u e q, s.storedBytes c n c.beat = .fault u e q → (∃ k < n, q = c.beat + k ∧ State.putsStream c k c.beat s u) ∧
        s.storedBeat c = u.jobFault c e q q)) ∧
    (∀ c : Cmd,
      let o := c.done
      (∀ tok p, s.brefToken c c.beat = .ok tok p → ∃ h, s.streamByte c c.beat h ∧ (match tok with
        | .lit bs => h.toNat < 128 ∧ bs.length = h.toNat + 1 ∧ p = c.beat + 1 + bs.length ∧
            ∀ j b, bs[j]? = some b → s.streamByte c (c.beat + 1 + j) b
        | .copy n d => 128 ≤ h.toNat ∧ n = h.toNat - 128 + 3 ∧ p = c.beat + 3 ∧
            ∃ b0 b1, s.streamByte c (c.beat + 1) b0 ∧ s.streamByte c (c.beat + 2) b1 ∧ d = b0.toNat + 256 * b1.toNat)) ∧
      (s.brefToken c c.beat = .bad → s.brefStep c = s.jobEnd c 2 o c.beat) ∧
      (∀ n d p, s.brefToken c c.beat = .ok (.copy n d) p → d = 0 ∨ o < d → s.brefStep c = s.jobEnd c 2 o c.beat) ∧
      (∀ tok p r, s.brefToken c c.beat = .ok tok p →
        (match tok with | .lit bs => r = s.putAll c o bs | .copy n d => d ≠ 0 ∧ d ≤ o ∧ r = s.putMatch c d o n) →
        s.brefStep c = match r with
          | .over u => u.jobEnd c 1 c.card.dstcap c.beat
          | .fault u e q => u.jobFault c e c.beat q
          | .ok u q => if c.card.srclen ≤ p then u.jobEnd c 0 q p else u.jobAt c p q)) ∧
    (∀ (c : Cmd) (h pos : Nat), s.wf = true → s.jobBits c c.beat 3 = .ok h pos →
      let last := h % 2 == 1
      s.streamNum c c.beat 3 h ∧ pos = c.beat + 3 ∧
      (h / 2 = 3 → s.deflateBlock c = s.jobEnd c 2 c.done (ceilDiv c.beat 8)) ∧
      (h / 2 = 1 → ∃ n p q s',
        State.inflates c (List.replicate 144 8 ++ List.replicate 112 9 ++ List.replicate 24 7 ++ List.replicate 8 8) (List.replicate 32 5)
          n pos c.done s p q s' ∧
        s'.blockEnds c (List.replicate 144 8 ++ List.replicate 112 9 ++ List.replicate 24 7 ++ List.replicate 8 8) (List.replicate 32 5)
          last p q (s.deflateBlock c)) ∧
      (h / 2 = 2 → ∀ lit dist p0, s.dynTables c pos = .ok (lit, dist) p0 →
        (∃ nlen ndist ncode cl all m,
          s.streamNum c pos 5 nlen ∧ s.streamNum c (pos + 5) 5 ndist ∧ s.streamNum c (pos + 10) 4 ncode ∧
          (∀ j < 19, if j < ncode + 4 then s.streamNum c (pos + 14 + 3 * j) 3 (cl.getD (clOrder.getD j 0) 0)
            else cl.getD (clOrder.getD j 0) 0 = 0) ∧ cl.length = 19 ∧
          s.lengthsAt c cl m [] (pos + 14 + 3 * (ncode + 4)) all p0 ∧ all.length = nlen + 257 + ndist + 1 ∧
          lit = all.take (nlen + 257) ∧ dist = all.drop (nlen + 257)) ∧
        ∃ n p q s', State.inflates c lit dist n p0 c.done s p q s' ∧ s'.blockEnds c lit dist last p q (s.deflateBlock c)) ∧
      (h / 2 = 0 → ∀ b0 b1 b2 b3 p0, s.jobBytes c (ceilDiv pos 8) 4 = .ok [b0, b1, b2, b3] p0 →
        let n := b0.toNat + 256 * b1.toNat
        p0 = ceilDiv pos 8 + 4 ∧ (∀ j b, [b0, b1, b2, b3][j]? = some b → s.streamByte c (ceilDiv pos 8 + j) b) ∧
        (b2.toNat + 256 * b3.toNat ≠ 65535 - n → s.deflateBlock c = s.jobEnd c 2 c.done (ceilDiv c.beat 8)) ∧
        (b2.toNat + 256 * b3.toNat = 65535 - n → s.deflateBlock c = s.defStored c last n (8 * p0) c.done))) ∧
    (∀ (c : Cmd) (last : Bool) (n p o : Nat),
      s.defStored c last 0 (8 * p) o = (if last then s.jobEnd c 0 o p else s.jobAt c (8 * p) o) ∧
      (s.jobByte c p = .bad → s.defStored c last (n + 1) (8 * p) o = s.jobEnd c 2 o p) ∧
      (∀ e, s.jobByte c p = .fault e → s.defStored c last (n + 1) (8 * p) o = s.jobFault c e p o) ∧
      (∀ b p', s.jobByte c p = .ok b p' → b < 256 ∧ s.streamByte c p (BitVec.ofNat 8 b) ∧
        (c.card.dstcap ≤ o → s.defStored c last (n + 1) (8 * p) o = s.jobEnd c 1 c.card.dstcap p) ∧
        (∀ s', s.wf = true → o < c.card.dstcap → s.putByte c o (BitVec.ofNat 8 b) = .ok s' →
          s.puts s' c o (BitVec.ofNat 8 b) ∧ s.defStored c last (n + 1) (8 * p) o = s'.defStored c last n (8 * (p + 1)) (o + 1)))) ∧
    (∀ (c : Cmd) (e : JobEnd), e.status < 256 → e.outlen < 2 ^ 32 → e.inused < 2 ^ 32 → e.cause < 128 → c.card.codec < 256 →
      c.card.tag < 2 ^ 64 →
      let r := jobRecord c.card e
      r.length = 32 ∧ natOf (r.take 1) = e.status ∧ natOf ((r.drop 1).take 1) = c.card.codec ∧ natOf ((r.drop 2).take 2) = 0 ∧
        natOf ((r.drop 4).take 4) = e.outlen ∧ natOf ((r.drop 8).take 4) = e.inused ∧ natOf ((r.drop 12).take 4) = e.cause ∧
        natOf ((r.drop 16).take 8) = c.card.tag ∧ natOf (r.drop 24) = e.addr.toNat) ∧
    (∀ (c : Cmd) (e : JobEnd) (l : Loc) (prod : Nat) (room : Bool), s.wf = true → c.card.ring % 32 = 0 →
      s.ringState c = .ok (l, prod, room) →
      let place := c.card.ring + 32 * (1 + prod % 2 ^ c.card.rsz)
      (∃ ps cs, ps.length = 8 ∧ cs.length = 8 ∧ (∀ i < 8, s.engineByteAs c .write (c.card.ring + i) (ps.getD i 0)) ∧
        (∀ i < 8, s.engineByteAs c .write (c.card.ring + 8 + i) (cs.getD i 0)) ∧ prod = natOf ps ∧
        room = decide ((natOf ps + 2 ^ 64 - natOf cs) % 2 ^ 64 ≠ 2 ^ c.card.rsz)) ∧
      (room = false → s.jobComplete c e = s) ∧
      (room = true → ∀ s2 s3 cells count, s.cmdCells c place (jobRecord c.card e) = .ok (s2, cells) →
        s.cmdCells c c.card.ring (bytesOf (prod + 1) 8) = .ok (s3, count) →
        ∃ s1, s.engineStores s1 c (cellsAt place (jobRecord c.card e) ++ cellsAt c.card.ring (bytesOf (prod + 1) 8)) ∧
          (∀ f ∈ s1.flights, f.writer = cmdWriter c.id → f.seen &&& maskDev = maskDev) ∧
          (c.card.sig = false → s.jobComplete c e = s1.dropCmd c.id) ∧
          (∀ u, c.card.sig = true → s1.cmdSignal c c.card.sigva = .ok u → s.jobComplete c e = u.dropCmd c.id)))

/-- R256, R257: a thread signs an MMA or MMAS once every check passes. It holds its fragment registers and goes on; the last signer's
word puts the operation into the engine's queue, and a full queue keeps that signer's bundle back. -/
def Obligations.TeamOperationsSigned : Prop :=
  ∀ (s : State) (k : Nat) (t : Thread) (g : Guard) (ty : MmaType) (af8b bf8b ua ub sc : Bool) (sr : Reg) (tile : Tile)
    (a b : Reg) (c : Conv) (cr : Crew) (p g0 : Nat),
    let core := coreOf k
    let ck := t.crewKey k
    let r := cr.conv c.toNat
    let n := 32 / cr.team
    let scale := if sc then [sr.toNat] else []
    let mma : Instr := .mma g ty af8b bf8b ua ub sc sr tile a b c
    let mmas : Instr := .mmas g ty af8b bf8b ua ub sc sr tile a b c
    let signs (i : Instr) (frag : List Nat) (op : OpRec) : Prop :=
      (r.count = 0 ∨ r.op = some op) →
      (r.count + 1 = r.expect → s.matFull core = true → exec i s = .next s.stall) ∧
      (r.count + 1 ≠ r.expect ∨ s.matFull core = false →
        ∃ u x cr', exec i s = .next u ∧ u.thread? k = some x ∧ x.pc = (s.after t).pc ∧ u.crew? ck = some cr' ∧
          (∀ q ∈ frag, ∃ h ∈ x.held, h.2 = q) ∧ (∀ h ∈ t.held, h ∈ x.held ∨ h.1 = c.toNat) ∧
          (r.count + 1 ≠ r.expect → (cr'.conv c.toNat).count = r.count + 1 ∧ (cr'.conv c.toNat).op = some op ∧ u.mats = s.mats ∧
            x.sig = t.sig ++ [(c, r.gen)]) ∧
          (r.count + 1 = r.expect → (cr'.conv c.toNat).count = 0 ∧ (cr'.conv c.toNat).gen = (r.gen + 1) % 256 ∧
            ∃ m ∈ u.mats, m.id = s.nextId ∧ m.i = i ∧ m.core = core ∧ m.tile = p ∧ m.gang0 = g0 ∧ m.started = none))
    s.granted ck tile = some p → s.crew? ck = some cr → s.convCheck k { t with sig := [] } c = none →
    cr.teamOf r = some g0 → matrixUnit core ∉ s.fenced → (t.sig.any fun m => m.1 == c) = false → c.toNat < cr.convs.length →
    t.crew < 64 →
    (let frag := regNums a n ++ regNums b n
     s.issues mma k t → (∀ q ∈ frag ++ scale, q < 8 * t.alloc) → s.fragGate k t g (frag ++ scale) = none →
      signs mma frag (opRecord mma (tile.setWidth 8) a (b.setWidth 32))) ∧
    (let frag := regNums a n
     s.issues mmas k t → (∀ q ∈ frag ++ [b.toNat] ++ scale, q < 8 * t.alloc) →
      s.fragGate k t g (frag ++ [b.toNat] ++ scale) = none → (t.r b).toNat % 2048 = 0 → cr.inAlloc (t.r b).toNat 4096 = true →
      signs mmas frag (opRecord mmas (tile.setWidth 8) a (t.r b)))

/-- R252, R253, R264: ACLR, ANCH, APUT, AFLAG and AGET of a granted tile enter the engine's queue when it has room and the thread has
no unissued signature; APUT holds its quad; AFLAG and AGET leave their registers pending. A tile that is not granted takes
TILE_GRANT. With an enable bit of FCTL set AGET waits for an empty queue and reads at once (notes/assumptions/14.md), with no earlier
DRAIN of its tile pending (notes/assumptions/31.md); its window of LA words opens as well.

R87, R251, R252, R258, R261, R263 to R266: MATRIX_OP_START performs the head of a core's queue on its tile, and MATRIX_OP_COMPLETE
gives its values to the registers that wait for them, but for those that a younger word has written since, and takes it off the
queue once its cycles have run. Every other tile is as before. An MMA or MMAS adds to element (i, j), for every k, the contribution
of A(i, k) × B(k, j) with the scales of row i and column j; A, and an MMA's B, are read from the team's registers, an MMAS's B from
its image. -/
def Obligations.TileOperations : Prop :=
  (∀ (s : State) (k : Nat) (t : Thread) (g : Guard) (tile : Tile) (anchor : BitVec 8) (iz an i32 w4 : Bool) (la : BitVec 4)
     (rm : RMode) (a b : Reg) (p : Nat),
     let core := coreOf k
     let aclr : Instr := .aclr g iz tile
     let anch : Instr := .anch g tile anchor
     let aput : Instr := .aput g tile a b
     let aflag : Instr := .aflag g an tile a b
     let aget : Instr := .aget g la rm i32 w4 tile a b
     let queues (i : Instr) (t' : Nat → Thread → Prop) : Prop :=
       s.issues i k t → ∃ u x, exec i s = .next u ∧ u.thread? k = some x ∧ t' s.nextId x ∧
         (∀ j, j ≠ k → u.thread? j = s.thread? j) ∧ u.tiles = s.tiles ∧ u.mem = s.mem ∧
         ∃ m ∈ u.mats, m.id = s.nextId ∧ m.i = i ∧ m.core = core ∧ m.thr = k ∧ m.tile = p ∧ m.started = none ∧ m.want = []
     (∀ i ∈ [aclr, anch, aput, aflag, aget], s.issues i k t → s.granted (t.crewKey k) tile = none →
       exec i s = .next (s.trap k .tileGrant)) ∧
     (s.granted (t.crewKey k) tile = some p → matrixUnit core ∉ s.fenced →
       (t.sig ≠ [] ∨ s.matFull core = true → ∀ i ∈ [aclr, anch, aput, aflag, aget], s.issues i k t → exec i s = .next s.stall) ∧
       (t.sig = [] → s.matFull core = false →
         queues aclr (fun _ x => x = s.after t) ∧ queues anch (fun _ x => x = s.after t) ∧
         queues aput (fun n x => x = s.after { t with held := t.held ++ (regNums a 4).map fun r => (16 + n, r) }) ∧
         queues aflag (fun n x => ∃ o, o.mat = some n ∧ o.dests = [a.toNat] ∧ o.vals = [] ∧ x = s.afterLong t 0 o) ∧
         (t.floatTraps = false → queues aget (fun n x =>
           ∃ o, o.mat = some n ∧ o.dests = regNums a (if w4 then 4 else 1) ∧ o.vals = [] ∧ x = s.afterLong t la.toNat o)) ∧
         (t.floatTraps = true → s.issues aget k t →
           (s.matQueue core ≠ [] → exec aget s = .next s.stall) ∧
           (s.matQueue core = [] → s.drainAhead core p s.nextId = false → la = 0 →
             let r := (s.tile (core * 16 + p)).aget i32 w4 rm (t.r b)
             exec aget s = .next (s.floatDone k t r.2 fun t => t.setRegs a.toNat r.1)) ∧
           (s.matQueue core = [] → s.drainAhead core p s.nextId = false → s.replaying = false →
             let r := (s.tile (core * 16 + p)).aget i32 w4 rm (t.r b)
             (∀ c, trapCause t.fctl r.2 = some c → exec aget s = .next (s.trap k c)) ∧
             (trapCause t.fctl r.2 = none → ∃ u, exec aget s = .next u ∧
               (let x := ((t.orFlags r.2).setRegs a.toNat r.1).next
                s.did u k { x with wins := x.openWin la.toNat (regNums a (if w4 then 4 else 1)) true }))))))) ∧
  (∀ (s : State) (core : Nat) (m : MatOp), s.who = [core] → NMap.wf s.tiles = true →
     (s.matStartable core = some m →
       let n := m.core * 16 + m.tile
       let old := s.tile n
       let e := elemIndex m.idx
       ∃ u, exec .matrixOpStart s = .next u ∧ u.mem = s.mem ∧ (∀ j, j ≠ n → u.tile j = s.tile j) ∧
         (∀ x ∈ u.mats, x.id = m.id → x.started = some s.now) ∧
         (∀ g iz tile, m.i = .aclr g iz tile → (u.tile n).anchor = (if iz then 0 else -64) ∧
           ∀ j, (u.tile n).elem j = { s := 0, fl := 0 }) ∧
         (∀ g tile an, m.i = .anch g tile an → (u.tile n).anchor = an.toInt ∧ ∀ j, (u.tile n).elem j = old.elem j) ∧
         (∀ g tile a b th, m.i = .aput g tile a b → s.thread? m.thr = some th → NMap.wf old.els = true →
           (u.tile n).anchor = old.anchor ∧ (∀ j, j ≠ e → (u.tile n).elem j = old.elem j) ∧
           (u.tile n).elem e =
             { s := BitVec.ofNat 128 (natOfWords (th.rs a 4)), fl := BitVec.ofNat 4 (m.idx.toNat / 4096 % 16) }) ∧
         (∀ g la rm i32 w4 tile a b, m.i = .aget g la rm i32 w4 tile a b → u.tile n = old ∧
           ∀ x ∈ u.mats, x.id = m.id → (x.vals, x.flags) = old.aget i32 w4 rm m.idx) ∧
         (∀ g tile a b, m.i = .aflag g true tile a b → u.tile n = old ∧
           ∀ x ∈ u.mats, x.id = m.id → x.vals = [BitVec.ofInt 32 old.anchor]) ∧
         (∀ g tile a b, m.i = .aflag g false tile a b → u.tile n = old ∧
           ∀ x ∈ u.mats, x.id = m.id → ∃ v, x.vals = [v] ∧
             ∀ q, q < 8 → bits v.toNat (4 * q + 3) (4 * q) = (old.elem (e / 8 * 8 + q)).fl.toNat) ∧
         (∀ g ty af8b bf8b ua ub sc sr tile a b cv, m.team ∈ [2, 4, 8] →
           let w := mmaWidth ty
           let adds (bval : Nat → Nat → Nat) : Prop :=
             (u.tile n).anchor = old.anchor ∧ ∀ j, j < 4096 →
               let scale : Int := if sc then (s.teamScale m sr (j / 64)).1 + (s.teamScale m sr (j % 64)).2 else 0
               (u.tile n).elem j = (upTo 0 (mmaDepth ty)).foldl (fun x q => x.add (contribution
                 (mmaElem ty af8b ua (s.teamElem m a w (j / 64) q)) (mmaElem ty bf8b ub (bval (j % 64) q)) scale old.anchor))
                 (old.elem j)
           (m.i = .mma g ty af8b bf8b ua ub sc sr tile a b cv → adds (s.teamElem m b w)) ∧
           (m.i = .mmas g ty af8b bf8b ua ub sc sr tile a b cv → adds (s.imageElem m w)))) ∧
     (s.matDone core = some m →
       (∃ n, m.started = some n ∧ n + m.cycles ≤ s.now) ∧
       ∃ u, exec .matrixOpComplete s = .next u ∧ (∀ x, x ∈ u.mats ↔ x ∈ s.mats ∧ x.id ≠ m.id) ∧ u.tiles = s.tiles ∧
         (∀ j, j ≠ m.thr → u.thread? j = s.thread? j) ∧
         (∀ t o, s.thread? m.thr = some t → t.outs.find? (fun o => o.mat == some m.id) = some o → ∃ x,
           u.thread? m.thr = some x ∧ x.fstat = t.fstat ||| m.flags.setWidth 32 ∧
           x.outs = (t.outs.filter fun o => o.mat != some m.id) ∧ (∀ r, r ∉ o.dests ∨ r ∈ o.dead → x.reg r = t.reg r) ∧
           (o.dests.Nodup → ∀ q, q < o.dests.length → q < m.vals.length → o.dests.getD q 0 ∉ o.dead →
             o.dests.getD q 0 < t.regs.length → x.reg (o.dests.getD q 0) = m.vals.getD q 0) ∧
           { x with regs := t.regs, fstat := t.fstat, outs := t.outs } = t)))

/-- R138, R277, R282 to R287, R289: the segment instructions. In a task they take TASK_IRREVOCABLE (RSTAT and ROTQ may be used there).
Once their records can be read and pass, SEGNEW gives the id of a new segment, SEGNEW.DEL answers 1 for a segment that has links or
whose blocks an engine command in flight touches and else frees it, SEGSEAL seals a summed segment, LINK and UNLINK perform their
step and give the count, RSTAT gives what it selects. A LINK and an UNLINK wait for a KVA that has begun on their context (the
model's reading of R277, notes/assumptions/28.md). SEGNEW performs its thread's stores first, a misaligned context is LINK_BAD, and
SEGNEW.DEL frees only blocks that the partition owns (notes/assumptions/29.md).

R273, R275, R278, R281 to R288: what they write. The records' fields stand where the tables place them. SEGNEW takes the lowest FREE id and
the lowest free pool blocks, which it zeroes and lists, and writes the descriptor; DEL and SEGSEAL change STATE, the seal bits of the
list's pages and the pool tags. LINK writes the overlay's header and masks and its entry, puts the slot into ORDER, counts LINKS and pushes
the repair entry; FOLLOW starts the repairs of the entries behind again; UNLINK takes the slot out, marks it DEAD and removes its repair
entries from the queue, each of which completes (`State.completeEntry`, see `TaskCommit`). KVR writes its rows and flips its bits, or
counts a no-op. -/
def Obligations.SegmentInstructions : Prop :=
  ∀ (s : State) (k : Nat) (t : Thread) (g : Guard) (follow : Bool) (sel : RstatSel) (d a b : Reg),
    let segnew : Instr := .segnew g d a b
    let del : Instr := .segnewDel g d a
    let sl : Instr := .segseal g a
    let link : Instr := .link g follow d a b
    let unlink : Instr := .unlink g d a b
    let rstat : Instr := .rstat g sel d a b
    let cva := (t.pair a).toNat
    let y := (t.reg (b.toNat + 1)).toNat
    (t.inTask = true → ∀ i ∈ [segnew, del, sl, link, unlink], s.issues i k t → exec i s = .next (s.trap k .taskIrrevocable)) ∧
    (t.inTask = false →
      (∀ seg u id, s.issues segnew k t →
        segFields (t.r a) (t.reg (a.toNat + 1)) (pairOf (t.reg (a.toNat + 2)) (t.reg (a.toNat + 3))) = some seg →
        (t.pair b).toNat % 65536 = 0 → (s.releaseDev k t).segMake (s.asCmd segnew k t) seg (t.pair b).toNat = .ok (u, id) →
        exec segnew s = .next (u.put1 k d (BitVec.ofNat 32 id))) ∧
      (∀ s1 s2 hdr seg, s.issues del k t → s.segHdr (s.asCmd del k t) = .ok (s1, hdr) →
        s1.segOf (s.asCmd del k t) hdr (t.r a).toNat = .ok (s2, some seg) → seg.state ≠ 0 →
        (seg.links ≠ 0 → exec del s = .next (s2.put1 k d 1)) ∧
        (seg.links = 0 →
          ∀ bs tc, s2.blockList (s.asCmd del k t) seg.blist seg.nblk = .ok bs →
            s2.tableCells (s.asCmd del k t) (s2.segVa t.vf (t.r a).toNat) ({ seg with state := 0 }).bytes = .ok tc →
            let used := ∃ n ∈ bs, s.inReading t.vf (hdr.poolva + n * hdr.p) hdr.p = true
            (used → exec del s = .next (s2.put1 k d 1)) ∧
            (¬used → ∃ u, exec del s = .next u ∧ (s.quiet → u.thread? k = (s2.put1 k d 0).thread? k) ∧
              (NMap.wf s2.pool = true → (∀ n ∈ bs, (s2.poolTag n).owner = t.vf + 1 → (u.poolTag n).owner = 0) ∧
                ∀ n, (n ∉ bs ∨ (s2.poolTag n).owner ≠ t.vf + 1) → u.poolTag n = s2.poolTag n) ∧
              (s.quiet →
                let ts := s2.listPages (s.asCmd del k t).agent t.vf (s.asCmd del k t).core (4 * seg.nblk / 65536 + 2) seg.blist
                  (seg.blist + 4 * seg.nblk)
                (∀ e ∈ ts, cellAt tc e.pte = none → (u.lastByte e.pte).getLsbD 5 = false) ∧
                ∀ p, (∀ e ∈ ts, p ≠ e.pte ∧ p ≠ e.pte + 1) → u.lastByte p = (cellAt tc p).getD (s.lastByte p))))) ∧
      (∀ s1 s2 hdr seg bs tc ts, s.issues sl k t → s.segHdr (s.asCmd sl k t) = .ok (s1, hdr) →
        s1.segOf (s.asCmd sl k t) hdr (t.r a).toNat = .ok (s2, some seg) → seg.state = 1 → seg.summed = true →
        s2.blockList (s.asCmd sl k t) seg.blist seg.nblk = .ok bs →
        s2.tableCells (s.asCmd sl k t) (s2.segVa t.vf (t.r a).toNat) ({ seg with state := 2 }).bytes = .ok tc →
        s2.regionPages (s.asCmd sl k t).agent t.vf (s.asCmd sl k t).core seg.blist (alignUp (4 * seg.nblk) 65536)
          (alignUp (4 * seg.nblk) 65536 / 65536) seg.blist = .ok ts →
        (bs.any fun n => s.inFlight t.vf true (hdr.poolva + n * hdr.p) hdr.p) = false →
        s.inFlight t.vf true seg.blist (alignUp (4 * seg.nblk) 65536) = false →
        ∃ u, exec sl s = .next u ∧ u.thread? k = some (s.after { t with storeq := [] }) ∧
          (∀ n ∈ bs, s.pool.find? n ≠ none → (u.poolTag n).sealed = true ∧ (u.poolTag n).owner = (s.poolTag n).owner) ∧
          (∀ n, n ∉ bs → u.poolTag n = s.poolTag n) ∧
          (s.quiet → (∀ e ∈ ts, cellAt tc e.pte = none → (u.lastByte e.pte).getLsbD 5 = true) ∧
            ∀ p, (∀ e ∈ ts, p ≠ e.pte) → u.lastByte p = (cellAt tc p).getD (s.lastByte p))) ∧
      (cva % 64 ≠ 0 → ∀ i ∈ [link, unlink], s.issues i k t → exec i s = .next (s.trap k .linkBad)) ∧
      (cva % 64 = 0 → s.kvaRuns t.vf cva = true → ∀ i ∈ [link, unlink], s.issues i k t → exec i s = .next s.stall) ∧
      (cva % 64 = 0 → s.kvaRuns t.vf cva = false →
        (∀ s1 s2 bs rn, s.issues link k t → (s.releaseDev k t).cmdRead (s.asCmd link k t) cva 64 = .ok (s1, bs) →
          (Ctx.read cva bs).resv = false → (Ctx.read cva bs).rentry ≠ 0 →
          s1.linkChecks (s.asCmd link k t) (Ctx.read cva bs) (t.r b).toNat (y % 256) (y / 256 % 256)
            (pairOf (t.reg (b.toNat + 2)) (t.reg (b.toNat + 3))).toNat follow = .ok (s2, .ok rn) →
          exec link s = .next (s2.put1Seen k d (BitVec.ofNat 32 rn))) ∧
        (∀ s1 s2 s3 bs le n, s.issues unlink k t → (s.releaseDev k t).cmdRead (s.asCmd unlink k t) cva 64 = .ok (s1, bs) →
          (t.r b).toNat < (Ctx.read cva bs).slots → s1.linkOf (s.asCmd unlink k t) (Ctx.read cva bs) (t.r b).toNat = .ok (s2, le) →
          (le.state ≠ 1 → exec unlink s = .next (s.trap k .linkBad)) ∧
          (le.state = 1 → s2.unlinkStep (s.asCmd unlink k t) (Ctx.read cva bs) (t.r b).toNat le = .ok (s3, n) →
            exec unlink s = .next (s3.put1Seen k d (BitVec.ofNat 32 n))))) ∧
      (∀ u v, s.issues rstat k t →
        (s.drainAll k).rstatRead (s.asCmd rstat k t) sel cva ((t.r b).toNat % 256) ((t.r b).toNat / 65536 % 65536) = .ok (u, v) →
        let u' := u.modThread k fun t => { t with seen := u.visibleTo (coreOf k) }
        exec rstat s = .next (if sel = .ready ∨ sel = .pending then u'.put2 k d (BitVec.ofNat 64 v)
          else u'.put1 k d (BitVec.ofNat 32 v)))) ∧
    (∀ e : Seg, e.n < 2 ^ 16 → e.shape.layers < 2 ^ 16 → e.shape.heads < 2 ^ 8 → e.shape.hdim < 2 ^ 5 → e.state < 4 → e.h < 2 ^ 7 →
      e.nblk < 2 ^ 32 → e.links < 2 ^ 32 → e.blist < 2 ^ 56 →
      let x := natOf e.bytes
      e.bytes.length = 64 ∧ Seg.read e.bytes = e ∧ bits x 15 0 = e.n ∧ bits x 31 16 = e.shape.layers ∧ bits x 39 32 = e.shape.heads ∧
        bits x 44 40 = e.shape.hdim ∧ bits x 45 45 = e.shape.f8.toNat ∧ bits x 47 46 = e.state ∧ bits x 54 48 = e.h ∧
        bits x 55 55 = e.summed.toNat ∧ bits x 63 56 = 0 ∧ bits x 127 64 = e.rmask.toNat ∧ bits x 159 128 = e.nblk ∧
        bits x 191 160 = e.links ∧ bits x 247 192 = e.blist ∧ bits x 511 248 = 0) ∧
    (∀ e : LinkE, e.seg < 2 ^ 24 → e.state < 4 → e.len < 2 ^ 16 → e.base < 2 ^ 32 → e.ova < 2 ^ 56 → e.prc < 2 ^ 32 →
      let x := natOf e.bytes
      e.bytes.length = 32 ∧ LinkE.read e.bytes = { e with resv := false } ∧ bits x 23 0 = e.seg ∧ bits x 25 24 = e.state ∧
        bits x 31 26 = 0 ∧ bits x 47 32 = e.len ∧ bits x 63 48 = 0 ∧ bits x 95 64 = e.base ∧ bits x 151 96 = e.ova ∧
        bits x 159 152 = 0 ∧ bits x 191 160 = e.prc ∧ bits x 255 192 = 0) ∧
    (∀ o : Ovl, o.ctx < 2 ^ 56 → o.slot < 2 ^ 8 → o.rcnt < 2 ^ 7 → o.noops < 2 ^ 16 → o.epoch < 2 ^ 32 →
      let x := natOf o.bytes
      o.bytes.length = 64 ∧ Ovl.read o.bytes = o ∧ bits x 63 0 = o.value.toNat ∧ bits x 127 64 = 0 ∧ bits x 183 128 = o.ctx ∧
        bits x 191 184 = 0 ∧ bits x 199 192 = o.slot ∧ bits x 206 200 = o.rcnt ∧ bits x 207 207 = 0 ∧ bits x 223 208 = o.noops ∧
        bits x 255 224 = o.epoch ∧ bits x 319 256 = o.rmask.toNat ∧ bits x 511 320 = 0) ∧
    (∀ (seg : Seg) (j : Nat), seg.repairMask.testBit j = true ↔ j < 64 ∧ j < seg.n ∧ (j < seg.h ∨ seg.rmask.getLsbD j = true)) ∧
    (∀ (c : Cmd) (seg : Seg) (blist id : Nat) (u : State), s.wf = true → (s.part c.vf).segtab.toNat % 64 = 0 →
      s.segMake c seg blist = .ok (u, id) →
      ∃ hb, hb.length = 64 ∧ s.engineReads c (s.part c.vf).segtab.toNat hb ∧
        let hdr := SegHdr.read hb
        let desc (i : Nat) (ds : List Byte) : Prop := ds.length = 64 ∧ s.engineReads c (s.segVa c.vf i) ds
        (id = 0 → s.stored u [] ∧ u.pool = s.pool) ∧
        (id ≠ 0 → id < hdr.nseg ∧ (∀ i, 0 < i → i < id → ∃ ds, desc i ds ∧ (Seg.read ds).state ≠ 0) ∧
          (∃ ds, desc id ds ∧ (Seg.read ds).state = 0) ∧
          let nblk := seg.blocks hdr.p
          let blocks := s.freePool.take nblk
          blocks.length = nblk ∧ (∀ i ∈ blocks, u.poolTag i = { owner := c.vf + 1, sealed := false }) ∧
          (∀ i, i ∉ blocks → u.poolTag i = s.poolTag i) ∧
          ∃ c1 c2, ({ s with pool := u.pool } : State).engineCellsAs c .write
              (cellsAt blist (blocks.flatMap fun i => bytesOf i 4)) c1 ∧
            ({ s with pool := u.pool } : State).engineCellsAs c .read
              (cellsAt (s.segVa c.vf id) ({ seg with nblk := nblk, blist := blist }).bytes) c2 ∧
            s.stored u ((blocks.flatMap fun i => cellsAt (s.blockKey i) (List.replicate s.poolBlock 0)) ++ (c1 ++ c2)))) ∧
    (∀ (a0 a1 : Word) (rm : DWord) (seg : Seg), segFields a0 a1 rm = some seg →
      seg.n = bits a0.toNat 15 0 ∧ seg.n ≠ 0 ∧ seg.h = bits a0.toNat 22 16 ∧ seg.h ≤ 64 ∧ seg.shape.f8 = a0.getLsbD 23 ∧
        seg.shape.layers = bits a1.toNat 15 0 ∧ seg.shape.heads = bits a1.toNat 23 16 ∧ seg.shape.hdim = bits a1.toNat 28 24 ∧
        seg.shape.layers ≠ 0 ∧ seg.shape.heads ≠ 0 ∧ seg.shape.hdim ≠ 0 ∧ seg.shape.hdim ≤ 16 ∧ seg.rmask = rm ∧ seg.state = 1 ∧
        seg.summed = false ∧ seg.links = 0) ∧
    (∀ (c : Cmd) (x : Ctx) (id slot n ova rn : Nat) (u : State), s.wf = true → (s.part c.vf).segtab.toNat % 64 = 0 →
      s.linkChecks c x id slot n ova follow = .ok (u, .ok rn) → (s.queue x.rq).spcnt = 0 → (s.queue x.rq).ents.length + x.nord < 64 →
      ∃ (ds ob : List Byte) (es : List (Nat × LinkE)) (os : List Ovl), ds.length = 64 ∧ s.engineReads c (s.segVa c.vf id) ds ∧
        let seg := Seg.read ds
        let r : DWord := BitVec.ofNat 64 seg.repairMask
        seg.state = 2 ∧ seg.shape = x.shape ∧ slot < x.slots ∧ n ≤ x.nord ∧ ova % 256 = 0 ∧ rn = popCount seg.repairMask 64 ∧
        ob.length = x.nord ∧ s.engineReads c (x.va + 64) ob ∧ s.entriesRead c x (ob.map (·.toNat)) es ∧
        let behind := es.drop n
        os.length = behind.length ∧
        (follow = true → ∀ e ∈ behind.zip os, ∃ bs, bs.length = 64 ∧ s.engineReads c e.1.2.ova bs ∧ e.2 = Ovl.read bs) ∧
        let again (o : Ovl) : Bool := follow && decide (o.rcnt ≠ 0)
        let epoch (o : Ovl) : Nat := (o.epoch + 1) % 2 ^ 32
        let repair (slot rcnt ova epoch : Nat) : Entry :=
          { entry := BitVec.ofNat 32 x.rentry
            flags := BitVec.ofNat 32 (1 + 4 + x.rgrain * 256 + slot * 65536)
            lo := 0
            hi := BitVec.ofNat 32 rcnt
            arg := BitVec.ofNat 64 ova
            tstamp := BitVec.ofNat 32 epoch
            parent := 0xFFFFFFFF }
        let head : Ovl :=
          { value := if 0 < rn then 1 else 0, ctx := x.va, slot := slot, rcnt := rn, noops := 0, epoch := 0, rmask := r }
        let new : LinkE := { seg := id, state := 1, len := seg.n, base := 0, ova := ova, prc := rn * x.shape.layers }
        let after := (behind.zip os).map fun e => if again e.2 then (e.1.1, { e.1.2 with prc := e.2.rcnt * x.shape.layers }) else e.1
        s.recordsStored u c
          (cellsAt ova head.bytes ++ maskWrites x ova r ++
            ((behind.zip os).filter fun e => again e.2).flatMap (fun e => cellsAt e.1.2.ova (bytesOf (e.2.value + 1).toNat 8) ++
              cellsAt (e.1.2.ova + 28) (bytesOf (epoch e.2) 4) ++ maskWrites x e.1.2.ova e.2.rmask) ++
            orderWrites x (es.take n ++ [(slot, new)] ++ after) [])
          (cellsAt (s.segVa c.vf id) ({ seg with links := seg.links + 1 }).bytes) ∧
        (u.queue x.rq).ents.map (·.1) = (s.queue x.rq).ents.map (·.1) ++ (if 0 < rn then [repair slot rn ova 0] else []) ++
          ((behind.zip os).filter fun e => again e.2).map (fun e => repair e.1.1 e.2.rcnt e.1.2.ova (epoch e.2)) ∧
        (∀ m, m ≠ x.rq → u.queue m = s.queue m) ∧ u.threads = s.threads ∧ u.pool = s.pool) ∧
    (∀ (c : Cmd) (x : Ctx) (slot n : Nat) (le : LinkE) (u : State), s.wf = true → (s.part c.vf).segtab.toNat % 64 = 0 →
      s.unlinkStep c x slot le = .ok (u, n) → (s.queue x.rq).spcnt = 0 →
      ∃ (ob : List Byte) (es : List (Nat × LinkE)) (seg : List (Nat × Byte)) (v : State),
        ob.length = x.nord ∧ s.engineReads c (x.va + 64) ob ∧ s.entriesRead c x ((ob.map (·.toNat)).filter fun m => m != slot) es ∧
        (seg = [] ∨ ∃ ds, ds.length = 64 ∧ s.engineReads c (s.segVa c.vf le.seg) ds ∧
          seg = cellsAt (s.segVa c.vf le.seg) ({ Seg.read ds with links := (Seg.read ds).links - 1 }).bytes) ∧
        s.recordsStored v c (orderWrites x es [0] ++ cellsAt (x.entryVa slot) ({ le with state := 2 }).bytes) seg ∧
        let gone := ((s.queue x.rq).ents.map (·.1)).filter fun e => e.arg.toNat == le.ova
        n = gone.length ∧ u = gone.foldl (fun st e => st.completeEntry c.vf e) v ∧
        (v.queue x.rq).ents = (s.queue x.rq).ents.filter (fun e => e.1.arg.toNat != le.ova) ∧ v.threads = s.threads) ∧
    (∀ (c : Cmd) (u : State), s.wf = true → s.kvrAll c = .ok u →
      let ova := (c.op2 1).toNat
      let l := bits (c.op 3).toNat 15 0
      let q := bits (c.op 3).toNat 22 16
      ∃ (ob xb eb mb : List Byte), ob.length = 64 ∧ s.engineReads c ova ob ∧
        let o := Ovl.read ob
        xb.length = 64 ∧ s.engineReads c o.ctx xb ∧
        let x := Ctx.read o.ctx xb
        eb.length = 32 ∧ s.engineReads c (x.va + 320 + 32 * o.slot) eb ∧ mb.length = 16 ∧ s.engineReads c (ova + 64 + 16 * l) mb ∧
        let le := LinkE.read eb
        let ready := natOf (mb.take 8)
        let pending := natOf (mb.drop 8)
        let j := (bitsSet o.rmask.toNat 64).getD q 64
        (le.state ≠ 1 ∨ le.ova ≠ ova ∨ (c.op 4).toNat ≠ o.epoch ∨ ready.testBit j = true →
          s.recordsStored u c (cellsAt (ova + 26) (bytesOf (o.noops + 1) 2)) []) ∧
        (le.state = 1 → le.ova = ova → (c.op 4).toNat = o.epoch → ready.testBit j = false →
          ∃ row mask : List Byte, row.length = 2 * x.shape.heads * x.shape.rb ∧
            (∀ m < 2 * x.shape.heads, (row.drop (x.shape.rb * m)).take x.shape.rb =
              cleanRow x.shape (s.readScr (s.cmdScr c (c.op 0).toNat + x.shape.rb * m) x.shape.rb)) ∧
            mask.length = 16 ∧ (∀ i < 64, (natOf (mask.take 8)).testBit i = (ready.testBit i || decide (i = j)) ∧
              (natOf (mask.drop 8)).testBit i = (pending.testBit i && decide (i ≠ j))) ∧
            s.recordsStored u c (cellsAt (ovlRowVa x.shape ova o.rcnt l q 0 false) row ++ cellsAt (ova + 64 + 16 * l) mask ++
              cellsAt (x.va + 320 + 32 * o.slot) ({ le with prc := (le.prc + 2 ^ 32 - 1) % 2 ^ 32 }).bytes) []))

/-- R290, R303, R309: ROTQ, ANC and SZB. ANC is true for a committed key, and for one of the next 64 that V marks; ROTQ and SZB end as
R94 says. -/
def Obligations.MasksAndRotations : Prop :=
  ∀ (s : State) (k : Nat) (t : Thread) (g : Guard) (pd : Pred) (rm : RMode) (d a b c : Reg),
    (s.issues (.anc g pd a b c) k t →
      let j := (t.r a).toNat
      let n := (t.r c).toNat
      ∃ v, s.gives (.anc g pd a b c) k (t.setPred pd v) ∧
        (v = true ↔ j < n ∨ (j - n < 64 ∧ (t.pair b).toNat.testBit (j - n) = true))) ∧
    (s.issues (.szb g rm d a) k t →
      let r := fLnSize rm (t.r a).toNat
      exec (.szb g rm d a) s = .next (s.floatDone k t r.2 fun t => t.setReg d.toNat (BitVec.ofNat 32 r.1))) ∧
    (s.issues (.rotq g true d a b c) k t →
      let r := rotateQuery .bf16 ((t.r a).toNat % 65536) ((t.r a).toNat / 65536) (t.r b).toNat (t.r c).toNat
      exec (.rotq g true d a b c) s = .next (s.floatDone k t r.2.2 fun t =>
        t.setReg d.toNat (BitVec.ofNat 32 (r.1 + r.2.1 * 65536)))) ∧
    (s.issues (.rotq g false d a b c) k t →
      let r := rotateQuery .f32 (t.r a).toNat (t.reg (a.toNat + 1)).toNat (t.r b).toNat (t.r c).toNat
      exec (.rotq g false d a b c) s = .next (s.floatDone k t r.2.2 fun t =>
        t.setRegs d.toNat [BitVec.ofNat 32 r.1, BitVec.ofNat 32 r.2.1]))

/-- R294 to R301, R304 to R311: PSEL, TOPK, TOPP, TMRG and TUNM are accepted when their parameters and operands pass and their unit has
room; a parameter out of range takes SELECT_BAD. TMRG gives a handle of a new live map. TMAP reads, follows and frees a map; a
handle that names none takes MAP_INVALID.

R294, R297, R298, R300 to R302, R306, R308, R310: a unit performs whole commands (notes/assumptions/28.md), the earliest one of a
partition that runs; PSEL_COMPLETE, SELECT_COMPLETE, TMRG_COMPLETE and TUNM_COMPLETE perform it, and its unit no longer holds it. PSEL
writes for each query row the handles of the k candidates with the greatest bounds, and counts the skipped and the unbounded ones (one
for any query row, notes/assumptions/29.md); a bound is the exact sum of the greater products. TOPK writes the first k entries by value
and index; TOPP keeps the entries whose rounded masses reach p, with those equal to the last, and DRAW chooses one by r. TMRG writes the
survivors' rows and sizes, the map's header and where each token went: the r members of A that rank highest join their best match. -/
def Obligations.Selection : Prop :=
  (∀ (s : State) (k : Nat) (t : Thread) (g : Guard) (pairs spin draw : Bool) (d a b c : Reg) (cr : Crew),
     let core := coreOf k
     let n := (t.r b).toNat
     let inp : DWord := if spin then (t.r a).setWidth 64 else t.pair a
     let goodRange (bytes al size : Nat) : Prop := (t.r d).toNat % 32 = 0 ∧ cr.inAlloc (t.r d).toNat size = true ∧
       (spin = true → inp.toNat % al = 0 ∧ cr.inAlloc inp.toNat bytes = true ∧
         overlap ((t.r d).toNat / 32) (size / 32) (inp.toNat / 32) ((inp.toNat + bytes + 31) / 32 - inp.toNat / 32) = false) ∧
       (spin = false → inp.toNat % al = 0 ∧ inp.toNat < 2 ^ 56)
     s.crew? (t.crewKey k) = some cr →
     (let i : Instr := .topk g pairs spin d a b
      let ibase := (t.reg (b.toNat + 1)).toNat
      let kk := (t.reg (b.toNat + 2)).toNat
      let bad := n = 0 ∨ 2 ^ 24 < n ∨ kk = 0 ∨ 1024 < kk ∨ 2 ^ 32 < ibase + n ∨ (pairs = true ∧ ibase ≠ 0)
      s.issues i k t → (bad → exec i s = .next (s.trap k .selectBad)) ∧
       (¬bad → goodRange (n * (if pairs then 8 else 4)) (if pairs then 8 else 4) (alignUp (32 + 8 * kk) 32) → t.inTask = false →
         288 ∉ s.fenced → s.cmdWaits t .select = false → s.commands i k .select t)) ∧
     (let i : Instr := .topp g draw spin d a b
      let bad := n = 0 ∨ 4096 < n ∨ (f32Val (t.reg (b.toNat + 1))).isNan = true
      s.issues i k t → (bad → exec i s = .next (s.trap k .selectBad)) ∧
       (¬bad → goodRange (8 * n) 8 (alignUp (32 + 8 * n) 32) → t.inTask = false → 288 ∉ s.fenced →
         s.cmdWaits t .select = false → s.commands i k .select t)) ∧
     (let i : Instr := .psel g d a b
      let cmd := s.newCmd i k t (.weir (dieOf core)) 0 (t.r d :: t.rs a 4 ++ [t.r b, t.reg (b.toNat + 1)])
      ∀ nc kk qh s1 s2 x c', s.issues i k t → pselParams (t.reg (b.toNat + 1)).toNat = some (nc, kk, qh) →
       scratchOperands cr [(t.r d, pselSize kk qh), (t.reg (a.toNat + 3), 4 * nc), (t.r b, 4)] = none →
       (s.forUnit k cmd).ctxOf cmd (t.pair a).toNat = .ok (s1, x) → x.malformed = false →
       cr.inAlloc (t.r b).toNat (4 * x.shape.d * qh) = true →
       overlap (t.r d).toNat (pselSize kk qh) (t.reg (a.toNat + 3)).toNat (4 * nc) = false →
       overlap (t.r d).toNat (pselSize kk qh) (t.r b).toNat (4 * x.shape.d * qh) = false → t.inTask = false →
       (t.reg (a.toNat + 2)).toNat % 65536 < x.shape.layers → (t.reg (a.toNat + 2)).toNat / 65536 < x.shape.heads →
       256 + dieOf core ∉ s.fenced → s1.pselFetch cmd x = .ok (s2, c') → s.cmdWaits t (.weir (dieOf core)) = false →
       s.commands i k (.weir (dieOf core)) t) ∧
     (let i : Instr := .tmrg g d a b
      let ws := t.rs a 4 ++ t.rs b 4
      let x := Merge.of ws
      ∀ depth old slot, s.issues i k t → x.shapeBad (ws.getD 6 0) = false → scratchOperands cr (x.inputs ++ x.outputs) = none →
       x.overlaps = false → cr.mergeDepth x = .ok depth → (cr.mapSlots.find? fun z => !z.1.live) = some (old, slot) →
       t.inTask = false → 272 + dieOf core ∉ s.fenced → s.cmdWaits t (.confluence (dieOf core)) = false →
       ∃ u h m cr', exec i s = .next u ∧ s.accepted u i k (.confluence (dieOf core)) ∧
         u.thread? k = some (s.after (t.setReg d.toNat h)) ∧ (∀ j, j ≠ k → u.thread? j = s.thread? j) ∧
         u.crew? (t.crewKey k) = some cr' ∧ (m, slot) ∈ cr'.mapSlots ∧ m.live = true ∧ cr'.mapHandle slot m = h ∧ m.n = x.n ∧
         m.m = x.n - x.r ∧ m.depth = depth ∧ m.parent = x.parent) ∧
     (let i : Instr := .tunm g a b c
      let df := (t.reg (b.toNat + 1)).toNat
      ∀ m slot, s.issues i k t → cr.mapOf (t.r a) = some (m, slot) → m.child = false → df ≠ 0 → df ≤ 1024 →
       overlap (t.r c).toNat (featStride df * m.n) (t.r b).toNat (featStride df * m.m) = false →
       overlap (t.r c).toNat (featStride df * m.n) (BitVec.ofNat 32 m.addr).toNat (mapSize m.n) = false →
       scratchOperands cr [(t.r b, featStride df * m.m), (t.r c, featStride df * m.n)] = none → t.inTask = false →
       272 + dieOf core ∉ s.fenced → s.cmdWaits t (.confluence (dieOf core)) = false →
       s.commands i k (.confluence (dieOf core)) t) ∧
     (cr.mapOf (t.r a) = none → ∀ i ∈ ([.tmapInfo g d a, .tmapParent g d a, .tmapFree g a, .tunm g a b c] : List Instr),
       s.issues i k t → exec i s = .next (s.trap k .mapInvalid)) ∧
     (∀ m slot, cr.mapOf (t.r a) = some (m, slot) →
       (s.issues (.tmapInfo g d a) k t → s.gives (.tmapInfo g d a) k
         (t.setPair d (pairOf (BitVec.ofNat 32 (m.n + m.m * 65536)) (BitVec.ofNat 32 m.depth)))) ∧
       (s.issues (.tmapParent g d a) k t → s.gives (.tmapParent g d a) k (t.setReg d.toNat m.parent)) ∧
       (s.issues (.tmapFree g a) k t →
         (m.child = true → exec (.tmapFree g a) s = .next (s.trap k .mergeShape)) ∧
         (m.child = false → t.inTask = false →
           (s.mapInFlight (t.crewKey k) (t.r a) = true → exec (.tmapFree g a) s = .next s.stall) ∧
           (s.mapInFlight (t.crewKey k) (t.r a) = false →
             ∃ u, exec (.tmapFree g a) s = .next u ∧ u.thread? k = some (s.after t) ∧
               u.crew? (t.crewKey k) = some (cr.dropMaps fun _ n => n == slot) ∧
               u = { s with threads := u.threads, issue := u.issue, crews := u.crews }))))) ∧
  (∀ (s : State) (n : Nat) (c : Cmd), s.who = [n] →
     (∀ u : EngUnit, s.unitHead u = some c → c ∈ s.cmds ∧ c.unit = u ∧ c.want = [] ∧ c.fault = none ∧ u.code ∉ s.fenced ∧
       s.mayRun c.vf c.crew = true ∧ ∀ x ∈ s.cmds, x.unit = u → s.mayRun x.vf x.crew = true → x ≠ c → s.cmds.idxOf c < s.cmds.idxOf x) ∧
     (∀ u, s.unitHead (.weir n) = some c → s.pselAll c = .ok u → c.task = none → (∀ x ∈ u.cmds, x.id ≠ c.id) ∧
       exec .pselComplete s = .next (u.modCmd c.id fun c => { c with rsHold := false })) ∧
     (∀ u, s.unitHead .select = some c → s.selectAll c = .ok u → c.task = none →
       ((∃ g x y d a b, c.i = .topk g x y d a b ∨ c.i = .topp g x y d a b) → ∀ x ∈ u.cmds, x.id ≠ c.id) ∧
       exec .selectComplete s = .next (u.modCmd c.id fun c => { c with rsHold := false })) ∧
     (∀ g d a b, s.unitHead (.confluence n) = some c → c.i = .tmrg g d a b →
       ∃ u, exec .tmrgComplete s = .next u ∧ (∀ x ∈ u.cmds, x.id ≠ c.id) ∧ u.mem = s.mem ∧ u.flights = s.flights ∧
         u.threads = s.threads ∧
         let x := Merge.of c.ops
         let rs := featStride x.df
         let key (t : Nat) : List FVal := (upTo 0 (16 * x.dk16)).map fun e =>
           decodeFloat .bf16 (natOf (s.readScr (s.cmdScr c (x.key.toNat + 32 * x.dk16 * t + 2 * e)) 2))
         let feat (t e : Nat) : FVal := decodeFloat .f32 (natOf (s.readScr (s.cmdScr c (x.feat.toNat + rs * t + 4 * e)) 4))
         let size (t : Nat) : Nat := natOf (s.readScr (s.cmdScr c (x.size.toNat + 4 * t)) 4)
         let got (a n : Nat) : Nat := natOf (u.readScr (s.cmdScr c a) n)
         (s.wf = true → x.shapeBad (c.op 6) = false →
           x.outf.toNat + rs * x.m + 4 * x.m ≤ x.mapa.toNat ∨ x.mapa.toNat + mapSize x.n ≤ x.outf.toNat → (s.crew? c.crew).isSome = true →
           (c.op 9).toNat < 16 →
           ∃ into, mergesAre x.n x.r (fun p q => similarity (key p) (key q)) into ∧
             let survivors := (upTo 0 x.n).filter fun t => !(into.any fun z => z.1 == t)
             survivors.length = x.m ∧
             (∀ i t, survivors[i]? = some t →
               let group := (upTo 0 x.n).filter fun p => into.contains (p, t)
               (group = [] → u.readScr (s.cmdScr c (x.outf.toNat + rs * i)) rs = s.readScr (s.cmdScr c (x.feat.toNat + rs * t)) rs ∧
                 got (x.outf.toNat + rs * x.m + 4 * i) 4 = size t) ∧
               (group ≠ [] →
                 (∀ e < x.df, got (x.outf.toNat + rs * i + 4 * e) 4 = mergeElem ((group ++ [t]).map fun p => (size p, feat p e))) ∧
                 got (x.outf.toNat + rs * x.m + 4 * i) 4 =
                   min (((group ++ [t]).map size).foldl (· + ·) 0) (2 ^ 32 - 1))) ∧
             (∀ t < x.n, got (x.mapa.toNat + 32 + 2 * t) 2 =
               survivors.idxOf (match into.find? fun z => z.1 == t with | some z => z.2 | none => t)) ∧
             let h := got x.mapa.toNat 32
             bits h 31 0 = (c.op 8).toNat ∧ bits h 47 32 = x.n ∧ bits h 63 48 = x.m ∧ bits h 67 64 = (c.op 9).toNat ∧
               bits h 71 68 = 0 ∧ bits h 79 72 = bits (c.op 8).toNat 15 8 ∧ bits h 95 80 = 0 ∧ bits h 127 96 = x.parent.toNat ∧
               bits h 255 128 = 0)) ∧
     (∀ g a b d, s.unitHead (.confluence n) = some c → c.i = .tunm g a b d →
       let rs := featStride (c.op 2).toNat
       ∃ u, exec .tunmComplete s = .next u ∧ (∀ x ∈ u.cmds, x.id ≠ c.id) ∧ u.mem = s.mem ∧ u.flights = s.flights ∧
         u.threads = s.threads ∧
         (s.wf = true → ∀ j < (c.op 5).toNat, ∀ o < rs,
           let v := natOf (s.readScr (s.cmdScr c ((c.op 4).toNat + 32 + 2 * j)) 2)
           u.scratch.read (s.cmdScr c (c.op 3).toNat + rs * j + o) =
             if v < (c.op 6).toNat then s.scratch.read (s.cmdScr c ((c.op 1).toNat + rs * v) + o) else 0))) ∧
  (∀ (s u : State) (c : Cmd) (nc k qh : Nat), s.wf = true → (s.part c.vf).segtab.toNat % 64 = 0 → c.recd ≠ [] →
     (s.crew? c.crew).isSome = true → pselParams (c.op 6).toNat = some (nc, k, qh) → s.pselAll c = .ok u →
     let x := Ctx.read (c.op2 1).toNat (c.recd.take 64)
     let d := x.shape.d
     let handle (n : Nat) : Word := BitVec.ofNat 32 (natOf (s.readScr (s.cmdScr c ((c.op 4).toNat + 4 * n)) 4))
     let query (h : Nat) : List FVal := (upTo 0 d).map fun i =>
       f32Val (BitVec.ofNat 32 (natOf (s.readScr (s.cmdScr c ((c.op 5).toNat + 4 * d * h + 4 * i)) 4)))
     let word (n : Nat) : Nat := natOf (u.readScr (s.cmdScr c ((c.op 0).toNat + 4 * n)) 4)
     u.mem = s.mem ∧ u.flights = s.flights ∧ u.threads = s.threads ∧
     ∃ cs : List Candidate, cs.length = nc ∧
       (∀ n cd, cs[n]? = some cd → s.candidateIs c x ((c.op 3).toNat % 65536) ((c.op 3).toNat / 65536) (handle n) cd) ∧
       (∀ h < qh,
         let ranked := (cs.zip (upTo 0 nc)).filterMap fun z => (z.1.bound (query h)).map fun v => (v, z.2)
         ∃ ps, picks (fun p q => 0 < cmpVal p.1 q.1) ranked k ps ∧ ∀ j < k,
           word (8 + k * h + j) = match ps[j]? with | some p => (handle (ranked.getD p (.inf false, 0)).2).toNat | none => 0xFFFFFFFF) ∧
       word 0 = (cs.filter fun cd => cd matches .skip).length ∧
       word 1 = (cs.filter fun cd => (upTo 0 qh).any fun h => cd.bound (query h) == some (.inf false)).length ∧
       ∀ n, 2 ≤ n → n < 8 → word n = 0) ∧
  (∀ (qs los his : List FVal) (g : Int),
     let ts := qs.zip (los.zip his)
     let open_ := ∃ z ∈ ts, z.1.isNan = true ∨ z.1.isInf = true ∨
       (z.1.isZero = false ∧ ((∀ e, ¬z.2.1.finiteFrom e) ∨ ∀ e, ¬z.2.2.finiteFrom e))
     (open_ → boundSum qs los his = .inf false) ∧
     (¬open_ → 2 * g ≤ 0 → (∀ z ∈ ts, z.1.finiteFrom g ∧ (z.1.isZero = false → z.2.1.finiteFrom g ∧ z.2.2.finiteFrom g)) →
       (boundSum qs los his).finiteFrom (2 * g) ∧ (boundSum qs los his).units (2 * g) =
         (ts.map fun z => max (z.1.units g * z.2.1.units g) (z.1.units g * z.2.2.units g)).foldl (· + ·) 0) ∧
     let invalid := ∃ v ∈ qs ++ los, v.isNan = true ∨ v.isInf = true
     (invalid → similarity qs los = none) ∧
     (¬invalid → 2 * g ≤ 0 → (∀ v ∈ qs ++ los, v.finiteFrom g) → ∃ r, similarity qs los = some r ∧ r.finiteFrom (2 * g) ∧
       r.units (2 * g) = ((qs.zip los).map fun z => z.1.units g * z.2.units g).foldl (· + ·) 0)) ∧
  (∀ (g : List (Nat × FVal)),
     let total := (g.map (·.1)).foldl (· + ·) 0
     let pos := ∃ z ∈ g, z.2 = .inf false
     let neg := ∃ z ∈ g, z.2 = .inf true
     let nan := (∃ z ∈ g, z.2.isNan = true) ∨ (pos ∧ neg)
     (nan → mergeElem g = 0x7FC00000) ∧ (¬nan → pos → mergeElem g = 0x7F800000) ∧ (¬nan → neg → mergeElem g = 0xFF800000) ∧
     (¬nan → ¬pos → ¬neg → total = 0 → mergeElem g = 0x7FC00000) ∧
     (¬nan → ¬pos → ¬neg → total ≠ 0 → ∃ sgn m e, sumVals .rne (g.filterMap fun z => mulVal (intVal z.1) z.2) = some (.fin sgn m e) ∧
       (m = 0 → mergeElem g % 2 ^ 31 = 0) ∧
       (m ≠ 0 → mergeElem g = (narrowExact .f32 .rne false sgn { n := m, d := total, e := e }).1))) ∧
  (∀ (s u : State) (c : Cmd) (g : Guard) (pairs spin draw : Bool) (d a b : Reg), s.wf = true → (s.crew? c.crew).isSome = true →
     s.selectAll c = .ok u →
     let n := (c.op 3).toNat
     let word (j : Nat) : Nat := natOf (u.readScr (s.cmdScr c ((c.op 0).toNat + 4 * j)) 4)
     let reads (len : Nat) (bs : List Byte) : Prop := bs.length = len ∧
       (spin = true → bs = s.readScr (s.cmdScr c (c.op 1).toNat) len) ∧ (spin = false → s.engineReads c (c.op2 1).toNat bs)
     let field (bs : List Byte) (j : Nat) : Word := BitVec.ofNat 32 (natOf ((bs.drop (4 * j)).take 4))
     let order (p q : Word × Word) : Prop :=
       0 < cmpVal (f32Val p.1) (f32Val q.1) ∨ (cmpVal (f32Val p.1) (f32Val q.1) = 0 ∧ p.2.toNat < q.2.toNat)
     (c.i = .topk g pairs spin d a b ∨ c.i = .topp g draw spin d a b → u.mem = s.mem ∧ u.flights = s.flights ∧ u.threads = s.threads) ∧
     (c.i = .topk g pairs spin d a b → ∃ bs, reads (n * if pairs then 8 else 4) bs ∧
       let es := (upTo 0 n).map fun j => if pairs then (field bs (2 * j), field bs (2 * j + 1)) else (field bs j, c.op 4 + BitVec.ofNat 32 j)
       let good := es.filter fun e => !(f32Val e.1).isNan
       let k := (c.op 5).toNat
       ∃ ps, picks order good k ps ∧
         (∀ j < k, (word (8 + 2 * j), word (9 + 2 * j)) =
           match ps[j]? with | some p => ((good.getD p (0, 0)).1.toNat, (good.getD p (0, 0)).2.toNat) | none => (0x7FC00000, 0xFFFFFFFF)) ∧
         word 0 = ps.length ∧ word 1 = n - good.length ∧ word 2 = 0xFFFFFFFF ∧ word 3 = 0xFFFFFFFF ∧
         ∀ j, 4 ≤ j → j < 8 → word j = 0) ∧
     (c.i = .topp g draw spin d a b → ∃ bs, reads (8 * n) bs ∧
       let es := (upTo 0 n).map fun j => (field bs (2 * j), field bs (2 * j + 1))
       let good := es.filter fun e => !toppExcludes e.1
       ∃ ps m w, picks order good n ps ∧
         let v (j : Nat) : Word × Word := good.getD (ps.getD j 0) (0, 0)
         let sum (j : Nat) : Nat := ((upTo 0 (j + 1)).map fun i => massOf (v i).1).foldl (· + ·) 0
         let goal := toppThreshold (c.op 4)
         let mass := if m = 0 then 0 else sum (m - 1)
         let same (i j : Nat) : Prop := cmpVal (f32Val (v i).1) (f32Val (v j).1) = 0
         let drawn := draw = true ∧ m ≠ 0
         (good = [] → m = 0) ∧
         (good ≠ [] → ∃ m0, 1 ≤ m0 ∧ m0 ≤ m ∧ m ≤ good.length ∧ (∀ i, i + 1 < m0 → sum i < goal) ∧
           (goal ≤ sum (m0 - 1) ∨ m0 = good.length) ∧ (∀ j, m0 ≤ j → j < m → same j (j - 1)) ∧ (m < good.length → ¬same m (m - 1))) ∧
         (∀ j < m, word (8 + 2 * j) = (v j).1.toNat ∧ word (9 + 2 * j) = (v j).2.toNat) ∧
         word 0 = m ∧ word 1 = n - good.length ∧
         (drawn → (mass = 0 → w = 0) ∧ (mass ≠ 0 → w < m ∧ (c.op 5).toNat * mass < sum w * 2 ^ 32 ∧
             ∀ i < w, sum i * 2 ^ 32 ≤ (c.op 5).toNat * mass) ∧ word 2 = (v w).2.toNat ∧ word 3 = w) ∧
         (¬drawn → word 2 = 0xFFFFFFFF ∧ word 3 = 0xFFFFFFFF) ∧
         word 4 + word 5 * 2 ^ 32 + word 6 * 2 ^ 64 = mass ∧ word 7 = 0)) ∧
  (∀ (v p : Word),
     (toppExcludes v = true ↔ (f32Val v).isNan = true ∨ (f32Val v).isInf = true ∨ (∃ m e, f32Val v = .fin true m e ∧ m ≠ 0) ∨
       ∃ neg m e, f32Val v = .fin neg m e ∧ 0 < cmpVal (.fin neg m e) (.fin false 1 0)) ∧
     (∀ neg m e, f32Val v = .fin neg m e →
       let x := m * 2 ^ (e + 64).toNat
       let y := 2 ^ (-(e + 64)).toNat
       2 * (massOf v * y) ≤ 2 * x + y ∧ 2 * x ≤ 2 * (massOf v * y) + y ∧
         (2 * (massOf v * y) = 2 * x + y ∨ 2 * x = 2 * (massOf v * y) + y → massOf v % 2 = 0)) ∧
     (∀ m e, f32Val p = .fin false m e →
       (0 < cmpVal (.fin false m e) (.fin false 1 0) → toppThreshold p = 2 ^ 64 + 1) ∧
       (¬0 < cmpVal (.fin false m e) (.fin false 1 0) → toppThreshold p = massOf p)) ∧
     (∀ m e, f32Val p = .fin true m e → toppThreshold p = 0) ∧ (f32Val p = .inf false → toppThreshold p = 2 ^ 64 + 1) ∧
     (f32Val p = .inf true → toppThreshold p = 0))

/-- R57, R58, R60, R63: TPOP, TSPAWN and TDONE. TPOP outside a task, on a queue of the crew, signs and parks; its last signature makes the
crew's request. TSPAWN outside a task pushes the entry with DEPTH 0 and no parent, on chip while there is room and nothing is spilled and
else to the spillway; in a task it is held in the write buffer with the task's DEPTH + 1 and handle. TDONE in a task signs and parks; its
last signature opens the commit; that it may name any armed convergence register is the model's choice (notes/assumptions/25.md). Their
causes come in the order of the rules.

R136: a signer of TDONE has its stores leave its queue, and every store that its core then sees joins what the commit releases.

R69, R72: TSPLIT, TABORT and TABORT.RQ ask for the task's abort unless its last signature of TDONE is in. The end of the cycle resolves
what its instructions have asked for: a last signature of TDONE comes first, then an exhaustion, with the lowest WHY that holds. Outside
a task they take TASK_STATE.

R70, R71: an abort restarts every thread of the crew at its TPOP with cleared registers, predicates and FSTAT, or, when an exhausted task
cannot be split, past its TPOP with the entry; it clears the COUNTs of the convergence registers and keeps nothing of the buffer, writes
TSTAT.LAST, and returns the entry, or its halves, to the head of its queue.

R73: TSTAT reads the task's state, and LAST that of the previous one. -/
def Obligations.Tasks : Prop :=
  (∀ (s : State) (k : Nat) (t : Thread) (g : Guard) (nb any : Bool) (a d : Reg) (q : QNum) (c : Conv) (cr : Crew),
     let ck := t.crewKey k
     let r := cr.conv c.toNat
     let tpop : Instr := .tpop g nb any d q c
     let tspawn : Instr := .tspawn g a q
     let tdone : Instr := .tdone g c
     let qu := s.queue q.toNat
     let signs (i : Instr) (op : OpRec) (stores : List Host.Cell) (more last : State → Crew → Prop) : Prop :=
       s.convCheck k t c = none →
       (r.mismatch op = true → exec i s = .next (s.trap k .convMismatch)) ∧
       (r.mismatch op = false → ∃ u x cr', exec i s = .next u ∧ u.thread? k = some x ∧ (∃ o, x.phase = .parked (.conv c) o) ∧
         x.pc = t.pc ∧ (∀ j, j ≠ k → (u.thread? j).map (·.regs) = (s.thread? j).map (·.regs)) ∧ u.crew? ck = some cr' ∧
         (s.mem.wf = true → s.stored u stores) ∧
         (r.count + 1 ≠ r.expect → (cr'.conv c.toNat).count = r.count + 1 ∧ cr'.pop = cr.pop ∧ more u cr') ∧
         (r.count + 1 = r.expect → (cr'.conv c.toNat).count = 0 ∧ last u cr'))
     s.crew? ck = some cr → c.toNat < cr.convs.length →
     (s.issues tpop k t →
       (cr.pop ≠ none → exec tpop s = .next (s.park k (.conv c))) ∧
       (cr.pop = none → t.inTask = true → exec tpop s = .next (s.trap k .taskState)) ∧
       (cr.pop = none → t.inTask = false → any = false → q.toNat ∉ cr.queues → exec tpop s = .next (s.trap k .queueUnbound)) ∧
       (cr.pop = none → t.inTask = false → (any = true ∨ q.toNat ∈ cr.queues) →
         (r.st = .orphaned → exec tpop s = .next (s.trap k .convOrphan)) ∧
         (r.st = .idle → exec tpop s = .next (s.trap k .convNotArmed))) ∧
       (cr.pop = none → t.inTask = false → (any = true ∨ q.toNat ∈ cr.queues) → r.st = .armed →
         (r.expect ≠ (s.crewThreads ck).length → exec tpop s = .next (s.trap k .taskState)) ∧
         (r.expect = (s.crewThreads ck).length → signs tpop (opRecord tpop d 0 (q.setWidth 32)) [] (fun _ cr' => cr'.task = cr.task) (fun _ cr' =>
           cr'.task = cr.task ∧ cr'.popD = d.toNat ∧ ∃ p, cr'.pop = some p ∧ p.nb = nb ∧ p.any = any ∧ p.q = q.toNat ∧ p.d = d.toNat ∧ p.since = s.now)))) ∧
     (s.issues tdone k t →
       (t.inTask = false → exec tdone s = .next (s.trap k .taskState)) ∧
       (t.inTask = true → ∀ x, cr.task = some x →
         (x.signer ≠ none → exec tdone s = .next (s.park k (.conv c))) ∧
         (x.signer = none →
           let released (u : State) (rel : List (Nat × Nat)) : Prop := (∀ n ∈ x.rel ++ t.relNeed, n ∈ rel) ∧
             ∀ f ∈ u.flights, f.seen.testBit (coreOf k) = true → (f.id, maskDev) ∈ rel
           signs tdone (opRecord tdone 0 0 (c.setWidth 32)) (t.storeq.flatMap (·.bytes))
             (fun u cr' => ∃ rel, cr'.task = some { x with rel := rel } ∧ released u rel)
             (fun u cr' => ∃ rel, cr'.task = some { x with rel := rel, signer := some k } ∧ released u rel)))) ∧
     (s.issues tspawn k t →
       (s.queueOpen t.vf q.toNat = false → exec tspawn s = .next (s.trap k .queueUnbound)) ∧
       (s.queueOpen t.vf q.toNat = true → t.inTask = false →
         let e := (Entry.ofWords (t.rs a 8)).pushedBy 0 0xFFFFFFFF
         let va := qu.place (qu.sphead + qu.spcnt)
         let pushes (extra : State → Prop) : Prop :=
           ∃ u, exec tspawn s = .next u ∧ u.thread? k = some (s.after t) ∧ (∀ j, j ≠ k → u.thread? j = s.thread? j) ∧
             (∀ n, n ≠ q.toNat → u.queue n = s.queue n) ∧ extra u
         e.depth = 0 ∧ e.parent = 0xFFFFFFFF ∧ (qu.rejects e true = true → exec tspawn s = .next (s.trap k .badEntry)) ∧
         (qu.rejects e true = false →
           (qu.spcnt = 0 ∧ qu.ents.length < 64 → pushes fun u =>
             (u.queue q.toNat).ents = qu.ents ++ [(e, qu.seq)] ∧ (u.queue q.toNat).seq = (qu.seq + 1) % 2 ^ 64 ∧
               u = { s with threads := u.threads, issue := u.issue, queues := u.queues }) ∧
           (¬(qu.spcnt = 0 ∧ qu.ents.length < 64) →
             (qu.spcap ≤ qu.spcnt → exec tspawn s = .next (s.storeFault tspawn k .spillwayFault (BitVec.ofNat 64 va))) ∧
             (qu.spcnt < qu.spcap → ∀ l, s.access agHeadgate qu.vf hubCore va .write = .ok l → s.mem.wf = true → pushes fun u =>
               (u.queue q.toNat).ents = qu.ents ∧ (u.queue q.toNat).spcnt = qu.spcnt + 1 ∧
                 (u.queue q.toNat).spseq = qu.spseq ++ [qu.seq] ∧ s.stored u (l.cells va (bytesOfWords e.words)))))) ∧
       (s.queueOpen t.vf q.toNat = true → t.inTask = true → ∀ x, cr.task = some x →
         (10 ≤ x.e.depth + 1 → exec tspawn s = .next (s.trap k .depth)) ∧
         (x.e.depth + 1 < 10 →
           let e := (Entry.ofWords (t.rs a 8)).pushedBy (x.e.depth + 1) x.handle
           e.depth = x.e.depth + 1 ∧ e.parent = x.handle ∧ (qu.rejects e true = true → exec tspawn s = .next (s.trap k .badEntry)) ∧
           (qu.rejects e true = false →
             ((s.queue x.q).wbufUnits < x.units + 3 → s.overflows tspawn ck x) ∧
             (x.units + 3 ≤ (s.queue x.q).wbufUnits → s.buffers tspawn k t x (.push q.toNat e))))))) ∧
  (∀ (s : State) (k : Nat) (t : Thread) (g : Guard) (sel : TstatSel) (d : Reg) (q : QNum),
     let ck := t.crewKey k
     let three : List Instr := [.tsplit g, .tabort g, .tabortRq g]
     let asks (i : Instr) (x : Task) (kind : AbortKind) : Prop :=
       ∃ u, exec i s = .next u ∧ u.stalls = true ∧ u.threads = s.threads ∧ u.mem = s.mem ∧ u.flights = s.flights ∧
         u.task? ck = some { x with due := some ((x.due.map fun a => a.first kind).getD kind) }
     (t.inTask = false → ∀ i ∈ three, s.issues i k t → exec i s = .next (s.trap k .taskState)) ∧
     (t.inTask = true → ∀ x, s.task? ck = some x →
       (s.issues (.tsplit g) k t →
         (x.e.splits = false → exec (.tsplit g) s = .next (s.trap k (if x.e.div then .smallestGrain else .notDivisible))) ∧
         (x.e.splits = true → x.signer = none → asks (.tsplit g) x .tsplit) ∧
         (x.e.splits = true → x.signer ≠ none → s.gives (.tsplit g) k t)) ∧
       (s.issues (.tabort g) k t →
         (x.signer = none → asks (.tabort g) x .cancel) ∧ (x.signer ≠ none → s.gives (.tabort g) k t)) ∧
       (s.issues (.tabortRq g) k t →
         (x.signer = none → asks (.tabortRq g) x .requeue) ∧
         (x.signer ≠ none → s.gives (.tabortRq g) k t))) ∧
     (s.issues (.tstat g sel d q) k t →
       (sel = .qdepth → (s.queue q.toNat).vf ≠ t.vf → exec (.tstat g sel d q) s = .next (s.trap k .queueUnbound)) ∧
       (sel ≠ .qdepth ∨ (s.queue q.toNat).vf = t.vf → ∃ v, s.gives (.tstat g sel d q) k (t.setReg d.toNat v) ∧
         (∀ cr, s.crew? ck = some cr → sel = .last → v = BitVec.ofNat 32 (cr.last.1 + cr.last.2.1 * 16 + cr.last.2.2 * 256)) ∧
         (t.inTask = false → (sel = .handle → v = 0xFFFFFFFF) ∧ (sel ∈ [TstatSel.elapsed, .wbused, .rset] → v = 0)) ∧
         (∀ x, t.inTask = true → s.task? ck = some x →
           (sel = .handle → v = x.handle) ∧ (sel = .elapsed → v.toNat = min x.elapsed 0xFFFFFFFF) ∧
           (sel = .wbused → v.toNat = x.units % 2 ^ 32) ∧ (sel = .rset → v.toNat = min x.rset.length 64)) ∧
         (sel = .qdepth → v.toNat = min ((s.queue q.toNat).ents.length + (s.queue q.toNat).spcnt) 0xFFFFFFFF)))) ∧
  (∀ (s : State) (ck : Nat) (cr : Crew) (x : Task) (kind : AbortKind), s.wf = true → s.crew? ck = some cr → cr.task = some x →
     x.due = some kind → kind ≠ .conflict → (kind = .tsplit → x.e.splits = true) →
     (x.signer ≠ none → (s.resolveDue ck).crew? ck = some { cr with task := some { x with due := none } }) ∧
     (x.signer = none → x.committing = false →
       let why : Option Nat := if s.grantOut ck then some 1 else match kind with
         | .exhausted w => some w
         | _ => if s.timeUp ck then some 4 else none
       let splits := x.e.splits && (why.isSome || kind == .tsplit)
       let stays := why.isSome && !x.e.splits
       let u := s.resolveDue ck
       let mid := x.e.lo + BitVec.ofNat 32 ((x.e.hi.toNat - x.e.lo.toNat) / 2)
       let requeued : List (Entry × Nat) :=
         if splits then [({ x.e with hi := mid }, x.seq), ({ x.e with lo := mid }, x.seq)]
         else if why = none ∧ kind = .requeue then [(x.e, x.seq)] else []
       (∃ cr', u.crew? ck = some cr' ∧ cr'.pop = none ∧ (∀ r ∈ cr'.convs, r.count = 0) ∧
         cr'.last = (match why with
           | some w => (if splits then 2 else 3, w, x.q)
           | none => (match kind with | .tsplit => 4 | .cancel => 5 | _ => 6, 0, x.q)) ∧
         (stays = false → cr'.task = none) ∧
         ∀ y, cr'.task = some y → y.e = x.e ∧ y.elapsed = 0 ∧ y.buf = [] ∧ y.rset = [] ∧ y.due = none) ∧
       (∀ j y, s.thread? j = some y → coreOf j = ck / 64 → y.crew = ck % 64 →
         ∃ z, u.thread? j = some z ∧ z.pc = y.tpop.1 + (if stays then 8 else 0) ∧ z.preds = 0 ∧ z.fstat = 0 ∧ z.fctl = y.fctl ∧
           z.alloc = cr.regs ∧ z.inTask = stays ∧ z.log = [] ∧ z.outs = [] ∧ z.kcnt = List.replicate 8 0 ∧
           (stays = false → ∀ r, z.reg r = 0) ∧
           (stays = true → z.pendCause = some (if x.e.div then .smallestGrain else .notDivisible))) ∧
       ((s.queue x.q).ordered = false → (s.queue x.q).ents.length < 63 →
         (u.queue x.q).ents = requeued ++ (s.queue x.q).ents ∧ (u.queue x.q).seq = (s.queue x.q).seq) ∧
       (why = none → kind = .cancel → s.recLive cr.vf x.handle = true →
         (u.taskRec cr.vf x.handle).committed = true ∧ (u.taskRec cr.vf x.handle).outstanding = 0)))

/-- R54, R57, R65, R76: HEADGATE_DISPATCH makes at most one dispatch a cycle. A queue is eligible when it is enabled, holds an entry and a
waiting crew of its partition names it. Of the eligible queues that can be served, those of the highest EP come in turn from the pointer,
the ones with credit first; when none has any, the credits of that EP are loaded again. The served queue loses one credit and starts
again at its PRIO; each other eligible one counts a pass, and rises at the limit. The entry is the first of the queue, in an ordered one
the one with the lower key of the chip's and the spillway's; it goes to the crew whose request is the oldest: every resident thread of the
crew has its eight words, is in the task and goes on. The task's record stands in the partition's area (its layout is the model's,
notes/assumptions/27.md), and nothing else is stored. A dispatch for which no record is free is held and raises the partition's event,
while the Headgate serves the other queues; an entry that a running commit has pushed waits for that commit (notes/assumptions/24.md).
A request with NB that finds no entry is answered with zeros, and no task begins.

R56: SPILLWAY_REFILL brings the oldest entry of the spillway back: an unordered queue has it last, an ordered one in the place of its key. -/
def Obligations.TaskDispatch : Prop :=
  ∀ (s : State), s.wf = true → NMap.wf s.queues = true →
    let names (p : PopReq) (cr : Crew) (q : Nat) : Prop := (p.any = true ∧ q ∈ cr.queues) ∨ (p.any = false ∧ p.q = q)
    let waiting (x : Nat × Crew × PopReq) : Prop := s.crew? x.1 = some x.2.1 ∧ x.2.1.pop = some x.2.2 ∧
      (s.part x.2.1.vf).line = .running ∧ s.crewOnConv x.1 = true
    let early (vf q : Nat) : Prop := ∃ e, s.frontOf q = some e ∧ s.pushedEarly vf e.1.1 = true
    let serves (q : Nat) (x : Nat × Crew × PopReq) : Prop := waiting x ∧ (s.queue q).en = true ∧
      0 < (s.queue q).ents.length + (s.queue q).spcnt ∧ (s.queue q).vf = x.2.1.vf ∧ names x.2.2 x.2.1 q ∧ ¬early x.2.1.vf q
    let eligible (q : Nat) : Prop := ∃ x, serves q x
    let able (q : Nat) : Prop := eligible q ∧ (∃ e, s.frontOf q = some e) ∧ s.recFree (s.queue q).vf = true
    let top (q n : Nat) : Prop := able n ∧ (s.queue n).ep = (s.queue q).ep
    let reloads (q : Nat) : Prop := ∀ n, top q n → (s.queue n).cr = 0
    let inTurn (q n : Nat) : Prop := top q n ∧ (0 < (s.queue n).cr ∨ reloads q)
    let moves : Prop := headgateUnit ∉ s.fenced ∧ s.hg.last ≠ s.now + 1
    (¬moves → exec .headgateDispatch s = .next s) ∧
    (∀ q ck cr p e seq, ∀ ring : Bool, moves → s.emptyNb = none →
      inTurn q q → (∀ n, able n → (s.queue n).ep ≤ (s.queue q).ep) →
      ((s.hg.ptr ≤ q ∧ ∀ n, inTurn q n → s.hg.ptr ≤ n → q ≤ n) ∨ ∀ n, inTurn q n → n < s.hg.ptr ∧ q ≤ n) →
      serves q (ck, cr, p) → (∀ x, serves q x → p.since ≤ x.2.2.since ∧ (x.2.2.since = p.since → ck ≤ x.1)) →
      (ring = false → (s.queue q).ents.head? = some (e, seq) ∧ ((s.queue q).ordered = true → (s.queue q).spcnt ≠ 0 →
        ∃ y, s.ringEntry q 0 = some y ∧ keyLt y (e, seq) = false)) →
      (ring = true → (s.queue q).spcnt ≠ 0 ∧ s.ringEntry q 0 = some (e, seq) ∧ ((s.queue q).ents = [] ∨
        ((s.queue q).ordered = true ∧ ∀ y ∈ (s.queue q).ents.head?, keyLt (e, seq) y = true))) →
      s.crewEvicted ck = [] →
      ∃ u cr' x, exec .headgateDispatch s = .next u ∧ u.crew? ck = some cr' ∧ cr'.pop = none ∧ cr'.task = some x ∧
        x.e = e ∧ x.seq = seq ∧ x.q = q ∧ x.elapsed = 0 ∧ x.buf = [] ∧ x.rset = [] ∧ x.signer = none ∧
        (u.queue q).ents = (if ring then (s.queue q).ents else (s.queue q).ents.tail) ∧
        (u.queue q).spcnt = (s.queue q).spcnt - (if ring then 1 else 0) ∧
        (u.queue q).cr = (if 0 < (s.queue q).cr then (s.queue q).cr - 1 else (s.queue q).weight) ∧
        (u.queue q).ep = (s.queue q).prio ∧ (u.queue q).pass = 0 ∧ u.hg.ptr = (q + 1) % 256 ∧ u.hg.last = s.now + 1 ∧
        (∀ n, n ≠ q → (u.queue n).ents = (s.queue n).ents ∧
          (¬eligible n → (u.queue n).ep = (s.queue n).ep ∧ (u.queue n).pass = (s.queue n).pass) ∧
          (eligible n →
            ((s.queue n).pass + 1 = s.hg.hgcfg.toNat % 65536 → (u.queue n).ep = min ((s.queue n).ep + 1) 3 ∧ (u.queue n).pass = 0) ∧
            ((s.queue n).pass + 1 ≠ s.hg.hgcfg.toNat % 65536 →
              (u.queue n).ep = (s.queue n).ep ∧ (u.queue n).pass = (s.queue n).pass + 1))) ∧
        (∃ i l r, s.recPlace cr.vf i = .ok l ∧ x.handle = BitVec.ofNat 32 (r.gen % 256 * 2 ^ 24 + i) ∧ r.live = true ∧ r.e = e ∧
          r.outstanding = 0 ∧ r.committed = false ∧ (u.part cr.vf).tasks.find? i = some r ∧
          s.stored u (l.cells ((s.part cr.vf).recVa i) r.bytes)) ∧
        (∀ j y, s.thread? j = some y → coreOf j = ck / 64 → y.crew = ck % 64 →
          ∃ z, u.thread? j = some z ∧ z.inTask = true ∧ z.pc = y.pc + 8 ∧ z.regs = (y.setRegs p.d e.words).regs ∧ z.preds = y.preds)) ∧
    (moves → s.emptyNb = none → ∀ q, q < 256 → eligible q → (∃ e, s.frontOf q = some e) → s.recFree (s.queue q).vf = false →
      ∃ u, exec .headgateDispatch s = .next u ∧ (∃ f ∈ (u.part (s.queue q).vf).faults, f.event = true ∧ f.user = 0x80) ∧
        (u.queue q).ents = (s.queue q).ents) ∧
    (s.emptyNb = none ↔ ∀ x, waiting x → x.2.2.nb = true →
      ∃ q, q < 256 ∧ names x.2.2 x.2.1 q ∧ (s.queue q).en = true ∧ 0 < (s.queue q).ents.length + (s.queue q).spcnt) ∧
    (∀ ck p, moves → s.emptyNb = some (ck, p) → s.crewEvicted ck = [] →
      ∃ u cr, exec .headgateDispatch s = .next u ∧ s.crew? ck = some cr ∧ u.crew? ck = some { cr with pop := none } ∧
        (∀ j y, s.thread? j = some y → coreOf j = ck / 64 → y.crew = ck % 64 → ∃ z, u.thread? j = some z ∧ z.inTask = false ∧
          z.pc = y.pc + 8 ∧ z.regs = (y.setRegs p.d (List.replicate 8 0)).regs ∧ z.preds = y.preds) ∧
        u = { s with threads := u.threads, crews := u.crews }) ∧
    (∀ n l, s.who = [n] → 0 < (s.queue n).spcnt → (s.queue n).ents.length < 64 →
      s.access agHeadgate (s.queue n).vf hubCore ((s.queue n).place (s.queue n).sphead) .read = .ok l →
      ∃ u, exec .spillwayRefill s = .next u ∧ (u.queue n).spcnt = (s.queue n).spcnt - 1 ∧
        (let x := (Entry.ofWords (wordsOf (s.readLoc agHeadgate l ((s.queue n).place (s.queue n).sphead) 32)), (s.queue n).spseq.headD 0)
         ((s.queue n).ordered = false → (u.queue n).ents = (s.queue n).ents ++ [x]) ∧
         ((s.queue n).ordered = true → (u.queue n).ents.Perm (x :: (s.queue n).ents) ∧
           ((s.queue n).ents.Pairwise (fun a b => keyLe a b = true) → (u.queue n).ents.Pairwise fun a b => keyLe a b = true))) ∧
        u = { s with queues := u.queues, tlb := u.tlb })

/-- R60, R61, R63, R64, R66, R67, R136: the commit. TASK_COMMIT begins it once the crew's task may commit, makes visible to the device what
its threads released, and aborts the younger tasks that have read a line of what it writes; COMMIT_RECORD aborts those of its record's lines
again (notes/assumptions/26.md). COMMIT_RECORD performs the first record of the buffer: a line's bytes as one store; a deferred reduction,
exact addition or signal change as its atomic; a push of its entry, checked again, which counts a child; a held command is given to its unit
and stays first until it is done. A cause that is not recoverable is the last signer's, and the record stays; a recoverable fault enters its
log, and it parks. With no record left the task ends: its crew is out of it, its threads go on, and its regions are released.

R61: TASK_COMPLETE, of a record whose task has committed and whose children have completed, decrements the entry's signal, counts one child
less in the parent's record, and frees the record. -/
def Obligations.TaskCommit : Prop :=
  ∀ (s : State), s.wf = true →
    (∀ ck cr x k t, s.who = [ck] → s.crew? ck = some cr → cr.task = some x → x.signer = some k → s.thread? k = some t →
      s.commitGoes ck = true →
      let core := coreOf k
      let at_ (va : DWord) (l : Loc) : Prop := s.commitAccess k t.vf va = .ok l
      let mask (l : Loc) (sc : Scope) : Nat := if 3 ≤ l.tgt then maskSys else scopeMask sc core
      let performs (r : BufRec) (more : State → Prop) : Prop :=
        ∀ rest, x.buf = r :: rest → s.taskOrdered x = false ∨ s.conflicts ck x (s.recLines r) = [] →
          ∃ u, exec .commitRecord s = .next u ∧ u.task? ck = some { x with buf := rest, nextRec := x.nextRec + 1 } ∧ more u
      let takes (r : BufRec) (c : Cause) (va : DWord) : Prop :=
        ∀ rest, x.buf = r :: rest →
          (c.recoverable = false → exec .commitRecord s = .next (s.trap k c va)) ∧
          (c.recoverable = true → ∀ s1 id, s.fileFault t.vf c va (faultStamp k false) = (s1, some id) →
            ∃ u y e, exec .commitRecord s = .next u ∧ u.thread? k = some y ∧ y.log = t.log ++ [e] ∧ e.cause = c ∧ e.va = va ∧
              e.commit = true ∧ (∃ o, y.phase = .parked .fault o) ∧ u.task? ck = some { x with held := true })
      (x.buf = [] → s.crewOnConv ck = true → s.crewEvicted ck = [] →
        ∃ u cr', exec .commitRecord s = .next u ∧ u.crew? ck = some cr' ∧ cr'.task = none ∧ cr'.last = (1, 0, x.q) ∧
          (∀ r ∈ cr'.regions, r.task ≠ some x.handle) ∧
          (s.recLive cr.vf x.handle = true → (u.taskRec cr.vf x.handle).committed = true) ∧
          (∀ j y, s.thread? j = some y → coreOf j = ck / 64 → y.crew = ck % 64 →
            u.thread? j = some { y.next with inTask := false, passed := true })) ∧
      (∀ n bs l, at_ (BitVec.ofNat 64 (n * 128)) l → performs (.line n bs) fun u => u.threads = s.threads ∧
        s.stored u ((bs.filter fun c => !inTail l c.1).map fun c => (l.key + c.1 % 128, c.2))) ∧
      (∀ n bs c, s.commitAccess k t.vf (BitVec.ofNat 64 (n * 128)) = .error c → takes (.line n bs) c (BitVec.ofNat 64 (n * 128))) ∧
      (∀ va op w64 sc b l, at_ va l → inTail l va.toNat = false → t.storeq = [] → op ≠ .cas → performs (.red va op w64 sc b) fun u =>
        u.threads = s.threads ∧ (let n := if w64 then 8 else 4
          s.stored u (cellsAt l.key
            (bytesOf (atomNew op (8 * n) (natOf (s.readAtom core (mask l sc) l.key n)) b.toNat 0) n)))) ∧
      (∀ va op w64 sc b c, s.commitAccess k t.vf va = .error c → takes (.red va op w64 sc b) c va) ∧
      (∀ va da sc c a el dl, at_ va el → at_ da dl → inTail el va.toNat = false → inTail dl da.toNat = false →
        el.key + 16 ≤ dl.key ∨ dl.key + 16 ≤ el.key →
        let desc := natOf (s.readAtom core (mask el sc) dl.key 16)
        let (v, fl) := exactAddend c.toInt a (signedOf 8 (desc % 256))
        (desc / 2 ^ 12 ≠ 0 → takes (.xadd va da sc c a) .x128Desc da) ∧
        (desc / 2 ^ 12 = 0 → performs (.xadd va da sc c a) fun u => u.threads = s.threads ∧
          (∀ n < 16, u.lastByte (el.key + n) =
            (bytesOf (modPow ((natOf (s.readAtom core (mask el sc) el.key 16) : Int) + v) 128) 16).getD n 0) ∧
          (∀ p, ¬(el.key ≤ p ∧ p < el.key + 16) → p ≠ dl.key + 1 → u.lastByte p = s.lastByte p) ∧
          (fl = 0 → u.lastByte (dl.key + 1) = s.lastByte (dl.key + 1)) ∧
          ∀ n, fl.getLsbD n = true → (u.lastByte (dl.key + 1)).getLsbD n = true)) ∧
      (∀ va add notify l, at_ va l → inTail l va.toNat = false → performs (.signal va add notify) fun u =>
        s.stored u (cellsAt l.key (bytesOf (BitVec.ofNat 64 (natOf (s.readAtom core maskSys l.key 8)) + add).toNat 8))) ∧
      (∀ va add notify c, s.commitAccess k t.vf va = .error c → takes (.signal va add notify) c va) ∧
      (∀ q e,
        let qu := s.queue q
        (s.queueOpen t.vf q = false → takes (.push q e) .queueUnbound 0) ∧
        (s.queueOpen t.vf q = true → qu.rejects e true = true → takes (.push q e) .badEntry 0) ∧
        (s.queueOpen t.vf q = true → qu.rejects e true = false → qu.spcnt = 0 → qu.ents.length < 64 → performs (.push q e) fun u =>
          u.threads = s.threads ∧ (u.queue q).ents = qu.ents ++ [(e, qu.seq)] ∧ (∀ n, n ≠ q → u.queue n = s.queue n) ∧
          (s.recLive t.vf x.handle = true →
            (u.taskRec t.vf x.handle).outstanding = (s.taskRec t.vf x.handle).outstanding + 1))) ∧
      (∀ c rest, x.buf = .cmd c :: rest →
        (c.issued = true → s.cmd? c.id ≠ none → exec .commitRecord s = .next s) ∧
        (c.issued = true → s.cmd? c.id = none → performs (.cmd c) fun u => u.threads = s.threads ∧ s.stored u []) ∧
        (c.issued = false → c.unit.code ∈ s.fenced → takes (.cmd c) .engineFenced 0) ∧
        (c.issued = false → c.unit.code ∉ s.fenced → c.unit.places ≤ (s.cmds.filter fun y => y.unit == c.unit).length →
          exec .commitRecord s = .next s) ∧
        (c.issued = false → c.unit.code ∉ s.fenced → (s.cmds.filter fun y => y.unit == c.unit).length < c.unit.places →
          ∃ u c', exec .commitRecord s = .next u ∧ c' ∈ u.cmds ∧ c'.id = c.id ∧ c'.i = c.i ∧ c'.ops = c.ops ∧ c'.issued = true ∧
            c'.thr = k ∧ ∃ y c2, u.task? ck = some y ∧ y.buf = .cmd c2 :: rest ∧ c2.issued = true ∧ c2.id = c.id)) ∧
      (∀ r rs s', x.buf = r :: rs → s.commitOne k t x.handle x.rel r = .done s' →
        exec .commitRecord s = .next ((if s.taskOrdered x then s.conflicts ck x (s.recLines r) else []).foldl
          (fun (u : State) c => u.abortTask c .conflict) (s'.modTask ck fun x => { x with buf := rs, nextRec := x.nextRec + 1 })))) ∧
    (∀ ck cr x, s.who = [ck] → s.crew? ck = some cr → cr.task = some x → s.commitReady ck = true → s.taskOrdered x = false →
      ∃ u, exec .taskCommit s = .next u ∧ u.task? ck = some { x with committing := true } ∧ s.stored u [] ∧ u.threads = s.threads ∧
        ∀ r ∈ x.rel, ∀ f ∈ u.flights, f.id = r.1 → f.seen &&& r.2 = r.2) ∧
    (∀ ck cr x, s.who = [ck] → s.crew? ck = some cr → cr.task = some x → s.commitReady ck = true → s.taskOrdered x = true →
      (∀ y ∈ s.running x.q, y.1 ≠ ck → keyLt (x.e, x.seq) (y.2.e, y.2.seq) = true →
        (∃ n ∈ y.2.rset, n ∈ s.writeSet x) → y.1 ∈ s.conflicts ck x (s.writeSet x)) ∧
      exec .taskCommit s = .next ((s.conflicts ck x (s.writeSet x)).foldl (fun (u : State) c => u.abortTask c .conflict)
        ((s.modTask ck fun t => { t with committing := true }).releaseCrew x))) ∧
    (∀ vf n r, s.who = [vf, n] → (s.part vf).tasks.find? n = some r → r.live = true → r.committed = true → r.outstanding = 0 →
      r.gen < 256 → n < 2 ^ 24 - 1 →
      let m := r.e.parent.toNat % 2 ^ 24
      ∃ u r', exec .taskComplete s = .next u ∧ (u.part vf).tasks.find? n = some r' ∧ r'.live = false ∧ r'.gen = (r.gen + 1) % 256 ∧
        (∀ p, m ≠ n → s.recLive vf r.e.parent = true → (s.part vf).tasks.find? m = some p →
          (u.part vf).tasks.find? m = some { p with outstanding := p.outstanding - 1 }) ∧
        ∀ l, r.e.sig = true → r.e.arg.toNat % 16 = 0 → r.e.arg.toNat < 2 ^ 56 → inTail l r.e.arg.toNat = false →
          s.access agHeadgate vf hubCore r.e.arg.toNat .write = .ok l →
          (∀ i ∈ [n, m], ∀ p, s.recPlace vf i = .ok p → p.key + 32 ≤ l.key ∨ l.key + 16 ≤ p.key) →
          let old := BitVec.ofNat 64 (natOf (s.readAtom agHeadgate maskSys l.key 8))
          let word := natOf (s.readAtom agHeadgate maskSys (l.key + 8) 8)
          (∀ i < 8, u.lastByte (l.key + i) = (bytesOf (old - 1).toNat 8).getD i 0) ∧
          (old = 1 → word.testBit 63 = true → bits word 10 0 < s.vectors vf → (vf, bits word 10 0) ∈ u.host.msix))

/-- R44, R50, R66, R68, R69: TALLOW_EXPIRY exhausts a task whose counted cycles are used up, and names the lowest WHY that holds in the
cycle; READ_SET_HOLD_RELEASE lets the read of the oldest task go; CREW_END ends an idle crew and reports it; REG_DEADLOCK exhausts the task
dispatched last, and with no task gives REG_DEADLOCK to the threads that wait for registers; threads that may not run are left alone. That
TALLOW and the deadlock are decided once no lane group of the core can issue in the cycle, and that a task which has signed is spared, are
the model's readings (notes/assumptions/25.md). -/
def Obligations.CrewEvents : Prop :=
  ∀ (s : State) (ck k core lg : Nat) (t : Thread) (x : Task) (cr : Crew),
    (s.who = [ck] → s.task? ck = some x → 0 < (s.queue x.q).tallow → (s.queue x.q).tallow ≤ x.elapsed → x.signer = none →
      s.issuedAll (ck / 64) = true →
      exec .tallowExpiry s = .next (s.abortTask ck (.exhausted (if s.grantOut ck then 1 else match x.due with
        | some (.exhausted w) => w
        | _ => 4)))) ∧
    (s.who = [k] → s.thread? k = some t → s.task? (t.crewKey k) = some x → t.rsHold = true →
      s.oldest (t.crewKey k) x = true →
      ∃ u, exec .readSetHoldRelease s = .next u ∧ u.thread? k = some { t with rsHold := false } ∧
        (∀ j, j ≠ k → u.thread? j = s.thread? j) ∧ u = { s with threads := u.threads }) ∧
    (s.who = [ck] → s.crew? ck = some cr → cr.ended = true → cr.reported = false → s.crewIdle ck = true →
      ∃ u cr', exec .crewEnd s = .next u ∧ u.crew? ck = some cr' ∧ cr'.reported = true ∧ cr'.tiles = [] ∧ cr'.regions = [] ∧
        cr'.queues = [] ∧ cr'.gen = (cr.gen + 1) % 256 ∧ (∀ n < 16, cr'.conv n = ConvReg.reset) ∧
        (∃ f ∈ (u.part cr.vf).faults, f.event = true ∧ f.user = 0x81 ∧ f.lohi = BitVec.ofNat 32 (ck % 64) ∧
          f.tstamp = BitVec.ofNat 32 (ck / 64)) ∧ u.threads = s.threads ∧ u.mem = s.mem) ∧
    (s.who = [core, lg] → (∃ x ∈ s.lgThreads core lg, s.mayRun x.2.vf (x.2.crewKey x.1) = false) →
      exec .regDeadlock s = .next s) ∧
    (s.who = [core, lg] → s.deadlocked core lg = true → s.issuedAll core = true →
      (∀ x ∈ s.lgThreads core lg, s.mayRun x.2.vf (x.2.crewKey x.1) = true) →
      (∀ y, youngest ((s.lgTasks core lg).filter fun x => x.2.signer.isNone) = some y →
        (∀ z ∈ s.lgTasks core lg, z.2.signer = none → z.2.dispatch ≤ y.2.dispatch) ∧
        exec .regDeadlock s = .next (s.abortTask y.1 (.exhausted 1))) ∧
      (s.lgTasks core lg = [] →
        exec .regDeadlock s = .next (((s.lgThreads core lg).filter fun x => x.2.onGrant).foldl
          (fun (u : State) x => u.trap x.1 .regDeadlock) s)))

/-- R28 to R30: BUNDLE_FORM forms at most one bundle of a lane group in a cycle. It takes its bundle from the furrow whose oldest thread
is the oldest of the eligible furrows, or of all when none is eligible; of that furrow it takes, for one crew and one PC, the oldest
thread on each lane. Its threads become ACTIVE, the bundle enters the rotation, at its back (notes/assumptions/8.md), and nothing else
changes. AGE_LIMIT_EXPIRY, the model's event for a wait with nothing else to do, lets the cycles pass after which a furrow is eligible
(notes/assumptions/38.md). -/
def Obligations.BundlesFormed : Prop :=
  ∀ (s : State) (core lg : Nat),
    let ts := s.filedThreads core lg
    let ready (x : Nat × Thread) : Bool := (x.2.filed?.map (s.furrowReady core ts)).getD false
    s.wf = true →
    (s.who = [core, lg] → s.formedNow core lg = true → exec .bundleForm s = .next s) ∧
    (∀ h, s.who = [core, lg] → s.formedNow core lg = false → s.formHead core lg = some h →
      h ∈ ts ∧ (∀ x ∈ ts, ready x = true → ready h = true ∧ ageKey h ≤ ageKey x) ∧
      ((∀ x ∈ ts, ready x = false) → ∀ x ∈ ts, ageKey h ≤ ageKey x) ∧
      ∃ u b, exec .bundleForm s = .next u ∧
        (u.lg (core * 4 + lg)).rotation = (s.lg (core * 4 + lg)).rotation ++ [b] ∧ (∀ n, n ≠ core * 4 + lg → u.lg n = s.lg n) ∧
        b.members = s.formMembers core lg h ∧ b.todo = b.members ∧ b.formed = s.now ∧ (b.members.map laneOf).Nodup ∧
        (∀ k ∈ b.members, ∃ t, (k, t) ∈ ts ∧ t.filed? = h.2.filed? ∧ t.crew = h.2.crew ∧ t.pc = h.2.pc ∧
          u.thread? k = some { t with phase := .active } ∧
          ∀ x ∈ ts, x.2.filed? = h.2.filed? → x.2.crew = h.2.crew → x.2.pc = h.2.pc → laneOf x.1 = laneOf k →
            ageKey (k, t) ≤ ageKey x) ∧
        (∀ j, j ∉ b.members → u.thread? j = s.thread? j) ∧ u = { s with threads := u.threads, lgs := u.lgs }) ∧
    (∀ f x, s.who = [core, lg, f] → x ∈ ts → x.2.filed? = some f → (∀ y ∈ ts, y.2.filed? = some f → ageKey x ≤ ageKey y) →
      (∀ ck y, s.task? ck = some y → y.due = none) →
      ∃ u, exec .ageLimitExpiry s = .next u ∧ u.now = s.now + (x.2.ftime + s.ageLimit core - s.fileTime) ∧
        u.furrowReady core (u.filedThreads core lg) f = true ∧ u = { s with now := u.now, crews := u.crews, lgs := u.lgs })

/-- R33, R46, R142, R223, R350: PARK_END, in a later cycle than the park. A thread whose wait has ended is filed where it parked, with this
cycle as its filing time; one that the replay of a log entry had parked stays parked on FAULT for its log (R46). A declined oldest entry is
delivered where the thread stands (notes/assumptions/18.md), and so is an imprecise cause where what the thread waits for may never come: its
EPC is the word of the cause, NPC the instruction at which it waits, and SKID counts the words retired since (notes/assumptions/19.md). A
clause fetch that was declined takes its cause. Each wait ends when its condition holds: the sector is present, the counters are zero, the
registers are granted, the log is empty, the operation of the convergence register is done. A thread that may not run stays parked. -/
def Obligations.ParksEnd : Prop :=
  ∀ (s : State) (k : Nat) (t : Thread) (why : Park) (order : Nat),
    s.who = [k] → s.thread? k = some t → t.phase = .parked why order →
    (s.mayRun t.vf (t.crewKey k) = false ∨ t.since = s.now → exec .parkEnd s = .next s) ∧
    (s.mayRun t.vf (t.crewKey k) = true → t.since ≠ s.now →
      (t.declined = true → exec .parkEnd s = .next (s.declineHead k)) ∧
      (∀ i is, t.declined = false → t.imps = i :: is → t.interruptible = true → s.undelivered t (coreOf k) i.cause = false →
        ∃ u x, exec .parkEnd s = .next u ∧ u.thread? k = some x ∧ x.phase = .active ∧ x.pc = (s.part t.vf).tvec ∧ x.imps = is ∧
          x.regs = t.regs ∧ x.tr.epc = i.pc ∧ x.tr.ecb = i.cb ∧ x.tr.npc = t.pc ∧ x.tr.ncb = t.cb ∧
          x.tr.skid.toNat = min (t.skidFrom i.at_) (2 ^ 32 - 1) ∧ (∀ j, j ≠ k → u.thread? j = s.thread? j)) ∧
      (t.declined = false → t.imps = [] ∨ t.interruptible = false →
        (∀ c va, why = .fault → t.fetchDecl = some (c, va) →
          exec .parkEnd s = .next ((s.modThread k fun t => { t with fetchDecl := none }).fetchTrap k t.cb c va)) ∧
        (why ≠ .fault ∨ t.fetchDecl = none →
          (s.waitOver k t why = false → exec .parkEnd s = .next s) ∧
          (s.waitOver k t why = true → ∃ u x, exec .parkEnd s = .next u ∧ u.thread? k = some x ∧ x.pc = t.pc ∧ x.regs = t.regs ∧
            (t.replayWait = false ∨ t.log = [] → (∃ f, x.phase = .filed f) ∧ x.ftime = s.fileTime ∧ s.othersFiled u k) ∧
            (t.replayWait = true → t.log ≠ [] → x.phase = .parked .fault order ∧ ∀ j, j ≠ k → u.thread? j = s.thread? j) ∧
            u = { s with threads := u.threads })))) ∧
    (∀ m, why = .tag m → (s.waitOver k t why = true ↔ ∀ i < 8, m.getLsbD i = true → t.kcnt.getD i 0 = 0)) ∧
    (∀ b, why = .grant b → (s.waitOver k t why = true ↔ b ≤ t.alloc)) ∧
    (why = .fault → (s.waitOver k t why = true ↔ t.log = [] ∧ t.fetchFault = none)) ∧
    (∀ sa cr, why = .sector sa → s.crew? (t.crewKey k) = some cr →
      (s.waitOver k t why = true ↔ (s.sector (sectorAt (coreOf k) cr sa.toNat)).present = true)) ∧
    (∀ c cr, why = .conv c → s.crew? (t.crewKey k) = some cr →
      (s.waitOver k t why = true ↔ t.passed = true ∨
        ((∀ x ∈ t.sig, x.1 ≠ c) ∧ cr.pop = none ∧ cr.task.bind (·.signer) = none)))

/-- R345 to R347, R368: MFX and MTX. A register that can be read is written to the destination, and nothing else changes; one that cannot
takes SYSREG_BAD with its number in ICODE. A write of FSTAT, FCTL, CAUSE, NPC, NCB, PPRIV, the scratch registers, TVEC, PTROOT, SEGTAB or QSEL
stores the bits that the register has; one of FRESP answers the faults of its id that have no answer yet; a write of a read-only register
takes SYSREG_BAD. That a CODE from 0x60 on leaves the CODE as it was, that SEGTAB and TRAREA store their low bits as zero, and that a write of a
register which a read clears has no effect, is the model's (notes/assumptions/33.md).

R31, R55, R152, R347, R351, R366, R368: the registers with rows of their own. FURCFG stores its fields clamped; a read of
UNIFORM_MISS, HALTREC and POOLSTAT clears; TRAREA, FQCFG, QCFG, QSPILL refuse with SYSREG_BAD what their rule refuses; POOLFREE frees an
unsealed block of the partition, and another block sets ERR; a QSTAT write clears HOSTDROP. A write of QCFG that clears EN stores the whole
word (notes/assumptions/24.md). -/
def Obligations.SystemRegisters : Prop :=
  (∀ (s : State) (k : Nat) (t : Thread) (g : Guard) (w64 : Bool) (r : BitVec 12) (d a : Reg),
     let rd : Instr := .mfx g w64 r d
     let wr : Instr := .mtx g w64 r a
     let v : DWord := if w64 then t.pair a else (t.r a).setWidth 64
     let part (f : Part → Part → Prop) : Prop := ∃ u, exec wr s = .next u ∧ u.thread? k = some (s.after t) ∧
       (∀ j, j ≠ k → u.thread? j = s.thread? j) ∧ f (s.part t.vf) (u.part t.vf) ∧ (∀ n, n ≠ t.vf → u.part n = s.part n) ∧
       u = { s with threads := u.threads, issue := u.issue, parts := u.parts }
     (s.issues rd k t →
       (∀ x, s.sysRead k t r.toNat = some x → s.gives rd k (if w64 then t.setPair d x else t.setReg d.toNat (loWord x))) ∧
       (s.sysRead k t r.toNat = none → exec rd s = .next (s.trap k .sysregBad 0 r.toNat))) ∧
     (∀ n x, (n, x) ∈ [(0x000, t.fstat.setWidth 64), (0x001, t.fctl.setWidth 64), (0x010, t.tr.cause.setWidth 64), (0x011, t.tr.epc),
         (0x012, t.tr.ecb), (0x013, t.tr.npc), (0x014, t.tr.ncb), (0x015, t.tr.skid.setWidth 64), (0x016, t.tr.badva),
         (0x017, t.tr.sstat.setWidth 64), (0x018, t.tr.tscr0), (0x019, t.tr.tscr1), (0x020, t.tr.logs),
         (0x100, (s.coreRegs (coreOf k)).furcfg.setWidth 64), (0x200, (s.part t.vf).tvec), (0x202, BitVec.ofNat 64 t.vf),
         (0x203, (s.part t.vf).smcmask.setWidth 64), (0x204, (s.part t.vf).ptroot), (0x205, (s.part t.vf).segtab)] →
       s.sysRead k t n = some x) ∧
     (s.issues wr k t →
       (r = 0x000 → s.gives wr k { t with fstat := loWord v &&& 0x1F }) ∧
       (r = 0x001 → s.gives wr k { t with fctl := loWord v &&& 0x1F }) ∧
       (r = 0x010 → bits (loWord v).toNat 6 0 < 0x60 → s.gives wr k { t with tr := { t.tr with cause := loWord v &&& 0xFFFF01FF } }) ∧
       (r = 0x010 → 0x60 ≤ bits (loWord v).toNat 6 0 →
         s.gives wr k { t with tr := { t.tr with cause := (loWord v &&& 0xFFFF0180) ||| (t.tr.cause &&& 0x7F) } }) ∧
       (r = 0x013 → s.gives wr k { t with tr := { t.tr with npc := v } }) ∧
       (r = 0x014 → s.gives wr k { t with tr := { t.tr with ncb := v } }) ∧
       (r = 0x017 → s.gives wr k { t with tr := { t.tr with sstat := (t.tr.sstat &&& 5) ||| (loWord v &&& 2) } }) ∧
       (r = 0x018 → s.gives wr k { t with tr := { t.tr with tscr0 := v } }) ∧
       (r = 0x019 → s.gives wr k { t with tr := { t.tr with tscr1 := v } }) ∧
       (r = 0x200 → part fun p q => q = { p with tvec := v &&& 0xFFFFFFFFFFFFFFF8 }) ∧
       (r = 0x204 → part fun p q => q = { p with ptroot := v &&& 0x00FFFFFFFFFF0000 }) ∧
       (r = 0x205 → part fun p q => q = { p with segtab := v &&& 0xFFFFFFFFFFFFFFC0 }) ∧
       (r = 0x20C → part fun p q => q = { p with qsel := loWord v &&& 0xFF }) ∧
       (r = 0x209 → part fun p q =>
         let id := v.toNat % 2 ^ 24
         let verdict := v.toNat / 2 ^ 24 % 4
         q = if 2 ≤ verdict then p
           else { p with faults := p.faults.map fun f =>
             if f.event = false ∧ f.id = id ∧ f.resp = 0 then { f with resp := verdict + 1 } else f }) ∧
       (r.toNat ∈ [0x101, 0x201] → s.gives wr k t) ∧
       (r.toNat ∈ [0x011, 0x012, 0x015, 0x016, 0x020, 0x021, 0x025, 0x030, 0x03F, 0x202, 0x203, 0x210] →
         exec wr s = .next (s.trap k .sysregBad 0 r.toNat)))) ∧
  (∀ (s : State) (k : Nat) (t : Thread) (g : Guard) (d a : Reg),
     let bad (i : Instr) (n : Nat) : Prop := exec i s = .next (s.trap k .sysregBad 0 n)
     let goes (i : Instr) (t' : Thread) (f : State → Prop) : Prop :=
       ∃ u, exec i s = .next u ∧ u.thread? k = some (s.after t') ∧ (∀ j, j ≠ k → u.thread? j = s.thread? j) ∧ u.mem = s.mem ∧ f u
     let part (f : Part → Part) : State → Prop := fun u => u.part t.vf = f (s.part t.vf) ∧ ∀ n, n ≠ t.vf → u.part n = s.part n
     (s.issues (.furcfgWrite g a) k t → goes (.furcfgWrite g a) t fun u =>
       let x := (u.coreRegs (coreOf k)).furcfg.toNat
       x % 2 ^ 13 = min (max ((t.r a).toNat % 2 ^ 13) 16) 4096 ∧ x / 2 ^ 13 = min ((t.r a).toNat / 2 ^ 13 % 16) 10 ∧
       (∀ n, n ≠ coreOf k → u.coreRegs n = s.coreRegs n)) ∧
     (s.issues (.uniformMissRead g d) k t →
       goes (.uniformMissRead g d) (t.setReg d.toNat (s.coreRegs (coreOf k)).uniformMiss) fun u =>
         (u.coreRegs (coreOf k)).uniformMiss = 0 ∧ (u.coreRegs (coreOf k)).furcfg = (s.coreRegs (coreOf k)).furcfg) ∧
     (s.issues (.haltrecRead g d) k t →
       goes (.haltrecRead g d) (t.setPair d (s.part t.vf).haltrec) (part fun p => { p with haltrec := 0 })) ∧
     (∀ c, s.issues (.trareaWrite g c a) k t →
       (s.tasksRun t.vf = true → bad (.trareaWrite g c a) (if c then 0x207 else 0x206)) ∧
       (s.tasksRun t.vf = false → goes (.trareaWrite g c a) t (part fun p =>
         if c then { p with trcount := t.r a &&& 0x00FFFFFF } else { p with trarea := t.pair a &&& 0xFFFFFFFFFFFFF000 }))) ∧
     (s.issues (.fqcfgWrite g a) k t →
       let q := s.queue ((t.pair a).toNat % 256)
       let no := (t.pair a).getLsbD 8 = true ∧ (q.vf ≠ t.vf ∨ q.ordered = true)
       (no → bad (.fqcfgWrite g a) 0x208) ∧
       (¬no → goes (.fqcfgWrite g a) t (part fun p => { p with fqcfg := t.pair a &&& 0xFFFFFFFF000001FF }))) ∧
     (s.issues (.poolfree g a) k t →
       let tag := s.poolTag (t.r a).toNat
       (NMap.wf s.pool = true → tag.owner = t.vf + 1 ∧ tag.sealed = false → goes (.poolfree g a) t fun u =>
         (u.poolTag (t.r a).toNat).owner = 0 ∧ ∀ n, n ≠ (t.r a).toNat → u.poolTag n = s.poolTag n) ∧
       (¬(tag.owner = t.vf + 1 ∧ tag.sealed = false) → goes (.poolfree g a) t fun u =>
         part (fun p => { p with poolErr := true }) u ∧ u.pool = s.pool)) ∧
     (s.issues (.poolstatRead g d) k t →
       goes (.poolstatRead g d) (t.setPair d (BitVec.ofNat 64 (s.poolUsed t.vf % 2 ^ 31 + (s.part t.vf).poolErr.toNat * 2 ^ 31 +
         (s.part t.vf).quota * 2 ^ 32))) (part fun p => { p with poolErr := false })) ∧
     (∀ n, s.selected t.vf = some n →
       let q := s.queue n
       let queue (f : Queue → Prop) : State → Prop := fun u => f (u.queue n) ∧ ∀ m, m ≠ n → u.queue m = s.queue m
       (s.issues (.qcfgrWrite g a) k t →
         let v := qcfgStored q.qcfg (t.pair a)
         let no := (q.en = true ∧ v.getLsbD 0 = true) ∨ (0 < q.holds ∧ sameShape q.qcfg v = false)
         bits v.toNat 11 8 = q.vf ∧ (no → bad (.qcfgrWrite g a) 0x20D) ∧
         (¬no → goes (.qcfgrWrite g a) t (queue fun x => x.qcfg = v ∧ x.ents = q.ents ∧ x.hostdrop = q.hostdrop ∧
           (q.en = false → v.getLsbD 0 = true → x.ep = x.prio ∧ x.pass = 0 ∧ x.cr = x.weight + 1)))) ∧
       (s.issues (.qspillrWrite g a) k t →
         let v := t.pair a &&& 0x00FFFFFFFFFF0000
         let no := q.en = true ∨ (0 < q.holds ∧ v ≠ q.qspill)
         (no → bad (.qspillrWrite g a) 0x20E) ∧
         (¬no → goes (.qspillrWrite g a) t (queue fun x => x.qspill = v ∧ x.qcfg = q.qcfg ∧ x.ents = q.ents))) ∧
       (s.issues (.qstatWrite g a) k t → goes (.qstatWrite g a) t (queue fun x =>
         x = { q with hostdrop := if (t.r a).getLsbD 0 then false else q.hostdrop }))) ∧
     (s.selected t.vf = none →
       (s.issues (.qcfgrWrite g a) k t → bad (.qcfgrWrite g a) 0x20D) ∧ (s.issues (.qspillrWrite g a) k t → bad (.qspillrWrite g a) 0x20E) ∧
       (s.issues (.qstatWrite g a) k t → bad (.qstatWrite g a) 0x20F)))

/-- R353, R351: HALT stops the thread at the HALT and raises the halt line of its partition, which latches HALTREC with SOFT, HALTED, the
thread and the code; a later event changes nothing there, and its cause stays with its agent. Its word holds the code in MOD. -/
def Obligations.HaltStops : Prop :=
  ∀ (s : State) (k : Nat) (t : Thread) (g : Guard) (code : BitVec 16),
    encode (.halt { pn := false, ps := 7 } code) = some (0xFD07000000000000 ||| code.setWidth 64) ∧
    decode 0xFD0700000000002A = .instr (.halt { pn := false, ps := 7 } 0x2A) ∧
    (s.issues (.halt g code) k t → ∃ u, exec (.halt g code) s = .next u ∧ u.thread? k = some { t with phase := .stopped } ∧
      (∀ j, j ≠ k → u.thread? j = s.thread? j) ∧ (∀ n, n ≠ t.vf → u.part n = s.part n) ∧
      (let p := { s.part t.vf with events := (k, Cause.halted.code) :: (s.part t.vf).events }
       let rec' := haltrecOf .halted true (coreOf k) (laneOf k) (slotOf k) code.toNat
       (p.line = .running → u.part t.vf = { p with line := .stopping true s.now none, stopped := [], haltrec := rec' }) ∧
       (∀ since e, p.line = .stopping false since e →
         u.part t.vf = { p with line := .stopping true since none, stopped := [], haltrec := rec' }) ∧
       (p.line = .halted ∨ (∃ since e, p.line = .stopping true since e) → u.part t.vf = p)) ∧
      u = { s with threads := u.threads, issue := u.issue, parts := u.parts })

/-- R370, R372, R385: EVICT and RESUME.THREADS. Their causes come first, and every page of the area is checked before a thread moves
(notes/assumptions/35.md). Then EVICT frees the lanes that are named, once no victim's memory reads are outstanding, and answers the threads
evicted and the lanes still short; with room on every lane it evicts nothing. A victim is an evictable thread of the crew on the lane, of the
latest filing time: FILED, or PARKED on any reason but FAULT, with no held register and no unissued signature. It leaves its slot, and its
record, with VALID 1, is what the device stores at its place of the area, and nothing else: the fields of the header stand where R385 has
them, and the registers follow.

RESUME.THREADS goes through the records of the area in order. One with VALID 1 of that core and crew is restored into a free slot of its
lane, if the lane has the blocks: the thread stands there with the registers and the state of the record, FILED or PARKED, with this cycle as
its filing time, and VALID becomes 0; else it stays and is counted. Which slot it takes, and what the machine keeps beside the record, is the
model's (notes/assumptions/35.md). -/
def Obligations.ThreadsEvictedAndRestored : Prop :=
  (∀ (s : State) (k : Nat) (t : Thread) (g : Guard) (d a b c : Reg),
    let ev : Instr := .evict g d a b c
    let rs : Instr := .resumeThreads g d a c
    let core := (t.r a).toNat % 256
    let crew := bits (t.r a).toNat 13 8
    let need := bits (t.r b).toNat 7 0
    let va := t.pair c
    s.wf = true →
    (s.issues ev k t →
      (∀ e, s.areaCause t (t.r a) (t.r b) va true = some e → exec ev s = .next (s.storeFault ev k e.1 e.2)) ∧
      (s.areaCause t (t.r a) (t.r b) va true = none →
        (∀ e, s.areaPages k t va.toNat = .error e → exec ev s = .next (s.storeFault ev k e.1 e.2)) ∧
        (∀ pages, s.areaPages k t va.toNat = .ok pages →
          let lanes := lanesOfMask core (bits (t.r b).toNat 11 8)
          ((∀ l ∈ lanes, need ≤ (s.freeBlocks core l).length) → s.gives ev k (t.setPair d 0)) ∧
          ((∀ x ∈ s.threads, x.2.evictable = true → x.2.outs = []) →
            ∃ u n short, s.evictLanes core crew need pages va.toNat lanes 0 0 = .done u n short ∧
              exec ev s = .next (u.put2 k d (pairOf (BitVec.ofNat 32 n) (BitVec.ofNat 32 short))))))) ∧
    (∀ pages lane n short v n' short', s.evictLane core crew need pages va.toNat lane 17 n short = .done v n' short' →
      v.evicted.length = s.evicted.length + (n' - n) ∧ n ≤ n' ∧
      ((short' = short ∧ need ≤ (v.freeBlocks core lane).length) ∨
        (short' = short + 1 ∧ (v.freeBlocks core lane).length < need ∧ v.victim core crew lane = none))) ∧
    (∀ lane j y, s.victim core crew lane = some (j, y) → (j, y) ∈ s.threads ∧ y.crew = crew ∧ coreOf j = core ∧ laneOf j = lane ∧
      y.held = [] ∧ y.sig = [] ∧ ((∃ f, y.phase = .filed f) ∨ ∃ w o, y.phase = .parked w o ∧ w ≠ .fault) ∧
      ∀ z ∈ s.threads, coreOf z.1 = core → laneOf z.1 = lane → z.2.crew = crew → z.2.evictable = true →
        z.2.ftime < y.ftime ∨ (z.2.ftime = y.ftime ∧ z.1 ≤ j)) ∧
    (∀ pages j y, s.thread? j = some y → y.storeq = [] →
      let u := s.evictOne j pages va.toNat
      let v := recordPlace pages va.toNat (16 * laneOf j + slotOf j) j y
      let bs := y.record ((s.part y.vf).logical (coreOf j)) (laneOf j) (slotOf j) true
      u.thread? j = none ∧ u.evicted = v :: s.evicted ∧
        s.stored u ((upTo 0 bs.length).filterMap fun i => if v.tail i then none else some (v.at i, bs.getD i 0))) ∧
    (s.issues rs k t →
      (∀ e, s.areaCause t (t.r a) 0 va false = some e → exec rs s = .next (s.storeFault rs k e.1 e.2)) ∧
      (s.areaCause t (t.r a) 0 va false = none →
        (∀ e, s.areaPages k t va.toNat = .error e → exec rs s = .next (s.storeFault rs k e.1 e.2)) ∧
        (∀ pages, s.areaPages k t va.toNat = .ok pages →
          (∃ q : Nat → State × Nat × Nat, q 0 = (s, 0, 0) ∧
            (∀ m < 2048, q (m + 1) = match (q m).1.restoreOne t.vf core crew pages va.toNat m with
              | none => q m
              | some (v, true) => (v, (q m).2.1 + 1, (q m).2.2)
              | some (v, false) => (v, (q m).2.1, (q m).2.2 + 1)) ∧
            exec rs s = .next ((q 2048).1.put2 k d (pairOf (BitVec.ofNat 32 (q 2048).2.1) (BitVec.ofNat 32 (q 2048).2.2)))) ∧
          ((∀ m < 2048, s.restoreOne t.vf core crew pages va.toNat m = none) → s.gives rs k (t.setPair d 0)))))) ∧
  (∀ (s : State) (vf core crew va m : Nat) (pages : List (Nat × Loc)), s.wf = true →
    let r := recordPlace pages va m 0 (readRecord vf []).t
    let bs := (upTo 0 1280).map (s.evictedByte r)
    let h := natOf (bs.take 256)
    let lane := bits h 134 128
    let alloc := bits h 158 154 + 1
    (∀ e ∈ s.evicted, e.t.vf = vf → e.va = r.va → e.addr = r.addr → e.addr2 = r.addr2 ∧ e.geom = r.geom ∧ e.geom2 = r.geom2) →
    ((s.restoreOne vf core crew pages va m = none ↔
      h.testBit 181 = false ∨ bits h 191 184 ≠ (s.part vf).logical core ∨ bits h 144 139 ≠ crew) ∧
     (∀ u, s.restoreOne vf core crew pages va m = some (u, false) → u = s ∧
       (s.slotFor core lane (bits h 138 135) = none ∨ s.spareBlocks core lane < alloc)) ∧
     (∀ u, s.restoreOne vf core crew pages va m = some (u, true) → ∃ slot x, s.slotFor core lane (bits h 138 135) = some slot ∧
       alloc ≤ s.spareBlocks core lane ∧ s.thread? (threadKey core lane slot) = none ∧
       u.thread? (threadKey core lane slot) = some x ∧ x.ftime = s.fileTime ∧ ((∃ f, x.phase = .filed f) ∨ ∃ w o, x.phase = .parked w o) ∧
       (h.testBit 150 = false → (∀ c ∈ s.cmds, c.issued = false) → ∃ f, x.phase = .filed f) ∧ x.vf = vf ∧ x.crew = crew ∧ x.gang = bits h 149 145 ∧
       x.pc.toNat = bits h 63 0 ∧ x.cb.toNat = bits h 127 64 ∧ x.preds.toNat = bits h 165 159 ∧ x.inTask = h.testBit 166 ∧
       (∀ i < 8, x.kcnt.getD i 0 = bits h (256 + 8 * i + 7) (256 + 8 * i)) ∧ x.fstat.toNat = bits h 324 320 ∧
       x.fctl.toNat = bits h 356 352 ∧ x.tr.sstat.toNat = bits h 386 384 ∧ x.tr.epc.toNat = bits h 511 448 ∧
       x.tr.ecb.toNat = bits h 575 512 ∧ x.tr.npc.toNat = bits h 639 576 ∧ x.tr.ncb.toNat = bits h 703 640 ∧
       x.tr.skid.toNat = bits h 735 704 ∧ x.tr.badva.toNat = bits h 831 768 ∧ x.tr.tscr0.toNat = bits h 895 832 ∧
       x.tr.tscr1.toNat = bits h 959 896 ∧
       (∀ n < 8 * alloc, x.reg n = BitVec.ofNat 32 (natOf ((bs.drop (256 + 4 * n)).take 4))) ∧
       s.stored u (if r.tail 22 then [] else [(r.at 22, bs.getD 22 0 &&& 0xDF)])))) ∧
  (∀ (t : Thread) (core lane slot : Nat), lane < 128 → slot < 16 → core < 256 → t.crew < 64 → t.gang < 32 → 1 ≤ t.alloc → t.alloc ≤ 32 →
    t.sig = [] → t.held = [] →
    let h := t.header core lane slot true
    t.record core lane slot true = bytesOf h 256 ++ bytesOfWords t.regs ∧
    (∀ f ∈ ([(63, 0, t.pc.toNat), (127, 64, t.cb.toNat), (134, 128, lane), (138, 135, slot), (144, 139, t.crew), (149, 145, t.gang),
        (158, 154, t.alloc - 1), (165, 159, t.preds.toNat), (166, 166, t.inTask.toNat), (167, 167, t.arrival.isSome.toNat), (180, 168, 0),
        (181, 181, 1), (183, 182, 0), (191, 184, core), (351, 320, t.fstat.toNat), (383, 352, t.fctl.toNat),
        (415, 384, t.tr.sstat.toNat), (447, 416, t.tr.cause.toNat), (511, 448, t.tr.epc.toNat), (575, 512, t.tr.ecb.toNat),
        (639, 576, t.tr.npc.toNat), (703, 640, t.tr.ncb.toNat), (735, 704, t.tr.skid.toNat), (767, 736, 0), (831, 768, t.tr.badva.toNat),
        (895, 832, t.tr.tscr0.toNat), (959, 896, t.tr.tscr1.toNat), (1023, 960, t.tr.logs.toNat), (1279, 1024, 0)] :
        List (Nat × Nat × Nat)), bits h f.1 f.2.1 = f.2.2) ∧
    (∀ i < 8, bits h (256 + 8 * i + 7) (256 + 8 * i) = t.kcnt.getD i 0 % 256) ∧
    ((∃ w o, t.phase = .parked w o ∧ t.passed = false) → bits h 150 150 = 1) ∧
    (∀ w o, t.phase = .parked w o → t.passed = false → (bits h 153 151, bits h 255 192) = (w.code.1, w.code.2.toNat)) ∧
    ((∀ w o, t.phase ≠ .parked w o) ∨ t.passed = true → bits h 153 150 = 0 ∧ bits h 255 192 = 0))

/-- R373 to R377, R382: QUIESCE and RESUME run outside tasks on a steward core only. STOP raises the stop line and completes once the
partition is quiesced; SAVE answers the image's length and stores an image that fits; RUN starts a quiesced partition again, its threads
that are not parked filed in this cycle, and has no effect on another, nor on one that has halted and has not been saved or rebuilt since;
LOAD loads an image or takes its cause, and SYSREG_BAD on a partition that cannot be loaded (notes/assumptions/35.md). The crew that executes
QUIESCE is left out with its core (notes/assumptions/36.md); that a halted partition runs only after a SAVE or a rebuild is the model's reading
(notes/assumptions/37.md).

R373 to R377, R382, R392, R394, R398: the host's commands to a partition, and the checkpoint. A command is taken only while the device
runs, the VF is enabled and no other is under way. STOP, RUN, SAVE and LOAD act with no crew left out, and leave their cause and length;
CHECKPOINT stops every enabled partition and is written once all have stopped: device byte p of HBM lies at the base plus p; RESTORE
reloads those bytes and stages the images (the layout and the waiting are the model's, notes/assumptions/37.md). -/
def Obligations.PartitionQuiesced : Prop :=
  (∀ (s : State) (k : Nat) (t : Thread) (g : Guard) (d a b : Reg),
     let p := s.part t.vf
     let four : List Instr := [.quiesceStop g, .quiesceSave g d a b, .resumeRun g, .resumeLoad g a]
     (∀ i ∈ four, s.issues i k t →
       (t.inTask = true → exec i s = .next (s.trap k .taskIrrevocable)) ∧
       (t.inTask = false → isSteward (coreOf k) = false → exec i s = .next (s.trap k .sysregBad))) ∧
     (t.inTask = false → isSteward (coreOf k) = true →
       (s.issues (.quiesceStop g) k t →
         (p.isQuiesced = true → s.gives (.quiesceStop g) k t) ∧
         (p.line = .running → ∃ u, exec (.quiesceStop g) s = .next u ∧ u.threads = s.threads ∧ u.issue = s.stall.issue ∧
           u.part t.vf = { p with line := .stopping false s.now (some (t.crewKey k)), stopped := [], events := [] })) ∧
       (s.issues (.quiesceSave g d a b) k t →
         let ppa := (t.pair a).toNat
         let n := (s.image t.vf p.line.excl).length
         (p.isQuiesced = false → exec (.quiesceSave g d a b) s = .next (s.trap k .sysregBad)) ∧
         (p.isQuiesced = true → ppa % 64 ≠ 0 → exec (.quiesceSave g d a b) s = .next (s.trap k .misaligned)) ∧
         (p.isQuiesced = true → ppa % 64 = 0 → s.imagePlace t.vf ppa 1 = none → exec (.quiesceSave g d a b) s = .next (s.trap k .levee)) ∧
         (p.isQuiesced = true → ppa % 64 = 0 → s.imagePlace t.vf ppa 1 ≠ none →
           ((t.pair b).toNat < n → s.gives (.quiesceSave g d a b) k (t.setPair d (BitVec.ofNat 64 n))) ∧
           (n ≤ (t.pair b).toNat → ∀ q, s.imagePlace t.vf ppa n = some q → s.mem.wf = true →
             ∃ u, exec (.quiesceSave g d a b) s = .next u ∧ u.thread? k = some (s.after (t.setPair d (BitVec.ofNat 64 n))) ∧
               s.stored u (cellsAt q.key (s.image t.vf p.line.excl)) ∧ u.part t.vf = { p with rebuild := false } ∧
               ∀ m, m ≠ t.vf → u.part m = s.part m))) ∧
       (s.issues (.resumeRun g) k t →
         (p.isQuiesced = false ∨ p.rebuild = true → s.gives (.resumeRun g) k t) ∧
         (∀ e, p.line = .quiesced e → p.rebuild = false → s.wf = true → ∃ u, exec (.resumeRun g) s = .next u ∧
           u.part t.vf = { p with line := .running, stopped := [], everRun := true, events := [] } ∧
           (∀ j y, j ≠ k → s.thread? j = some y → ∃ x, u.thread? j = some x ∧ x.pc = y.pc ∧
             (∀ w o, y.phase = .parked w o → (∃ w' o', x.phase = .parked w' o') ∨ ((∃ f, x.phase = .filed f) ∧ x.ftime = s.fileTime)) ∧
             ((j, y) ∈ s.savedThreads t.vf e → (∀ w o, y.phase ≠ .parked w o) →
               (∃ f, x.phase = .filed f) ∧ x.ftime = s.fileTime ∧ x.regs = y.regs)))) ∧
       (s.issues (.resumeLoad g a) k t →
         (∀ e, s.load t.vf (some (t.crewKey k)) (t.pair a).toNat = .error e → exec (.resumeLoad g a) s = .next (s.trap k e)) ∧
         (∀ u, s.load t.vf (some (t.crewKey k)) (t.pair a).toNat = .ok u → exec (.resumeLoad g a) s = .next (u.retire k)) ∧
         (s.loadable t.vf = false → exec (.resumeLoad g a) s = .next (s.trap k .sysregBad))))) ∧
  (∀ (s : State) (vf : BitVec 4),
     let v := vf.toNat
     (s.vfcmdOk v = false → ∀ i ∈ ([.vfcmdStop vf, .vfcmdRun vf, .vfcmdSave vf, .vfcmdLoad vf] : List Instr), exec i s = .next s) ∧
     (s.vfcmdOk v = true →
       ((s.part v).line = .quiesced none → exec (.vfcmdStop vf) s = .next (s.vfResult 0 0)) ∧
       ((s.part v).line = .running ∨ (∃ c, (s.part v).line = .quiesced (some c)) → ∃ u, exec (.vfcmdStop vf) s = .next u ∧
         u.host.vfbusy = true ∧ u.host.vfop = v ∧ (u.part v).line = .stopping false s.now none ∧ u.threads = s.threads) ∧
       (∃ u, exec (.vfcmdRun vf) s = .next u ∧ u.host.vfbusy = false ∧ u.host.vfcause = 0 ∧
         ((s.part v).isQuiesced = true → (s.part v).rebuild = false → (u.part v).line = .running) ∧
         ((s.part v).isQuiesced = false ∨ (s.part v).rebuild = true → u.part v = s.part v)) ∧
       ((s.part v).line ≠ .quiesced none → exec (.vfcmdSave vf) s = .next (s.vfResult Cause.sysregBad.code 0)) ∧
       ((s.part v).line = .quiesced none →
         (∀ e, s.save v s.host.vfimg.toNat s.host.vfimgcap.toNat = .error e → exec (.vfcmdSave vf) s = .next (s.vfResult e.code 0)) ∧
         (∀ u n, s.save v s.host.vfimg.toNat s.host.vfimgcap.toNat = .ok (u, n) → exec (.vfcmdSave vf) s = .next (u.vfResult 0 n))) ∧
       (s.host.staged.find? v = none →
         (∀ e, s.load v none s.host.vfimg.toNat = .error e → exec (.vfcmdLoad vf) s = .next (s.vfResult e.code 0)) ∧
         (∀ u, s.load v none s.host.vfimg.toNat = .ok u → exec (.vfcmdLoad vf) s = .next (u.vfResult 0 0))) ∧
       (∀ bs u, s.host.staged.find? v = some bs → s.loadImage v none bs = some u →
         ∃ w, exec (.vfcmdLoad vf) s = .next w ∧ w.threads = u.threads ∧ w.parts = u.parts ∧ w.host.vfcause = 0)) ∧
     (s.host.mode ≠ 1 ∨ s.ckBase = none → exec .checkpoint s = .next s ∧ exec .restore s = .next s) ∧
     (s.host.mode = 1 → ∀ base, s.ckBase = some base →
       (∃ u, exec .checkpoint s = .next u ∧ u.threads = s.threads ∧
         ((∃ w < 16, s.vfEnabled w = true ∧ (s.part w).stoppedNow = false) → u.host.ckbusy = true ∧
           ∀ w < 16, s.vfEnabled w = true → (s.part w).line = .running → (u.part w).line = .stopping false s.now none) ∧
         (s.mem.wf = true → s.flights = [] → (∀ w < 16, s.vfEnabled w = false) → u.host.ckbusy = false ∧
           (∀ p < 384 * gib, u.mem.read (base + p) = s.mem.read p ∧ u.mem.read p = s.mem.read p))) ∧
       (s.mem.wf = true → s.flights = [] → ∃ u, exec .restore s = .next u ∧ u.threads = s.threads ∧
         (∀ p < 384 * gib, u.mem.read p = s.mem.read (base + p)) ∧ (∀ p, 384 * gib ≤ p → u.mem.read p = s.mem.read p))))

/-- R356, R397: SMCALL reads the block when it issues, leaves the call with the SMC and does not wait; its causes come in order. The
SMC's reply takes the call, and a valid power limit is stored, a LOGPUT joins the log, with bytes 8 to 55 of its block
(notes/assumptions/34.md). The reply stands in the block: STATUS in bytes 0 to 3, 0 for a call that is answered and 1 for a bad argument, and
from byte 8 the fourteen words of a sensor group or the 48 bytes of a log record; then the signal's VALUE goes down by 1, and one that becomes
0 with EN set notifies the host. The reply is said for a block and a signal of one page, with no other store on its way. -/
def Obligations.ManagementCalls : Prop :=
  (∀ (s : State) (k : Nat) (t : Thread) (g : Guard) (a c : Reg) (i : Instr) (fn : Nat),
    (i, fn) ∈ [((.smcallSensor g a c : Instr), 0), (.smcallLogput g a c, 1), (.smcallLogget g a c, 2), (.smcallQuote g a c, 3),
      (.smcallPowercap g a c, 4)] → s.issues i k t →
    let va := t.pair a
    let sig := t.pair c
    (va.toNat % 64 ≠ 0 → exec i s = .next (s.trap k .misaligned va)) ∧
    (va.toNat % 64 = 0 → sig.toNat % 16 ≠ 0 → exec i s = .next (s.trap k .misaligned sig)) ∧
    (va.toNat % 64 = 0 → sig.toNat % 16 = 0 →
      ((s.part t.vf).smcmask.getLsbD fn = false → exec i s = .next (s.trap k .smcDenied)) ∧
      ((s.part t.vf).smcmask.getLsbD fn = true → t.inTask = true → exec i s = .next (s.trap k .taskIrrevocable)) ∧
      ((s.part t.vf).smcmask.getLsbD fn = true → t.inTask = false → va.toNat < 2 ^ 56 → sig.toNat < 2 ^ 56 → ∀ l m,
        s.access (coreOf k) t.vf (tlbPort k) va.toNat .write = .ok l → s.access (coreOf k) t.vf (tlbPort k) sig.toNat .write = .ok m →
        ∃ u, exec i s = .next u ∧ u.thread? k = some (s.after t) ∧ (∀ j, j ≠ k → u.thread? j = s.thread? j) ∧
          u.smc.calls = s.smc.calls ++ [{ id := s.smc.nextCall, fn := fn, vf := t.vf, va := va, sig := sig
                                          block := s.threadRead k t l va.toNat 64 }] ∧
          u = { s with threads := u.threads, issue := u.issue, tlb := u.tlb, smc := u.smc }))) ∧
  (∀ (s : State) (id : Nat) (c : SmcCall), s.who = [id] → (s.smc.calls.find? fun x => x.id == id) = some c →
    ∃ u, exec .smcReply s = .next u ∧ u.smc.calls = (s.smc.calls.filter fun x => x.id != id) ∧
      (c.fn = 1 → u.smc.log.getLast? = some (s.now, logSoftware, 0, slice c.block 8 48)) ∧
      (c.fn = 4 → 600 ≤ fieldAt c.block 4 4 → fieldAt c.block 4 4 ≤ 2400 → u.smc.powercap = fieldAt c.block 4 4) ∧
      (c.fn = 4 → ¬(600 ≤ fieldAt c.block 4 4 ∧ fieldAt c.block 4 4 ≤ 2400) → u.smc.powercap = s.smc.powercap) ∧
      (let arg := fieldAt c.block 4 4
       let va := c.va.toNat
       let sig := c.sig.toNat
       let reply : Nat × List Byte := match c.fn with
         | 0 => if arg < 4 then (0, bytesOfWords ((upTo 0 14).map fun i => Config.sensor arg (s.smc.sensorReads + i))) else (1, [])
         | 1 => (0, [])
         | 2 => (match s.smc.log[arg]? with | some r => (0, logBytes r) | none => (1, []))
         | _ => if 600 ≤ arg ∧ arg ≤ 2400 then (0, []) else (1, [])
       ∀ l l8 m, c.fn ≠ 3 → reply.2.length ≤ 56 → va % 64 = 0 → sig % 16 = 0 → va < 2 ^ 56 → sig / 65536 = va / 65536 →
         s.access agHeadgate c.vf hubCore va .write = .ok l → s.access agHeadgate c.vf hubCore (va + 8) .write = .ok l8 →
         l8.key = l.key + 8 → s.access agHeadgate c.vf hubCore sig .write = .ok m → (∀ i < 64, inTail l (va + i) = false) →
         inTail m sig = false → m.key + 16 ≤ l.key ∨ l.key + 64 ≤ m.key → s.mem.wf = true → s.flights = [] →
         let old := BitVec.ofNat 64 (natOf ((upTo 0 8).map fun i => s.mem.read (m.key + i)))
         let word := natOf ((upTo 0 8).map fun i => s.mem.read (m.key + 8 + i))
         s.stored u (cellsAt l.key (bytesOf reply.1 4) ++ cellsAt (l.key + 8) reply.2 ++ cellsAt m.key (bytesOf (old - 1).toNat 8)) ∧
         (old = 1 → word.testBit 63 = true → bits word 10 0 < s.vectors c.vf → (c.vf, bits word 10 0) ∈ u.host.msix)))

/-- R366, R367: the fault service. FRESP_RESOLVE lets every log entry that holds the id replay and frees the id; FRESP_DECLINE frees it
too; without the written response neither changes anything. FAULT_REPORT pushes the oldest unreported entry to the fault queue.
QUOTA_RECHECK lets the first parked allocation replay once it fits.

R351, R352, R357, R374, R392: the stop of a partition. AGENT_STOP stops an agent that can stop: an active thread is filed where it
stands, with its stores performed; a unit's commands keep their slack. The last one quiesces the partition, or halts it, which the error
vector reports, and the last partition to stop lets a checkpoint be written. An agent past its bound, whose record keeps the cause, a
command without progress in 2^24 cycles, and a thread that is privileged for 2^32 cycles raise their causes. That any privileged thread
meets the watchdog and the order in which parked allocations wait are the model's (notes/assumptions/38.md), and so is that a command that
waits behind another has no bound of its own (notes/assumptions/28.md). -/
def Obligations.FaultsAndStops : Prop :=
  (∀ (s : State) (vf : Nat) (fid : BitVec 24),
     (s.answered vf fid.toNat 1 = false → exec (.frespResolve vf fid) s = .next s) ∧
     (s.answered vf fid.toNat 2 = false → exec (.frespDecline vf fid) s = .next s) ∧
     (s.answered vf fid.toNat 1 = true → ∃ u, exec (.frespResolve vf fid) s = .next u ∧
       (∀ f ∈ (u.part vf).faults, f.event = true ∨ f.id ≠ fid.toNat) ∧ u.mem = s.mem ∧
       ∀ j y, s.thread? j = some y → ∃ x, u.thread? j = some x ∧ x.regs = y.regs ∧ x.pc = y.pc ∧ x.phase = y.phase ∧
         (y.vf ≠ vf → x = y) ∧
         (y.vf = vf → x.log = y.log.map fun e => if e.fid = fid.toNat ∧ e.verdict = 0 then { e with verdict := 1 } else e)) ∧
     (s.answered vf fid.toNat 2 = true → ∃ u, exec (.frespDecline vf fid) s = .next u ∧
       ∀ f ∈ (u.part vf).faults, f.event = true ∨ f.id ≠ fid.toNat) ∧
     (∀ f, s.who = [vf] → ((s.part vf).faults.find? fun f => !f.pushed) = some f → s.fqRoom vf = true → s.lineDown vf = true →
       (s.part vf).fentry ≠ 0 → f.user < 256 →
       ∃ u, exec .faultReport s = .next u ∧ (u.part vf).faults = markPushed (s.part vf).faults ∧ u.threads = s.threads ∧ u.mem = s.mem ∧
         (u.queue (s.part vf).fq).ents = (s.queue (s.part vf).fq).ents ++
           [(f.entry (s.part vf).fentry, (s.queue (s.part vf).fq).seq)]) ∧
     (∀ w ws, s.who = [vf] → s.quotaWaits vf = w :: ws → s.quotaFits vf w.need = true → s.lineDown vf = true → w.isCmd = false →
       ∃ u, exec .quotaRecheck s = .next u ∧ (∀ j, j ≠ w.key → u.thread? j = s.thread? j) ∧ u.pool = s.pool ∧
         ∀ y, s.thread? w.key = some y → u.thread? w.key = some { y with log := answerEntries w.fid 1 y.log })) ∧
  (∀ (s : State) (vf a : Nat),
     let p := s.part vf
     (∀ h since e, s.who = [vf, a] → p.line = .stopping h since e → (s.agents vf).contains a = true → p.stopped.contains a = false →
       (s.canStop a = true →
         (400000 ≤ a → a < 500000 → exec .agentStop s = .next (s.modPart vf fun q => { q with stopped := a :: q.stopped })) ∧
         (500000 ≤ a → (∀ c ∈ s.cmds, c.vf = vf → agentUnit c.unit.code = a → c.ahead = []) →
           ∃ u, exec .agentStop s = .next u ∧ u.part vf = { p with stopped := a :: p.stopped } ∧
             u.cmds.map (·.slack) = (s.cmds.map fun c =>
               if c.vf = vf ∧ leftOut e c.crew = false ∧ agentUnit c.unit.code = a then c.slackAt s.now else c.slack) ∧
             u = { s with parts := u.parts, cmds := u.cmds }) ∧
         (∀ t, a < 400000 → s.thread? a = some t → t.waiting = false → ∃ u x, exec .agentStop s = .next u ∧ u.thread? a = some x ∧
           x.regs = t.regs ∧ x.pc = t.pc ∧ x.storeq = [] ∧ (t.phase = .active → ∃ f, x.phase = .filed f) ∧
           (t.phase ≠ .active → x.phase = t.phase) ∧ (u.part vf).stopped = a :: p.stopped ∧ (u.part vf).line = p.line ∧
           s.othersFiled u a)) ∧
       (since + s.stopBound a < s.now → ∃ u, exec .quiesceTimeout s = .next u ∧ u.fenced = unitOfAgent a ++ s.fenced ∧
         a ∈ (u.part vf).stopped ∧ (a, Cause.quiesceTimeout.code) ∈ (u.part vf).events ∧ u.threads = s.threads ∧
         (h = true → (u.part vf).haltrec = p.haltrec) ∧
         (h = false → (u.part vf).line = .stopping true since none ∧ (u.part vf).haltrec.toNat % 128 = Cause.quiesceTimeout.code))) ∧
     (∀ since e, s.who = [vf] → p.line = .stopping true since e → s.allStopped vf = true → s.host.ckbusy = false →
       ∃ u, exec .partitionHalted s = .next u ∧ u.threads = s.threads ∧
         u.part vf = { p with line := .halted, rebuild := true, errs := (bits p.haltrec.toNat 6 0, 0) :: p.errs } ∧
         u.host.vfbusy = (s.host.vfbusy && s.host.vfop != vf) ∧
         u.host.msix = (if s.vectors vf = 0 then s.host.msix else (vf, 0) :: s.host.msix)) ∧
     (∀ since e, s.who = [vf] → p.line = .stopping false since e → s.allStopped vf = true → s.host.ckbusy = false →
       ∃ u, exec .partitionQuiesced s = .next u ∧ u.part vf = { p with line := .quiesced e } ∧ u.threads = s.threads ∧
         (e = none → u.host.vfbusy = (s.host.vfbusy && s.host.vfop != vf)) ∧ (e ≠ none → u.host = s.host)) ∧
     (∀ since h base, s.who = [vf] → p.line = .stopping h since none → s.allStopped vf = true → s.host.ckbusy = true →
       s.ckBase = some base → s.mem.wf = true → s.flights = [] → (∀ w < 16, w ≠ vf → s.vfEnabled w = true → (s.part w).stoppedNow = true) →
       ∃ u, exec (if h then .partitionHalted else .partitionQuiesced) s = .next u ∧ u.host.ckbusy = false ∧
         ∀ q < 384 * gib, u.mem.read (base + q) = s.mem.read q ∧ u.mem.read q = s.mem.read q) ∧
     (∀ c, s.who = [a] → s.cmd? a = some c → c.moved + 2 ^ 24 ≤ s.now → c.fault = none → s.mayRun c.vf c.crew = true → s.behind c = false →
       (s.part c.vf).line = .running → ∃ u, exec .engineTimeout s = .next u ∧ u.threads = s.threads ∧
         (u.part c.vf).line = .stopping true s.now none ∧ (u.part c.vf).haltrec.toNat % 128 = Cause.engineTimeout.code) ∧
     (∀ t, s.who = [a] → s.thread? a = some t → t.priv = true → t.privSince + 2 ^ 32 ≤ s.now → s.mayRun t.vf (t.crewKey a) = true →
       exec .watchdog s = .next ((s.unbundle [a]).trap a .watchdog)))

/-- R6, R76, R358, R368, R379, R381, R394, R396: writes of the registers of PF BAR0. HGCFG stores 1 for 0; POOLCFG, VECCFG and VECCFG2
are written only while VFEN is 0; VFEN enables a VF only in MODE 1 and never beside one it clashes with; a partition descriptor is
written while its partition is idle, that of an enabled VF only if it then clashes with no other, QUOTA at any time; a read of DLOGDATA answers and clears a word and goes on. An absent register
keeps the machine as it is. The places of a queue's PART and of SMCMASK are the model's (notes/assumptions/12.md), and so are that
POOLCFG frees every block, that PART stays while the queue holds entries, that a VF whose threads or commands are still there counts among
those a descriptor may not clash with, and that PDESC of an enabled VF is checked (notes/assumptions/33.md).

R56, R114, R380, R393, R395, R396: what the host and the peers do to memory and queues. A host write through VF BAR2 stores its bytes, its
AtomicOps FetchAdd, Swap and CAS answer the old value (how a step says which is the model's, notes/assumptions/12.md), a write to sealed
memory is discarded whole (notes/assumptions/39.md) and reported; a push of 32 bytes to a queue of the VF joins it with DEPTH 0 and no parent, and
any other push is discarded and reported, with no mark on a queue of another partition; a peer's store and atomic are performed where the
levee allows; an access of a thread that the host or a peer ends takes its imprecise cause, a command's ends the command; a lost port
ends what it carries. -/
def Obligations.HostAccess : Prop :=
  (∀ (s : State) (offset vf : Nat) (val : DWord) (x : Word) (word : BitVec 2) (high : Bool),
     (∃ u, exec (.hgcfgWrite x) s = .next u ∧ u.hg.hgcfg = (if x &&& 0xFFFF = 0 then 1 else x &&& 0xFFFF) ∧ u = { s with hg := u.hg } ∧
       u.hg.ptr = s.hg.ptr) ∧
     (s.host.vfen ≠ 0 → exec (.poolcfgWrite val) s = .next s ∧ exec (.veccfgWrite high val) s = .next s) ∧
     (s.host.vfen = 0 →
       exec (.poolcfgWrite val) s = .next { s with host := { s.host with poolcfg := val &&& 0xFFFFFF1FFFFFFFFF }, pool := [] } ∧
       exec (.veccfgWrite high val) s = .next { s with host :=
         { s.host with veccfg := if high then s.host.veccfg else val, veccfg2 := if high then val else s.host.veccfg2 } }) ∧
     (s.host.mode ≠ 1 → exec (.vfenWrite x) s = .next s) ∧
     (s.host.mode = 1 → ∃ u, exec (.vfenWrite x) s = .next u ∧
       (∀ v < 16, u.vfEnabled v = true → x.getLsbD v = true) ∧
       (∀ v < 16, s.vfEnabled v = true → x.getLsbD v = true → u.vfEnabled v = true) ∧
       (∀ v < 16, s.vfEnabled v = false → u.vfEnabled v = true → (s.part v).hbase + (s.part v).hsize ≤ 384 ∧
         (s.part v).cbase + (s.part v).csize ≤ 3072 ∧ (u.part v).dirty = [] ∧
         ∀ w < 16, w ≠ v → (s.vfEnabled w = true ∧ x.getLsbD w = true) ∨ s.occupied w = true → (s.part v).clash (s.part w) = false) ∧
       (∀ v < 16, x.toNat = 2 ^ v → s.mayEnable [] v = true → u.vfEnabled v = true) ∧
       u = { s with host := { s.host with vfen := u.host.vfen }, parts := u.parts }) ∧
     (16 ≤ vf → exec (.pdescWrite vf word val) s = .next s) ∧
     (let written (u : State) : Prop := u.part vf = { s.part vf with desc := (u.part vf).desc } ∧
       bits (u.part vf).desc.toNat (64 * word.toNat + 63) (64 * word.toNat) = (val &&& pdescBits word.toNat).toNat ∧
       (∀ n < 4, n ≠ word.toNat → bits (u.part vf).desc.toNat (64 * n + 63) (64 * n) = bits (s.part vf).desc.toNat (64 * n + 63) (64 * n)) ∧
       (∀ n, n ≠ vf → u.part n = s.part n) ∧ u = { s with parts := u.parts }
      (vf < 16 → (s.part vf).idle = true → s.vfEnabled vf = false → s.occupied vf = false →
        ∃ u, exec (.pdescWrite vf word val) s = .next u ∧ written u) ∧
      (vf < 16 → (s.part vf).idle = true → s.vfEnabled vf = true ∨ s.occupied vf = true → exec (.pdescWrite vf word val) s = .next s ∨
        ∃ u, exec (.pdescWrite vf word val) s = .next u ∧ written u ∧ (u.part vf).hbase + (u.part vf).hsize ≤ 384 ∧
          (u.part vf).cbase + (u.part vf).csize ≤ 3072 ∧ (∀ k t, (k, t) ∈ s.threads → t.vf = vf → (u.part vf).hasCore (coreOf k) = true) ∧
          ∀ w < 16, w ≠ vf → s.vfEnabled w = true ∨ s.occupied w = true → (u.part vf).clash (u.part w) = false)) ∧
     (vf < 16 → (s.part vf).idle = false → (word ≠ 2 → exec (.pdescWrite vf word val) s = .next s) ∧
       (word = 2 → ∃ u, exec (.pdescWrite vf word val) s = .next u ∧ (u.part vf).quota = val.toNat % 2 ^ 32 ∧
         (u.part vf).rstride = (s.part vf).rstride ∧ (u.part vf).hbase = (s.part vf).hbase ∧ (u.part vf).quads = (s.part vf).quads)) ∧
     (exec (.registerWrite 0x58 val) s = .next { s with host := { s.host with vfimg := val } }) ∧
     (exec (.registerWrite 0x60 val) s = .next { s with host := { s.host with vfimgcap := val } }) ∧
     (exec (.registerWrite 0x20 val) s = .next { s with host := { s.host with ckcfg := val.setWidth 32 &&& 0xFFF } }) ∧
     (exec (.registerWrite 0x68 val) s = .next { s with host := { s.host with dlogsel := val &&& ~~~(0xF0#64) } }) ∧
     (∀ q < 256, exec (.registerWrite (0x2000 + 4 * q) val) s = .next (if (s.queue q).en = true ∨ (s.queue q).holds ≠ 0 then s
       else s.modQueue q fun x => { x with qcfg := putPart x.qcfg val.toNat })) ∧
     (∀ v < 16, exec (.registerWrite (0x3000 + 4 * v) val) s = .next (s.modPart v fun p => { p with smcmask := loWord val })) ∧
     (∀ v < 16, ∀ w < 64, let n := 64 * v + w
       (∃ u, exec (.registerWrite (0x10000 + 16 * n) val) s = .next u ∧
         u.host.pwin.getD n 0 = (s.host.pwin.getD n 0 >>> 64).setWidth 64 ++ (val &&& 0xFFFFFFFF01FFFFFF)) ∧
       (∃ u, exec (.registerWrite (0x10000 + 16 * n + 8) val) s = .next u ∧
         u.host.pwin.getD n 0 = (val &&& 0x00FFFFFFFFFFFFFF) ++ (s.host.pwin.getD n 0).setWidth 64)) ∧
     (offset ∉ [0x20, 0x58, 0x60, 0x68] → ¬(0x2000 ≤ offset ∧ offset < 0x2400) → ¬(0x3000 ≤ offset ∧ offset < 0x3040) →
       ¬(0x10000 ≤ offset ∧ offset < 0x14000) → exec (.registerWrite offset val) s = .next s) ∧
     (∃ u, exec .dlogdataRead s = .next u ∧
       let v := s.host.dlogsel.toNat % 16
       let w := bits s.host.dlogsel.toNat 63 8
       (u.host.reads = (if ceilDiv (s.dirtyBits v) 64 ≤ w then 0 else s.dirtyWord v w) :: s.host.reads) ∧
       u.host.dlogsel.toNat = v + (w + 1) % 2 ^ 56 * 256 ∧ (∀ b ∈ (u.part v).dirty, b / 64 ≠ w) ∧ u.mem = s.mem)) ∧
  (∀ (s : State) (vf : Nat) (off : DWord) (data : List (BitVec 8)) (addr data2 : DWord) (op : AtomOp) (w64 : Bool) (th : Nat)
     (port : BitVec 4),
     let key := (s.part vf).hbase * gib + off.toNat
     (vf < 16 → s.vfEnabled vf = true → off.toNat + s.hostBytes data ≤ (s.part vf).hsize * gib →
       ((∃ a, key ≤ a ∧ a < key + s.hostBytes data ∧ s.sealedPhys vf a = true) →
         exec (.hostWrite vf off data) s = .next (s.errVector vf Cause.sealed.code off)) ∧
       ((∀ a, key ≤ a → a < key + s.hostBytes data → s.sealedPhys vf a = false) → s.mem.wf = true →
         (s.who = [] → ∃ u, exec (.hostWrite vf off data) s = .next u ∧ s.stored u (cellsAt key data) ∧ u.threads = s.threads) ∧
         (∀ n, n = 4 ∨ n = 8 → key % n = 0 →
           let old := natOf (s.readAtom agHost (maskDev ||| 2 ^ agHost) key n)
           let x := natOf (data.drop (data.length - n))
           (∀ m, (m = 1 ∨ m = 2) → s.who = [m] → data.length = n → ∃ u, exec (.hostWrite vf off data) s = .next u ∧
             u.host.reads = BitVec.ofNat 64 old :: s.host.reads ∧ s.stored u (cellsAt key (bytesOf (if m = 1 then old + x else x) n))) ∧
           (s.who = [3] → data.length = 2 * n → ∃ u, exec (.hostWrite vf off data) s = .next u ∧
             u.host.reads = BitVec.ofNat 64 old :: s.host.reads ∧
             s.stored u (if old = natOf (data.take n) then cellsAt key (bytesOf x n) else []))))) ∧
     (s.vfEnabled vf = false → exec (.hostWrite vf off data) s = .next s ∧ exec (.hostPush vf off.toNat data) s = .next s ∧
       exec (.peerRequest vf addr 1 op w64 data data2) s = .next s) ∧
     (∀ q, q < 256 → vf < 16 → s.vfEnabled vf = true →
       ((s.queue q).vf ≠ vf ∨ data.length ≠ 32 ∨ s.pushAllowed vf q = false →
         exec (.hostPush vf (32 * q) data) s = .next (s.dropPush vf q)) ∧
       ((s.queue q).vf ≠ vf → ∀ n, (s.dropPush vf q).queue n = s.queue n) ∧
       ((s.queue q).vf = vf → ((s.dropPush vf q).queue q).hostdrop = true) ∧
       ((s.queue q).vf = vf → data.length = 32 → s.pushAllowed vf q = true → (s.queue q).spcnt = 0 → (s.queue q).ents.length < 64 →
         let e := (Entry.ofWords (wordsOf data)).pushedBy 0 0xFFFFFFFF
         (s.queue q).rejects e true = false → ∃ u, exec (.hostPush vf (32 * q) data) s = .next u ∧
           (u.queue q).ents = (s.queue q).ents ++ [(e, (s.queue q).seq)] ∧ (∀ n, n ≠ q → u.queue n = s.queue n) ∧
           u.threads = s.threads)) ∧
     (vf < 16 → s.vfEnabled vf = true → ∀ p : Place, s.place vf addr.toNat = .ok p → p.tgt < 3 → s.mem.wf = true →
       (s.peerSealed vf p data.length = false → ∃ u, exec (.peerRequest vf addr 1 op w64 data data2) s = .next u ∧
         s.stored u (cellsAt p.key data)) ∧
       (s.peerSealed vf p data.length = true →
         exec (.peerRequest vf addr 1 op w64 data data2) s = .next (s.errVector vf Cause.sealed.code addr)) ∧
       (let n := if w64 then 8 else 4
        let old := natOf (s.readAtom agPeer (maskDev ||| 2 ^ agPeer) p.key n)
        s.peerSealed vf p n = false → op ≠ .cas → ∃ u, exec (.peerRequest vf addr 2 op w64 data data2) s = .next u ∧
         u.host.reads = BitVec.ofNat 64 old :: s.host.reads ∧
         s.stored u (cellsAt p.key (bytesOf (atomNew op (8 * n) old (natOf data) data2.toNat) n)))) ∧
     (∀ e, s.place vf addr.toNat = .error e → exec (.peerRequest vf addr 1 op w64 data data2) s = .next s) ∧
     (s.who = [] → ∀ t o, s.thread? th = some t → (∀ x ∈ t.outs, x = o → t.outs.count x = 1) →
       let ends (c : Cause) : State := s.setThread th
         { { t with outs := t.outs.filter fun x => !(x == o) }.addImp c o.pc o.cb o.va o.at_ with unret := o.at_ :: t.unret }
       (∀ iommu, (t.outs.find? fun o => o.target == 1) = some o →
         exec (.hostAbort th iommu) s = .next (ends (if iommu then .iommuFault else .hostAbort))) ∧
       ((t.outs.find? fun o => o.target == 2) = some o → exec (.peerFail th) s = .next (ends .peerFail))) ∧
     (∀ id c, s.who = [id] → s.cmd? id = some c →
       let outer (tgt : Nat) : Option Nat := s.cmdOuter c tgt fun _ _ => true
       (∀ iommu, (outer 3 = none → exec (.hostAbort th iommu) s = .next s) ∧ ∀ va, outer 3 = some va →
         exec (.hostAbort th iommu) s = .next (s.failCmd c (if iommu then .iommuFault else .hostAbort) va)) ∧
       (outer 4 = none → exec (.peerFail th) s = .next s) ∧
       (∀ va, outer 4 = some va → exec (.peerFail th) s = .next (s.failCmd c .peerFail va)) ∧
       ∃ u, exec (.linkDown port) s = .next u ∧ u.host.portsDown = s.host.portsDown ||| (1#12 <<< port.toNat)) ∧
     (s.who = [] → ∃ u, exec (.linkDown port) s = .next u ∧ u.host.portsDown = s.host.portsDown ||| (1#12 <<< port.toNat) ∧ u.mem = s.mem ∧
       ∀ j y, s.thread? j = some y → ∃ x, u.thread? j = some x ∧
         x.outs = (y.outs.filter fun o => !(o.target == 2 && o.port == port.toNat)) ∧
         x = { y with outs := x.outs, imps := x.imps, unret := x.unret } ∧
         ∀ o ∈ y.outs, o.target = 2 → o.port = port.toNat → ∃ i ∈ x.imps, i.cause = .linkDown ∧ i.pc = o.pc ∧ i.va = o.va))

/-- R354, R397 to R399: start-up, errors and the management controller. A reset leaves the reset state but for what is kept: CKCFG, FAILS,
the log, the firmware slots, host and peer memory, and after a warm reset Cistern; a start that fails counts, and at FAILS = 3 the next one
runs in MODE 2. A transient error is logged; a lasting one fences its unit, and one of a storage goes to its reader. A firmware image that passes its check is active at the next
start. The coolant out of range raises MACHINE_CHECK in every enabled partition and holds the cores. What a cold reset keeps, that the hold is on
every core, and who the reader of a storage's error is are the model's (notes/assumptions/40.md); how a step names it 12.md. -/
def Obligations.StartUpAndErrors : Prop :=
  ∀ (s : State) (failed : BitVec 3),
    (∀ i ∈ ([.coldReset failed, .warmReset failed] : List Instr),
      ∃ u, exec i s = .next u ∧ u.threads = [] ∧ u.crews = [] ∧ u.queues = [] ∧ u.parts = [] ∧ u.host.vfen = 0 ∧ u.now = 0 ∧
        u.fenced = [] ∧ u.scratch = [] ∧ u.host.ckcfg = s.host.ckcfg ∧ u.smc.slots = s.smc.slots ∧
        u.smc.powercap = Config.powerLimit ∧
        (s.host.fails < 3 → s.smc.bootSlot ≠ none → failed = 0 → u.host.mode = 1 ∧ u.host.fails = 0 ∧ u.host.reason = 0) ∧
        (s.host.fails < 3 → failed ≠ 0 → s.smc.bootSlot ≠ none →
          u.host.mode = 0 ∧ u.host.fails = s.host.fails + 1 ∧ u.host.reason = failed.toNat) ∧
        (s.host.fails < 3 → s.smc.bootSlot = none → u.host.mode = 0 ∧ u.host.fails = s.host.fails + 1 ∧ u.host.reason = 1) ∧
        (3 ≤ s.host.fails → u.host.mode = 2 ∧ u.host.reason = s.host.reason) ∧
        (s.mem.wf = true → s.flights = [] → ∀ p, u.mem.read p =
          if 2 ^ 60 ≤ p ∨ (i = .warmReset failed ∧ cisternBase ≤ p ∧ p < cisternBase + 3072 * gib) then s.mem.read p else 0)) ∧
    (∀ unit vf th, (∀ c, unitCause unit = some c →
        exec (.softError unit false vf th) s = .next (s.logRecord logTransient unit []) ∧
        (c ≠ .siphonCheck → (s.part vf).line = .running → ∃ u, exec (.softError unit true vf th) s = .next u ∧
          u.fenced = unit :: s.fenced ∧ (u.part vf).line = .stopping true s.now none ∧ (u.part vf).haltrec.toNat % 128 = c.code ∧
          u.smc.log.getLast? = some (s.now, logLasting, unit, []) ∧ u.threads = s.threads)) ∧
      (∀ c t, unitCause unit = none → storageCause unit = some c →
        exec (.softError unit false vf th) s = .next (s.logRecord logTransient unit []) ∧
        (c.fatal = false → s.who = [] → s.thread? th = some t → ∃ u, exec (.softError unit true vf th) s = .next u ∧
          u.smc.log.getLast? = some (s.now, logLasting, unit, []) ∧ (∀ j, j ≠ th → u.thread? j = s.thread? j) ∧
          u.fenced = (if datapath c then datapathUnit c (coreOf th) :: s.fenced else s.fenced) ∧
          (t.outs.find? Outst.ofDevice = none → u.thread? th = some (t.addImp c t.pc t.cb t.pc t.issued)) ∧
          (∀ o, t.outs.find? Outst.ofDevice = some o → (∀ x ∈ t.outs, x = o → t.outs.count x = 1) → u.thread? th = some
            { { t with outs := t.outs.filter fun x => !(x == o) }.addImp c o.pc o.cb o.va o.at_ with unret := o.at_ :: t.unret })) ∧
        (c.fatal = false → s.who = [] → s.thread? th = none → ∃ u, exec (.softError unit true vf th) s = .next u ∧
          (u.part vf).errs = (c.code, 0) :: (s.part vf).errs ∧ u.threads = s.threads) ∧
        (∀ id x, c.fatal = false → s.who = [id] → s.cmd? id = some x → datapath c = false → exec (.softError unit true vf th) s = .next
          ((s.logRecord logLasting unit []).failCmd x c ((((s.touches x).find? fun y => !y.write).map (·.va)).getD 0))) ∧
        (c.fatal = true → s.thread? th = some t → t.inTrap = false → (s.part t.vf).line = .running →
          ∃ u, exec (.softError unit true vf th) s = .next u ∧ (u.part t.vf).line = .stopping true s.now none ∧
            (u.part t.vf).haltrec.toNat % 128 = c.code ∧ u.smc.log.getLast? = some (s.now, logLasting, unit, [])))) ∧
    (∀ valid image, s.smc.slots.length = 2 → s.smc.active < 2 → ∃ u, exec (.firmwareUpdate valid image) s = .next u ∧
      u.smc.slots[1 - s.smc.active]? = some (valid, image) ∧ u.smc.slots[s.smc.active]? = s.smc.slots[s.smc.active]? ∧
      u.smc.active = (if valid then 1 - s.smc.active else s.smc.active) ∧ u = { s with smc := u.smc }) ∧
    (∀ f msg, ∃ u bs, exec (.spdmRequest f msg) s = .next u ∧ u.smc.doe = s.smc.doe ++ [(f, bs)] ∧ u = { s with smc := u.smc }) ∧
    (∀ n, exec (.powerLimitThrottle n) s = .next { s with smc := { s.smc with clockSteps := s.smc.clockSteps + n } }) ∧
    (∃ u, exec .coolantOutOfRange s = .next u ∧ u.threads = s.threads ∧ (∀ v ck, u.mayRun v ck = false) ∧ ∀ v < 16,
      (s.vfEnabled v = false → u.part v = s.part v) ∧
      (s.vfEnabled v = true → (s.part v).line = .running →
        (u.part v).line = .stopping true s.now none ∧ (u.part v).haltrec.toNat % 128 = Cause.machineCheck.code))

/-- R22, R34, R42, R57, R105, R251, R320, R344: CREW_LAUNCH. A launch that fits (`launchOk`, and a slot and blocks on every lane) makes the
crew: a thread on each lane of each gang's lane group, at the entry, with `.regs` budgets of registers that read 0; the TCONV armed for the
whole crew; its rows READY and zero. One that does not fit changes nothing (notes/assumptions/43.md). The registers' zeros and the READY rows
are the model's choice (notes/assumptions/5.md).

R360: for a crew that there is already, CREW_LAUNCH is the rebuild of its allocation, in a stopped partition only: a crew that is not idle,
or takes rows of an ended crew that is not, is refused with IMAGE_BAD; an idle one whose threads stand in eviction areas gets the run, READY and zero, and GEN rises. That CREW_LAUNCH is
the operation, and that the error vector gets the cause, is the model's choice (notes/assumptions/46.md). -/
def Obligations.CrewLaunched : Prop :=
  ∀ (s : State) (vf core crew : Nat) (d : KernelDesc),
    let ck := core * 64 + crew
    let pc := d.codeBase + BitVec.ofNat 64 (8 * d.entry.toNat)
    let priv := isSteward core && (s.part vf).spriv.testBit (core - 128)
    let run : Instr := .crewLaunch vf core crew d
    let clear (u : State) (cr : Crew) : Prop := ∀ n < cr.rows * 2048, u.scratch.read (crewAddr core cr 0 + n) = 0 ∧
      u.sector ((crewAddr core cr 0 + n) / 32) = .ready
    (s.crew? ck = none → s.launchOk vf core crew d = false → exec run s = .next s) ∧
    (s.crew? ck = none → s.launchThreads vf core crew pc d.regs priv (kernelPlaces d core) = none → exec run s = .next s) ∧
    (s.crew? ck = none → (∃ k ∈ s.endedHolders ck d.baseRow (kernelRows d), s.crewIdle k = false) → exec run s = .next s) ∧
    (s.launchOk vf core crew d = true → s.wf = true → (∀ k ∈ s.endedHolders ck d.baseRow (kernelRows d), s.crewIdle k = true) → ∀ s1 ks,
      s.launchThreads vf core crew pc d.regs priv (kernelPlaces d core) = some (s1, ks) → ks.length = (kernelPlaces d core).length ∧
      ∃ u cr, exec run s = .next u ∧ u.crew? ck = some cr ∧ cr.vf = vf ∧ cr.regs = d.regs ∧ cr.rows = kernelRows d ∧ cr.base = d.baseRow ∧
        cr.queues = d.queues.map (·.q.toNat) ∧ cr.task = none ∧ (cr.conv d.tconv.toNat).st = .armed ∧
        (cr.conv d.tconv.toNat).expect = ks.length ∧
        (∀ j, j ∉ ks → u.thread? j = s.thread? j ∨ ∃ y f, s.thread? j = some y ∧ y.filed? ≠ none ∧ y.since = s.now ∧
          u.thread? j = some { y with phase := .filed f }) ∧
        (∀ j ∈ ks, s.thread? j = none ∧ ∃ t, u.thread? j = some t ∧ t.vf = vf ∧ t.crew = crew ∧ t.pc = pc ∧ t.cb = pc ∧ t.alloc = d.regs ∧
          t.regs = List.replicate (8 * d.regs) 0 ∧ t.blocks.length = d.regs ∧ (∃ f, t.phase = .filed f) ∧
          t.tr.sstat = (if priv then 1 else 0) ∧ coreOf j = core) ∧ clear u cr ∧ u.mem = s.mem) ∧
    (∀ cr, s.crew? ck = some cr →
      (cr.vf ≠ vf ∨ (s.part vf).atRest = false → exec run s = .next s) ∧
      (cr.vf = vf → (s.part vf).atRest = true →
        (s.rebuildIdle ck d = false → exec run s = .next (s.errVector vf Cause.imageBad.code 0)) ∧
        (s.rebuildIdle ck d = true → s.runFits vf core ck d = false → exec run s = .next s) ∧
        (s.rebuildIdle ck d = true → s.runFits vf core ck d = true → cr.reported = false → cr.ended = false → s.wf = true → crew < 64 →
          ∃ u c, exec run s = .next u ∧ u.crew? ck = some c ∧ c.base = d.baseRow ∧ c.rows = kernelRows d ∧ c.gen = (cr.gen + 1) % 256 ∧
            (∀ m ∈ c.maps, m.live = false) ∧ u.threads = s.threads ∧ clear u c ∧ u.mem = s.mem)))

/-- R31, R76, R347, R368, R394, R398: what reset leaves of the registers whose reset value the spec gives: FURCFG 0x0000_C040, UNIFORM_MISS,
TVEC, HALTREC and the registers of R368 zero, HGCFG 256, the host's registers zero, no VF enabled; every queue disabled. The tables of the machine are tables
(`State.wf`; that memory lists nothing at reset is the model's form, notes/assumptions/1.md). -/
def Obligations.ResetRegisters : Prop :=
  let s := State.reset
  (∀ c, (s.coreRegs c).furcfg = 0xC040 ∧ (s.coreRegs c).uniformMiss = 0) ∧
  (∀ v, let p := s.part v
    p.tvec = 0 ∧ p.haltrec = 0 ∧ p.ptroot = 0 ∧ p.segtab = 0 ∧ p.trarea = 0 ∧ p.trcount = 0 ∧ p.fqcfg = 0 ∧ p.qsel = 0 ∧ p.desc = 0) ∧
  s.hg.hgcfg = 256 ∧ s.host.poolcfg = 0 ∧ s.host.veccfg = 0 ∧ s.host.veccfg2 = 0 ∧ s.host.vfen = 0 ∧ s.host.vfbusy = false ∧
  s.host.vfimg = 0 ∧ s.host.dlogsel = 0 ∧ (∀ v w, s.host.window v w = 0) ∧ s.host.mode = 1 ∧ (∀ q, (s.queue q).en = false) ∧ s.threads = [] ∧
  s.wf = true

/-- Every step keeps the tables of the machine tables (`State.wf`): from every state in which global memory and the scratchpads are in their
canonical form and the keys of threads, crews, sectors and pool blocks rise, every step leaves such a state. -/
def Obligations.StepKeepsWellFormed : Prop := ∀ s t : State, s.wf = true → step s = .next t → t.wf = true

/-- Words that the spec prints beside what they stand for, one and more of each family, decode to it. -/
def Obligations.PrintedWords : Prop :=
  let g : Guard := { pn := false, ps := 7 }
  decode 0x010A0000FFFFFFF1 = .instr (.bra { pn := true, ps := 2 } .likely 0x3FFFFFFC) ∧
  decode 0x30070B04FFFFFF83 = .instr (.iaddI g 0x0B 0x04 0xFFFFFF83) ∧
  decode 0x77070504200000C0 = .instr (.cvt g .rne .f32 .f8a false false 0 2 5 4 0) ∧
  decode 0x9027040204000000 = .instr (.ld g 2 .b32 false .crew 4 2 0) ∧
  decode 0x9B07000000000D80 = .instr (.fence g .dev .sc) ∧
  decode 0xB007090803190001 = .instr (.shfl g .up false 0x09 0x08 0x03 0x19) ∧
  decode 0xC007140400000182 = .instr (.acpL g 0 1 0x18 false 0x14 0x04 0) ∧
  decode 0xD107031020020000 = .instr (.mma g .bf16 false false false false false 0 3 0x10 0x20 2) ∧
  decode 0xE307020408000001 = .instr (.link g true 2 4 8) ∧
  decode 0xF0071000030F0000 = .instr (.tpop g false false 0x10 3 0xF) ∧
  decode 0xFC070408090A0000 = .instr (.evict g 4 8 9 10)
end

