-- ==== Sys2Proof/Laws/NMap.lean ====
section
/-!
SUPPORT. Laws of the sparse tables and of byte memory: what a read gives after a change, and that every change keeps the
canonical form.
-/
namespace Sys2Proof.Machine

/-! ### Reads after changes -/

theorem NMap.find?_modify {α : Type} (m : NMap α) (k n : Nat) (f : α → α) :
    (m.modify k f).find? n = if n = k then (m.find? n).map f else m.find? n := by
  induction m with
  | nil => simp [NMap.modify, NMap.find?]
  | cons x m ih =>
    obtain ⟨j, w⟩ := x
    simp only [NMap.modify, NMap.find?]
    by_cases h : j = k
    · subst h; by_cases h2 : j = n
      · simp [NMap.find?, h2]
      · have h3 : ¬ n = j := fun e => h2 e.symm
        simp [NMap.find?, h2, h3]
    · by_cases h4 : k < j
      · simp only [h, h4, if_false, if_true, NMap.find?]
        by_cases h5 : n = k
        · subst h5; simp [h, h4]
        · simp [h5]
      · simp only [h, h4, if_false, NMap.find?, ih]
        by_cases h2 : j = n
        · subst h2; simp [h]
        · by_cases h6 : n < j
          · have : ¬ n = k := by omega
            simp [h2, h6, this]
          · simp [h2, h6]

theorem NMap.find?_set {α : Type} (m : NMap α) (k n : Nat) (v : α) :
    (m.set k v).find? n = if n = k then some v else m.find? n := by
  induction m with
  | nil =>
    simp only [NMap.set, NMap.find?]
    by_cases h : k = n
    · simp [h]
    · have : ¬ n = k := fun e => h e.symm
      simp [h, this]
  | cons x m ih =>
    obtain ⟨j, w⟩ := x
    simp only [NMap.set]
    by_cases h : j = k
    · subst h; simp only [if_true, NMap.find?]
      by_cases h2 : j = n
      · simp [h2]
      · have : ¬ n = j := fun e => h2 e.symm
        simp [h2, this]
    · by_cases h4 : k < j
      · simp only [h, h4, if_false, if_true, NMap.find?]
        by_cases h5 : k = n
        · subst h5; simp
        · have h6 : ¬ n = k := fun e => h5 e.symm
          by_cases h7 : n < k
          · have h8 : ¬ j = n := by omega
            have h9 : n < j := by omega
            simp [h5, h6, h7, h8, h9]
          · simp [h5, h6, h7]
      · simp only [h, h4, if_false, NMap.find?, ih]
        by_cases h2 : j = n
        · subst h2; simp [h]
        · by_cases h6 : n < j
          · have : ¬ n = k := by omega
            simp [h2, h6, this]
          · simp [h2, h6]

theorem NMap.find?_set_self {α : Type} (m : NMap α) (k : Nat) (v : α) : (m.set k v).find? k = some v := by
  simp [NMap.find?_set]

theorem NMap.getD_set {α : Type} (m : NMap α) (k n : Nat) (v d : α) :
    (m.set k v).getD n d = if n = k then v else m.getD n d := by
  simp only [NMap.getD, NMap.find?_set]; by_cases h : n = k <;> simp [h]

theorem NMap.find?_mapKV {α : Type} (m : NMap α) (f : Nat → α → α) (n : Nat) :
    (m.mapKV f).find? n = (m.find? n).map (f n) := by
  induction m with
  | nil => simp [NMap.mapKV, NMap.find?]
  | cons x m ih =>
    obtain ⟨j, w⟩ := x
    simp only [NMap.mapKV, List.map_cons, NMap.find?] at ih ⊢
    by_cases h : j = n
    · subst h; simp
    · by_cases h6 : n < j
      · simp [h, h6]
      · simp only [h, h6, if_false]; exact ih

/-! ### The canonical form -/

theorem NMap.rising_none {α : Type} (k : Nat) (v : α) (m : NMap α) :
    NMap.rising none ((k, v) :: m) = NMap.rising (some k) m := rfl

theorem NMap.rising_some {α : Type} (b k : Nat) (v : α) (m : NMap α) :
    NMap.rising (some b) ((k, v) :: m) = (decide (b < k) && NMap.rising (some k) m) := rfl

theorem NMap.rising_le {α : Type} (a b : Nat) (h : a ≤ b) : (m : NMap α) → NMap.rising (some b) m = true → NMap.rising (some a) m = true
  | [], _ => rfl
  | (k, v) :: m, e => by
    simp only [NMap.rising_some, Bool.and_eq_true, decide_eq_true_eq] at e ⊢
    exact ⟨by omega, e.2⟩

theorem NMap.rising_weaken {α : Type} (b : Nat) : (m : NMap α) → NMap.rising (some b) m = true → NMap.rising none m = true
  | [], _ => rfl
  | (k, v) :: m, e => by
    simp only [NMap.rising_some, Bool.and_eq_true, decide_eq_true_eq] at e
    exact e.2

theorem NMap.rising_set {α : Type} (b n : Nat) (v : α) (hb : b < n) :
    (m : NMap α) → NMap.rising (some b) m = true → NMap.rising (some b) (m.set n v) = true
  | [], _ => by simp [NMap.set, NMap.rising, hb]
  | (k, w) :: m, e => by
    simp only [NMap.rising_some, Bool.and_eq_true, decide_eq_true_eq] at e
    simp only [NMap.set]
    by_cases h : k = n
    · subst h; simp [NMap.rising_some, e.1, e.2]
    · by_cases h2 : n < k
      · simp [h, h2, NMap.rising_some, hb, e.2]
      · simp only [h, h2, if_false, NMap.rising_some, Bool.and_eq_true, decide_eq_true_eq]
        exact ⟨e.1, NMap.rising_set k n v (by omega) m e.2⟩

theorem NMap.wf_set {α : Type} (n : Nat) (v : α) (m : NMap α) (h : NMap.wf m = true) : NMap.wf (m.set n v) = true := by
  cases m with
  | nil => simp [NMap.set, NMap.wf, NMap.rising]
  | cons x m =>
    obtain ⟨k, w⟩ := x
    simp only [NMap.wf, NMap.rising_none] at h
    simp only [NMap.set, NMap.wf]
    by_cases h1 : k = n
    · subst h1; simp [NMap.rising_none, h]
    · by_cases h2 : n < k
      · simp [h1, h2, NMap.rising_none, NMap.rising_some, h]
      · simp only [h1, h2, if_false, NMap.rising_none]
        exact NMap.rising_set k n v (by omega) m h

theorem NMap.rising_erase {α : Type} (b n : Nat) :
    (m : NMap α) → NMap.rising (some b) m = true → NMap.rising (some b) (m.erase n) = true
  | [], _ => rfl
  | (k, w) :: m, e => by
    have e0 := e
    simp only [NMap.rising_some, Bool.and_eq_true, decide_eq_true_eq] at e
    simp only [NMap.erase]
    by_cases h : k = n
    · simp only [h, if_true]; exact NMap.rising_le b k (by omega) m e.2
    · by_cases h2 : n < k
      · simp [h, h2, e0]
      · simp only [h, h2, if_false, NMap.rising_some, Bool.and_eq_true, decide_eq_true_eq]
        exact ⟨e.1, NMap.rising_erase k n m e.2⟩

theorem NMap.wf_erase {α : Type} (n : Nat) (m : NMap α) (h : NMap.wf m = true) : NMap.wf (m.erase n) = true := by
  cases m with
  | nil => exact h
  | cons x m =>
    obtain ⟨k, w⟩ := x
    have h0 := h
    simp only [NMap.wf, NMap.rising_none] at h
    simp only [NMap.erase, NMap.wf]
    by_cases h1 : k = n
    · simp only [h1, if_true]; exact NMap.rising_weaken k m h
    · by_cases h2 : n < k
      · simp [h1, h2, NMap.rising_none, h]
      · simp only [h1, h2, if_false, NMap.rising_none]
        exact NMap.rising_erase k n m h

theorem NMap.rising_filter {α : Type} (p : Nat × α → Bool) (b : Nat) :
    (m : NMap α) → NMap.rising (some b) m = true → NMap.rising (some b) (m.filter p) = true
  | [], _ => rfl
  | (k, w) :: m, e => by
    simp only [NMap.rising_some, Bool.and_eq_true, decide_eq_true_eq] at e
    by_cases h : p (k, w) = true
    · simp only [List.filter_cons_of_pos h, NMap.rising_some, Bool.and_eq_true, decide_eq_true_eq]
      exact ⟨e.1, NMap.rising_filter p k m e.2⟩
    · simp only [List.filter_cons_of_neg h]
      exact NMap.rising_filter p b m (NMap.rising_le b k (by omega) m e.2)

theorem NMap.wf_filter {α : Type} (p : Nat × α → Bool) : (m : NMap α) → NMap.wf m = true → NMap.wf (m.filter p) = true
  | [], _ => rfl
  | (k, w) :: m, h => by
    simp only [NMap.wf, NMap.rising_none] at h
    by_cases h1 : p (k, w) = true
    · simp only [List.filter_cons_of_pos h1, NMap.wf, NMap.rising_none]
      exact NMap.rising_filter p k m h
    · simp only [List.filter_cons_of_neg h1]
      exact NMap.rising_weaken k _ (NMap.rising_filter p k m h)

theorem NMap.mem_set {α : Type} (n : Nat) (v : α) (x : Nat × α) : (m : NMap α) → x ∈ m.set n v → x.2 = v ∨ x ∈ m
  | [], h => by simp only [NMap.set, List.mem_singleton] at h; exact .inl (by rw [h])
  | (k, w) :: m, h => by
    simp only [NMap.set] at h
    split at h
    · rcases List.mem_cons.mp h with h | h
      · exact .inl (by rw [h])
      · exact .inr (List.mem_cons_of_mem _ h)
    · split at h
      · rcases List.mem_cons.mp h with h | h
        · exact .inl (by rw [h])
        · exact .inr h
      · rcases List.mem_cons.mp h with h | h
        · exact .inr (by rw [h]; exact List.mem_cons_self)
        · rcases NMap.mem_set n v x m h with h | h
          · exact .inl h
          · exact .inr (List.mem_cons_of_mem _ h)

theorem NMap.mem_erase {α : Type} (n : Nat) (x : Nat × α) : (m : NMap α) → x ∈ m.erase n → x ∈ m
  | [], h => h
  | (k, w) :: m, h => by
    simp only [NMap.erase] at h
    split at h
    · exact List.mem_cons_of_mem _ h
    · split at h
      · exact h
      · rcases List.mem_cons.mp h with h | h
        · rw [h]; exact List.mem_cons_self
        · exact List.mem_cons_of_mem _ (NMap.mem_erase n x m h)

/-- A write of one byte keeps the canonical form. -/
theorem Memory.wf_write (m : Memory) (a : Nat) (b : BitVec 8) (h : m.wf = true) : (m.write a b).wf = true := by
  simp only [Memory.wf, Bool.and_eq_true, List.all_eq_true] at h ⊢
  unfold Memory.write
  split
  · exact ⟨NMap.wf_erase a m h.1, fun x hx => h.2 x (NMap.mem_erase a x m hx)⟩
  · rename_i hb
    refine ⟨NMap.wf_set a b m h.1, fun x hx => ?_⟩
    rcases NMap.mem_set a b x m hx with e | e
    · rw [e]; simpa using hb
    · exact h.2 x e

/-- A write of many bytes keeps the canonical form. -/
theorem Memory.wf_writeAll : (cs : List Host.Cell) → (m : Memory) → m.wf = true → (m.writeAll cs).wf = true
  | [], _, h => h
  | (a, b) :: cs, m, h => Memory.wf_writeAll cs (m.write a b) (Memory.wf_write m a b h)

/-- Dropping entries keeps the canonical form. -/
theorem Memory.wf_filter (p : Host.Cell → Bool) (m : Memory) (h : m.wf = true) : Memory.wf (m.filter p) = true := by
  simp only [Memory.wf, Bool.and_eq_true, List.all_eq_true] at h ⊢
  exact ⟨NMap.wf_filter p m h.1, fun x hx => h.2 x (List.mem_filter.mp hx).1⟩

theorem NMap.find?_erase_ne {α : Type} (k n : Nat) (hn : n ≠ k) : (m : NMap α) → NMap.wf m = true → (m.erase k).find? n = m.find? n
  | [], _ => rfl
  | (j, w) :: m, h => by
    simp only [NMap.wf, NMap.rising_none] at h
    simp only [NMap.erase]
    by_cases h1 : j = k
    · subst h1
      have h3 : ¬ j = n := fun e => hn e.symm
      simp only [if_true, NMap.find?, h3, if_false]
      by_cases h4 : n < j
      · simp only [h4, if_true]
        cases m with
        | nil => rfl
        | cons x m =>
          obtain ⟨i, v⟩ := x
          simp only [NMap.rising_some, Bool.and_eq_true, decide_eq_true_eq] at h
          have : ¬ i = n := by omega
          have : n < i := by omega
          simp [NMap.find?, *]
      · simp [h4]
    · by_cases h2 : k < j
      · simp [h1, h2]
      · simp only [h1, h2, if_false, NMap.find?]
        rw [NMap.find?_erase_ne k n hn m (NMap.rising_weaken j m h)]

theorem NMap.find?_above {α : Type} (n : Nat) : (m : NMap α) → (b : Nat) → n ≤ b → NMap.rising (some b) m = true → m.find? n = none
  | [], _, _, _ => rfl
  | (j, w) :: m, b, hb, h => by
    simp only [NMap.rising_some, Bool.and_eq_true, decide_eq_true_eq] at h
    have h1 : ¬ j = n := by omega
    have h2 : n < j := by omega
    simp [NMap.find?, h1, h2]

theorem NMap.find?_erase_self {α : Type} (k : Nat) : (m : NMap α) → NMap.wf m = true → (m.erase k).find? k = none
  | [], _ => rfl
  | (j, w) :: m, h => by
    simp only [NMap.wf, NMap.rising_none] at h
    simp only [NMap.erase]
    by_cases h1 : j = k
    · subst h1; simp only [if_true]; exact NMap.find?_above j m j (Nat.le_refl j) h
    · by_cases h2 : k < j
      · simp [h1, h2, NMap.find?]
      · simp only [h1, h2, if_false, NMap.find?]
        exact NMap.find?_erase_self k m (NMap.rising_weaken j m h)

/-- A read after a write of one byte: the byte written at its address, the byte before at every other. -/
theorem Memory.read_write (m : Memory) (a p : Nat) (b : BitVec 8) (h : m.wf = true) :
    (m.write a b).read p = if p = a then b else m.read p := by
  simp only [Memory.wf, Bool.and_eq_true] at h
  unfold Memory.read Memory.write
  by_cases hb : b = Memory.unlisted
  · simp only [hb, if_true, NMap.getD]
    by_cases hp : p = a
    · subst hp; simp [NMap.find?_erase_self p m h.1]
    · simp [hp, NMap.find?_erase_ne a p hp m h.1]
  · simp only [hb, if_false, NMap.getD_set]

end Sys2Proof.Machine
end

