-- ==== Sys2Proof/Laws/State.lean ====
section
/-!
SUPPORT. Laws of the state's updates, one lemma per field and update, and of the frame of an instruction word.
-/
namespace Sys2Proof.Machine

variable (s : State) (k : Nat)

/-! ### setThread -/

@[simp] theorem State.setThread_now (t : Thread) : (s.setThread k t).now = s.now := rfl
@[simp] theorem State.setThread_agenda (t : Thread) : (s.setThread k t).agenda = s.agenda := rfl
@[simp] theorem State.setThread_who (t : Thread) : (s.setThread k t).who = s.who := rfl
@[simp] theorem State.setThread_issue (t : Thread) : (s.setThread k t).issue = s.issue := rfl
@[simp] theorem State.setThread_evicted (t : Thread) : (s.setThread k t).evicted = s.evicted := rfl
@[simp] theorem State.setThread_lgs (t : Thread) : (s.setThread k t).lgs = s.lgs := rfl
@[simp] theorem State.setThread_cores (t : Thread) : (s.setThread k t).cores = s.cores := rfl
@[simp] theorem State.setThread_crews (t : Thread) : (s.setThread k t).crews = s.crews := rfl
@[simp] theorem State.setThread_tiles (t : Thread) : (s.setThread k t).tiles = s.tiles := rfl
@[simp] theorem State.setThread_scratch (t : Thread) : (s.setThread k t).scratch = s.scratch := rfl
@[simp] theorem State.setThread_sectors (t : Thread) : (s.setThread k t).sectors = s.sectors := rfl
@[simp] theorem State.setThread_phys (t : Thread) : (s.setThread k t).phys = s.phys := rfl
@[simp] theorem State.setThread_cmds (t : Thread) : (s.setThread k t).cmds = s.cmds := rfl
@[simp] theorem State.setThread_mats (t : Thread) : (s.setThread k t).mats = s.mats := rfl
@[simp] theorem State.setThread_nextId (t : Thread) : (s.setThread k t).nextId = s.nextId := rfl
@[simp] theorem State.setThread_mem (t : Thread) : (s.setThread k t).mem = s.mem := rfl
@[simp] theorem State.setThread_flights (t : Thread) : (s.setThread k t).flights = s.flights := rfl
@[simp] theorem State.setThread_tlb (t : Thread) : (s.setThread k t).tlb = s.tlb := rfl
@[simp] theorem State.setThread_queues (t : Thread) : (s.setThread k t).queues = s.queues := rfl
@[simp] theorem State.setThread_hg (t : Thread) : (s.setThread k t).hg = s.hg := rfl
@[simp] theorem State.setThread_parts (t : Thread) : (s.setThread k t).parts = s.parts := rfl
@[simp] theorem State.setThread_pool (t : Thread) : (s.setThread k t).pool = s.pool := rfl
@[simp] theorem State.setThread_host (t : Thread) : (s.setThread k t).host = s.host := rfl
@[simp] theorem State.setThread_smc (t : Thread) : (s.setThread k t).smc = s.smc := rfl
@[simp] theorem State.setThread_fenced (t : Thread) : (s.setThread k t).fenced = s.fenced := rfl

/-! ### modThread -/

@[simp] theorem State.modThread_now (f : Thread → Thread) : (s.modThread k f).now = s.now := rfl
@[simp] theorem State.modThread_agenda (f : Thread → Thread) : (s.modThread k f).agenda = s.agenda := rfl
@[simp] theorem State.modThread_who (f : Thread → Thread) : (s.modThread k f).who = s.who := rfl
@[simp] theorem State.modThread_issue (f : Thread → Thread) : (s.modThread k f).issue = s.issue := rfl
@[simp] theorem State.modThread_evicted (f : Thread → Thread) : (s.modThread k f).evicted = s.evicted := rfl
@[simp] theorem State.modThread_lgs (f : Thread → Thread) : (s.modThread k f).lgs = s.lgs := rfl
@[simp] theorem State.modThread_cores (f : Thread → Thread) : (s.modThread k f).cores = s.cores := rfl
@[simp] theorem State.modThread_crews (f : Thread → Thread) : (s.modThread k f).crews = s.crews := rfl
@[simp] theorem State.modThread_tiles (f : Thread → Thread) : (s.modThread k f).tiles = s.tiles := rfl
@[simp] theorem State.modThread_scratch (f : Thread → Thread) : (s.modThread k f).scratch = s.scratch := rfl
@[simp] theorem State.modThread_sectors (f : Thread → Thread) : (s.modThread k f).sectors = s.sectors := rfl
@[simp] theorem State.modThread_phys (f : Thread → Thread) : (s.modThread k f).phys = s.phys := rfl
@[simp] theorem State.modThread_cmds (f : Thread → Thread) : (s.modThread k f).cmds = s.cmds := rfl
@[simp] theorem State.modThread_mats (f : Thread → Thread) : (s.modThread k f).mats = s.mats := rfl
@[simp] theorem State.modThread_nextId (f : Thread → Thread) : (s.modThread k f).nextId = s.nextId := rfl
@[simp] theorem State.modThread_mem (f : Thread → Thread) : (s.modThread k f).mem = s.mem := rfl
@[simp] theorem State.modThread_flights (f : Thread → Thread) : (s.modThread k f).flights = s.flights := rfl
@[simp] theorem State.modThread_tlb (f : Thread → Thread) : (s.modThread k f).tlb = s.tlb := rfl
@[simp] theorem State.modThread_queues (f : Thread → Thread) : (s.modThread k f).queues = s.queues := rfl
@[simp] theorem State.modThread_hg (f : Thread → Thread) : (s.modThread k f).hg = s.hg := rfl
@[simp] theorem State.modThread_parts (f : Thread → Thread) : (s.modThread k f).parts = s.parts := rfl
@[simp] theorem State.modThread_pool (f : Thread → Thread) : (s.modThread k f).pool = s.pool := rfl
@[simp] theorem State.modThread_host (f : Thread → Thread) : (s.modThread k f).host = s.host := rfl
@[simp] theorem State.modThread_smc (f : Thread → Thread) : (s.modThread k f).smc = s.smc := rfl
@[simp] theorem State.modThread_fenced (f : Thread → Thread) : (s.modThread k f).fenced = s.fenced := rfl

/-! ### modCrew -/

@[simp] theorem State.modCrew_now (f : Crew → Crew) : (s.modCrew k f).now = s.now := rfl
@[simp] theorem State.modCrew_agenda (f : Crew → Crew) : (s.modCrew k f).agenda = s.agenda := rfl
@[simp] theorem State.modCrew_who (f : Crew → Crew) : (s.modCrew k f).who = s.who := rfl
@[simp] theorem State.modCrew_issue (f : Crew → Crew) : (s.modCrew k f).issue = s.issue := rfl
@[simp] theorem State.modCrew_threads (f : Crew → Crew) : (s.modCrew k f).threads = s.threads := rfl
@[simp] theorem State.modCrew_evicted (f : Crew → Crew) : (s.modCrew k f).evicted = s.evicted := rfl
@[simp] theorem State.modCrew_lgs (f : Crew → Crew) : (s.modCrew k f).lgs = s.lgs := rfl
@[simp] theorem State.modCrew_cores (f : Crew → Crew) : (s.modCrew k f).cores = s.cores := rfl
@[simp] theorem State.modCrew_tiles (f : Crew → Crew) : (s.modCrew k f).tiles = s.tiles := rfl
@[simp] theorem State.modCrew_scratch (f : Crew → Crew) : (s.modCrew k f).scratch = s.scratch := rfl
@[simp] theorem State.modCrew_sectors (f : Crew → Crew) : (s.modCrew k f).sectors = s.sectors := rfl
@[simp] theorem State.modCrew_phys (f : Crew → Crew) : (s.modCrew k f).phys = s.phys := rfl
@[simp] theorem State.modCrew_cmds (f : Crew → Crew) : (s.modCrew k f).cmds = s.cmds := rfl
@[simp] theorem State.modCrew_mats (f : Crew → Crew) : (s.modCrew k f).mats = s.mats := rfl
@[simp] theorem State.modCrew_nextId (f : Crew → Crew) : (s.modCrew k f).nextId = s.nextId := rfl
@[simp] theorem State.modCrew_mem (f : Crew → Crew) : (s.modCrew k f).mem = s.mem := rfl
@[simp] theorem State.modCrew_flights (f : Crew → Crew) : (s.modCrew k f).flights = s.flights := rfl
@[simp] theorem State.modCrew_tlb (f : Crew → Crew) : (s.modCrew k f).tlb = s.tlb := rfl
@[simp] theorem State.modCrew_queues (f : Crew → Crew) : (s.modCrew k f).queues = s.queues := rfl
@[simp] theorem State.modCrew_hg (f : Crew → Crew) : (s.modCrew k f).hg = s.hg := rfl
@[simp] theorem State.modCrew_parts (f : Crew → Crew) : (s.modCrew k f).parts = s.parts := rfl
@[simp] theorem State.modCrew_pool (f : Crew → Crew) : (s.modCrew k f).pool = s.pool := rfl
@[simp] theorem State.modCrew_host (f : Crew → Crew) : (s.modCrew k f).host = s.host := rfl
@[simp] theorem State.modCrew_smc (f : Crew → Crew) : (s.modCrew k f).smc = s.smc := rfl
@[simp] theorem State.modCrew_fenced (f : Crew → Crew) : (s.modCrew k f).fenced = s.fenced := rfl

/-! ### modLg -/

@[simp] theorem State.modLg_now (f : LaneGroup → LaneGroup) : (s.modLg k f).now = s.now := rfl
@[simp] theorem State.modLg_agenda (f : LaneGroup → LaneGroup) : (s.modLg k f).agenda = s.agenda := rfl
@[simp] theorem State.modLg_who (f : LaneGroup → LaneGroup) : (s.modLg k f).who = s.who := rfl
@[simp] theorem State.modLg_issue (f : LaneGroup → LaneGroup) : (s.modLg k f).issue = s.issue := rfl
@[simp] theorem State.modLg_threads (f : LaneGroup → LaneGroup) : (s.modLg k f).threads = s.threads := rfl
@[simp] theorem State.modLg_evicted (f : LaneGroup → LaneGroup) : (s.modLg k f).evicted = s.evicted := rfl
@[simp] theorem State.modLg_cores (f : LaneGroup → LaneGroup) : (s.modLg k f).cores = s.cores := rfl
@[simp] theorem State.modLg_crews (f : LaneGroup → LaneGroup) : (s.modLg k f).crews = s.crews := rfl
@[simp] theorem State.modLg_tiles (f : LaneGroup → LaneGroup) : (s.modLg k f).tiles = s.tiles := rfl
@[simp] theorem State.modLg_scratch (f : LaneGroup → LaneGroup) : (s.modLg k f).scratch = s.scratch := rfl
@[simp] theorem State.modLg_sectors (f : LaneGroup → LaneGroup) : (s.modLg k f).sectors = s.sectors := rfl
@[simp] theorem State.modLg_phys (f : LaneGroup → LaneGroup) : (s.modLg k f).phys = s.phys := rfl
@[simp] theorem State.modLg_cmds (f : LaneGroup → LaneGroup) : (s.modLg k f).cmds = s.cmds := rfl
@[simp] theorem State.modLg_mats (f : LaneGroup → LaneGroup) : (s.modLg k f).mats = s.mats := rfl
@[simp] theorem State.modLg_nextId (f : LaneGroup → LaneGroup) : (s.modLg k f).nextId = s.nextId := rfl
@[simp] theorem State.modLg_mem (f : LaneGroup → LaneGroup) : (s.modLg k f).mem = s.mem := rfl
@[simp] theorem State.modLg_flights (f : LaneGroup → LaneGroup) : (s.modLg k f).flights = s.flights := rfl
@[simp] theorem State.modLg_tlb (f : LaneGroup → LaneGroup) : (s.modLg k f).tlb = s.tlb := rfl
@[simp] theorem State.modLg_queues (f : LaneGroup → LaneGroup) : (s.modLg k f).queues = s.queues := rfl
@[simp] theorem State.modLg_hg (f : LaneGroup → LaneGroup) : (s.modLg k f).hg = s.hg := rfl
@[simp] theorem State.modLg_parts (f : LaneGroup → LaneGroup) : (s.modLg k f).parts = s.parts := rfl
@[simp] theorem State.modLg_pool (f : LaneGroup → LaneGroup) : (s.modLg k f).pool = s.pool := rfl
@[simp] theorem State.modLg_host (f : LaneGroup → LaneGroup) : (s.modLg k f).host = s.host := rfl
@[simp] theorem State.modLg_smc (f : LaneGroup → LaneGroup) : (s.modLg k f).smc = s.smc := rfl
@[simp] theorem State.modLg_fenced (f : LaneGroup → LaneGroup) : (s.modLg k f).fenced = s.fenced := rfl

/-! ### modQueue -/

@[simp] theorem State.modQueue_now (f : Queue → Queue) : (s.modQueue k f).now = s.now := rfl
@[simp] theorem State.modQueue_agenda (f : Queue → Queue) : (s.modQueue k f).agenda = s.agenda := rfl
@[simp] theorem State.modQueue_who (f : Queue → Queue) : (s.modQueue k f).who = s.who := rfl
@[simp] theorem State.modQueue_issue (f : Queue → Queue) : (s.modQueue k f).issue = s.issue := rfl
@[simp] theorem State.modQueue_threads (f : Queue → Queue) : (s.modQueue k f).threads = s.threads := rfl
@[simp] theorem State.modQueue_evicted (f : Queue → Queue) : (s.modQueue k f).evicted = s.evicted := rfl
@[simp] theorem State.modQueue_lgs (f : Queue → Queue) : (s.modQueue k f).lgs = s.lgs := rfl
@[simp] theorem State.modQueue_cores (f : Queue → Queue) : (s.modQueue k f).cores = s.cores := rfl
@[simp] theorem State.modQueue_crews (f : Queue → Queue) : (s.modQueue k f).crews = s.crews := rfl
@[simp] theorem State.modQueue_tiles (f : Queue → Queue) : (s.modQueue k f).tiles = s.tiles := rfl
@[simp] theorem State.modQueue_scratch (f : Queue → Queue) : (s.modQueue k f).scratch = s.scratch := rfl
@[simp] theorem State.modQueue_sectors (f : Queue → Queue) : (s.modQueue k f).sectors = s.sectors := rfl
@[simp] theorem State.modQueue_phys (f : Queue → Queue) : (s.modQueue k f).phys = s.phys := rfl
@[simp] theorem State.modQueue_cmds (f : Queue → Queue) : (s.modQueue k f).cmds = s.cmds := rfl
@[simp] theorem State.modQueue_mats (f : Queue → Queue) : (s.modQueue k f).mats = s.mats := rfl
@[simp] theorem State.modQueue_nextId (f : Queue → Queue) : (s.modQueue k f).nextId = s.nextId := rfl
@[simp] theorem State.modQueue_mem (f : Queue → Queue) : (s.modQueue k f).mem = s.mem := rfl
@[simp] theorem State.modQueue_flights (f : Queue → Queue) : (s.modQueue k f).flights = s.flights := rfl
@[simp] theorem State.modQueue_tlb (f : Queue → Queue) : (s.modQueue k f).tlb = s.tlb := rfl
@[simp] theorem State.modQueue_hg (f : Queue → Queue) : (s.modQueue k f).hg = s.hg := rfl
@[simp] theorem State.modQueue_parts (f : Queue → Queue) : (s.modQueue k f).parts = s.parts := rfl
@[simp] theorem State.modQueue_pool (f : Queue → Queue) : (s.modQueue k f).pool = s.pool := rfl
@[simp] theorem State.modQueue_host (f : Queue → Queue) : (s.modQueue k f).host = s.host := rfl
@[simp] theorem State.modQueue_smc (f : Queue → Queue) : (s.modQueue k f).smc = s.smc := rfl
@[simp] theorem State.modQueue_fenced (f : Queue → Queue) : (s.modQueue k f).fenced = s.fenced := rfl

/-! ### setPart -/

@[simp] theorem State.setPart_now (p : Part) : (s.setPart k p).now = s.now := rfl
@[simp] theorem State.setPart_agenda (p : Part) : (s.setPart k p).agenda = s.agenda := rfl
@[simp] theorem State.setPart_who (p : Part) : (s.setPart k p).who = s.who := rfl
@[simp] theorem State.setPart_issue (p : Part) : (s.setPart k p).issue = s.issue := rfl
@[simp] theorem State.setPart_threads (p : Part) : (s.setPart k p).threads = s.threads := rfl
@[simp] theorem State.setPart_evicted (p : Part) : (s.setPart k p).evicted = s.evicted := rfl
@[simp] theorem State.setPart_lgs (p : Part) : (s.setPart k p).lgs = s.lgs := rfl
@[simp] theorem State.setPart_cores (p : Part) : (s.setPart k p).cores = s.cores := rfl
@[simp] theorem State.setPart_crews (p : Part) : (s.setPart k p).crews = s.crews := rfl
@[simp] theorem State.setPart_tiles (p : Part) : (s.setPart k p).tiles = s.tiles := rfl
@[simp] theorem State.setPart_scratch (p : Part) : (s.setPart k p).scratch = s.scratch := rfl
@[simp] theorem State.setPart_sectors (p : Part) : (s.setPart k p).sectors = s.sectors := rfl
@[simp] theorem State.setPart_phys (p : Part) : (s.setPart k p).phys = s.phys := rfl
@[simp] theorem State.setPart_cmds (p : Part) : (s.setPart k p).cmds = s.cmds := rfl
@[simp] theorem State.setPart_mats (p : Part) : (s.setPart k p).mats = s.mats := rfl
@[simp] theorem State.setPart_nextId (p : Part) : (s.setPart k p).nextId = s.nextId := rfl
@[simp] theorem State.setPart_mem (p : Part) : (s.setPart k p).mem = s.mem := rfl
@[simp] theorem State.setPart_flights (p : Part) : (s.setPart k p).flights = s.flights := rfl
@[simp] theorem State.setPart_tlb (p : Part) : (s.setPart k p).tlb = s.tlb := rfl
@[simp] theorem State.setPart_queues (p : Part) : (s.setPart k p).queues = s.queues := rfl
@[simp] theorem State.setPart_hg (p : Part) : (s.setPart k p).hg = s.hg := rfl
@[simp] theorem State.setPart_pool (p : Part) : (s.setPart k p).pool = s.pool := rfl
@[simp] theorem State.setPart_host (p : Part) : (s.setPart k p).host = s.host := rfl
@[simp] theorem State.setPart_smc (p : Part) : (s.setPart k p).smc = s.smc := rfl
@[simp] theorem State.setPart_fenced (p : Part) : (s.setPart k p).fenced = s.fenced := rfl

/-! ### modPart -/

@[simp] theorem State.modPart_now (f : Part → Part) : (s.modPart k f).now = s.now := rfl
@[simp] theorem State.modPart_agenda (f : Part → Part) : (s.modPart k f).agenda = s.agenda := rfl
@[simp] theorem State.modPart_who (f : Part → Part) : (s.modPart k f).who = s.who := rfl
@[simp] theorem State.modPart_issue (f : Part → Part) : (s.modPart k f).issue = s.issue := rfl
@[simp] theorem State.modPart_threads (f : Part → Part) : (s.modPart k f).threads = s.threads := rfl
@[simp] theorem State.modPart_evicted (f : Part → Part) : (s.modPart k f).evicted = s.evicted := rfl
@[simp] theorem State.modPart_lgs (f : Part → Part) : (s.modPart k f).lgs = s.lgs := rfl
@[simp] theorem State.modPart_cores (f : Part → Part) : (s.modPart k f).cores = s.cores := rfl
@[simp] theorem State.modPart_crews (f : Part → Part) : (s.modPart k f).crews = s.crews := rfl
@[simp] theorem State.modPart_tiles (f : Part → Part) : (s.modPart k f).tiles = s.tiles := rfl
@[simp] theorem State.modPart_scratch (f : Part → Part) : (s.modPart k f).scratch = s.scratch := rfl
@[simp] theorem State.modPart_sectors (f : Part → Part) : (s.modPart k f).sectors = s.sectors := rfl
@[simp] theorem State.modPart_phys (f : Part → Part) : (s.modPart k f).phys = s.phys := rfl
@[simp] theorem State.modPart_cmds (f : Part → Part) : (s.modPart k f).cmds = s.cmds := rfl
@[simp] theorem State.modPart_mats (f : Part → Part) : (s.modPart k f).mats = s.mats := rfl
@[simp] theorem State.modPart_nextId (f : Part → Part) : (s.modPart k f).nextId = s.nextId := rfl
@[simp] theorem State.modPart_mem (f : Part → Part) : (s.modPart k f).mem = s.mem := rfl
@[simp] theorem State.modPart_flights (f : Part → Part) : (s.modPart k f).flights = s.flights := rfl
@[simp] theorem State.modPart_tlb (f : Part → Part) : (s.modPart k f).tlb = s.tlb := rfl
@[simp] theorem State.modPart_queues (f : Part → Part) : (s.modPart k f).queues = s.queues := rfl
@[simp] theorem State.modPart_hg (f : Part → Part) : (s.modPart k f).hg = s.hg := rfl
@[simp] theorem State.modPart_pool (f : Part → Part) : (s.modPart k f).pool = s.pool := rfl
@[simp] theorem State.modPart_host (f : Part → Part) : (s.modPart k f).host = s.host := rfl
@[simp] theorem State.modPart_smc (f : Part → Part) : (s.modPart k f).smc = s.smc := rfl
@[simp] theorem State.modPart_fenced (f : Part → Part) : (s.modPart k f).fenced = s.fenced := rfl

/-! ### popTodo -/

@[simp] theorem State.popTodo_now : (s.popTodo k).now = s.now := rfl
@[simp] theorem State.popTodo_agenda : (s.popTodo k).agenda = s.agenda := rfl
@[simp] theorem State.popTodo_who : (s.popTodo k).who = s.who := rfl
@[simp] theorem State.popTodo_threads : (s.popTodo k).threads = s.threads := rfl
@[simp] theorem State.popTodo_evicted : (s.popTodo k).evicted = s.evicted := rfl
@[simp] theorem State.popTodo_lgs : (s.popTodo k).lgs = s.lgs := rfl
@[simp] theorem State.popTodo_cores : (s.popTodo k).cores = s.cores := rfl
@[simp] theorem State.popTodo_crews : (s.popTodo k).crews = s.crews := rfl
@[simp] theorem State.popTodo_tiles : (s.popTodo k).tiles = s.tiles := rfl
@[simp] theorem State.popTodo_scratch : (s.popTodo k).scratch = s.scratch := rfl
@[simp] theorem State.popTodo_sectors : (s.popTodo k).sectors = s.sectors := rfl
@[simp] theorem State.popTodo_phys : (s.popTodo k).phys = s.phys := rfl
@[simp] theorem State.popTodo_cmds : (s.popTodo k).cmds = s.cmds := rfl
@[simp] theorem State.popTodo_mats : (s.popTodo k).mats = s.mats := rfl
@[simp] theorem State.popTodo_nextId : (s.popTodo k).nextId = s.nextId := rfl
@[simp] theorem State.popTodo_mem : (s.popTodo k).mem = s.mem := rfl
@[simp] theorem State.popTodo_flights : (s.popTodo k).flights = s.flights := rfl
@[simp] theorem State.popTodo_tlb : (s.popTodo k).tlb = s.tlb := rfl
@[simp] theorem State.popTodo_queues : (s.popTodo k).queues = s.queues := rfl
@[simp] theorem State.popTodo_hg : (s.popTodo k).hg = s.hg := rfl
@[simp] theorem State.popTodo_parts : (s.popTodo k).parts = s.parts := rfl
@[simp] theorem State.popTodo_pool : (s.popTodo k).pool = s.pool := rfl
@[simp] theorem State.popTodo_host : (s.popTodo k).host = s.host := rfl
@[simp] theorem State.popTodo_smc : (s.popTodo k).smc = s.smc := rfl
@[simp] theorem State.popTodo_fenced : (s.popTodo k).fenced = s.fenced := rfl

/-! ### leave -/

@[simp] theorem State.leave_now : (s.leave k).now = s.now := rfl
@[simp] theorem State.leave_agenda : (s.leave k).agenda = s.agenda := rfl
@[simp] theorem State.leave_who : (s.leave k).who = s.who := rfl
@[simp] theorem State.leave_threads : (s.leave k).threads = s.threads := rfl
@[simp] theorem State.leave_evicted : (s.leave k).evicted = s.evicted := rfl
@[simp] theorem State.leave_lgs : (s.leave k).lgs = s.lgs := rfl
@[simp] theorem State.leave_cores : (s.leave k).cores = s.cores := rfl
@[simp] theorem State.leave_crews : (s.leave k).crews = s.crews := rfl
@[simp] theorem State.leave_tiles : (s.leave k).tiles = s.tiles := rfl
@[simp] theorem State.leave_scratch : (s.leave k).scratch = s.scratch := rfl
@[simp] theorem State.leave_sectors : (s.leave k).sectors = s.sectors := rfl
@[simp] theorem State.leave_phys : (s.leave k).phys = s.phys := rfl
@[simp] theorem State.leave_cmds : (s.leave k).cmds = s.cmds := rfl
@[simp] theorem State.leave_mats : (s.leave k).mats = s.mats := rfl
@[simp] theorem State.leave_nextId : (s.leave k).nextId = s.nextId := rfl
@[simp] theorem State.leave_mem : (s.leave k).mem = s.mem := rfl
@[simp] theorem State.leave_flights : (s.leave k).flights = s.flights := rfl
@[simp] theorem State.leave_tlb : (s.leave k).tlb = s.tlb := rfl
@[simp] theorem State.leave_queues : (s.leave k).queues = s.queues := rfl
@[simp] theorem State.leave_hg : (s.leave k).hg = s.hg := rfl
@[simp] theorem State.leave_parts : (s.leave k).parts = s.parts := rfl
@[simp] theorem State.leave_pool : (s.leave k).pool = s.pool := rfl
@[simp] theorem State.leave_host : (s.leave k).host = s.host := rfl
@[simp] theorem State.leave_smc : (s.leave k).smc = s.smc := rfl
@[simp] theorem State.leave_fenced : (s.leave k).fenced = s.fenced := rfl

/-! ### modCmd -/

@[simp] theorem State.modCmd_now (f : Cmd → Cmd) : (s.modCmd k f).now = s.now := rfl
@[simp] theorem State.modCmd_agenda (f : Cmd → Cmd) : (s.modCmd k f).agenda = s.agenda := rfl
@[simp] theorem State.modCmd_who (f : Cmd → Cmd) : (s.modCmd k f).who = s.who := rfl
@[simp] theorem State.modCmd_issue (f : Cmd → Cmd) : (s.modCmd k f).issue = s.issue := rfl
@[simp] theorem State.modCmd_threads (f : Cmd → Cmd) : (s.modCmd k f).threads = s.threads := rfl
@[simp] theorem State.modCmd_evicted (f : Cmd → Cmd) : (s.modCmd k f).evicted = s.evicted := rfl
@[simp] theorem State.modCmd_lgs (f : Cmd → Cmd) : (s.modCmd k f).lgs = s.lgs := rfl
@[simp] theorem State.modCmd_cores (f : Cmd → Cmd) : (s.modCmd k f).cores = s.cores := rfl
@[simp] theorem State.modCmd_crews (f : Cmd → Cmd) : (s.modCmd k f).crews = s.crews := rfl
@[simp] theorem State.modCmd_tiles (f : Cmd → Cmd) : (s.modCmd k f).tiles = s.tiles := rfl
@[simp] theorem State.modCmd_scratch (f : Cmd → Cmd) : (s.modCmd k f).scratch = s.scratch := rfl
@[simp] theorem State.modCmd_sectors (f : Cmd → Cmd) : (s.modCmd k f).sectors = s.sectors := rfl
@[simp] theorem State.modCmd_phys (f : Cmd → Cmd) : (s.modCmd k f).phys = s.phys := rfl
@[simp] theorem State.modCmd_mats (f : Cmd → Cmd) : (s.modCmd k f).mats = s.mats := rfl
@[simp] theorem State.modCmd_nextId (f : Cmd → Cmd) : (s.modCmd k f).nextId = s.nextId := rfl
@[simp] theorem State.modCmd_mem (f : Cmd → Cmd) : (s.modCmd k f).mem = s.mem := rfl
@[simp] theorem State.modCmd_flights (f : Cmd → Cmd) : (s.modCmd k f).flights = s.flights := rfl
@[simp] theorem State.modCmd_tlb (f : Cmd → Cmd) : (s.modCmd k f).tlb = s.tlb := rfl
@[simp] theorem State.modCmd_queues (f : Cmd → Cmd) : (s.modCmd k f).queues = s.queues := rfl
@[simp] theorem State.modCmd_hg (f : Cmd → Cmd) : (s.modCmd k f).hg = s.hg := rfl
@[simp] theorem State.modCmd_parts (f : Cmd → Cmd) : (s.modCmd k f).parts = s.parts := rfl
@[simp] theorem State.modCmd_pool (f : Cmd → Cmd) : (s.modCmd k f).pool = s.pool := rfl
@[simp] theorem State.modCmd_host (f : Cmd → Cmd) : (s.modCmd k f).host = s.host := rfl
@[simp] theorem State.modCmd_smc (f : Cmd → Cmd) : (s.modCmd k f).smc = s.smc := rfl
@[simp] theorem State.modCmd_fenced (f : Cmd → Cmd) : (s.modCmd k f).fenced = s.fenced := rfl

/-! ### dropCmd -/

@[simp] theorem State.dropCmd_now : (s.dropCmd k).now = s.now := rfl
@[simp] theorem State.dropCmd_agenda : (s.dropCmd k).agenda = s.agenda := rfl
@[simp] theorem State.dropCmd_who : (s.dropCmd k).who = s.who := rfl
@[simp] theorem State.dropCmd_issue : (s.dropCmd k).issue = s.issue := rfl
@[simp] theorem State.dropCmd_threads : (s.dropCmd k).threads = s.threads := rfl
@[simp] theorem State.dropCmd_evicted : (s.dropCmd k).evicted = s.evicted := rfl
@[simp] theorem State.dropCmd_lgs : (s.dropCmd k).lgs = s.lgs := rfl
@[simp] theorem State.dropCmd_cores : (s.dropCmd k).cores = s.cores := rfl
@[simp] theorem State.dropCmd_crews : (s.dropCmd k).crews = s.crews := rfl
@[simp] theorem State.dropCmd_tiles : (s.dropCmd k).tiles = s.tiles := rfl
@[simp] theorem State.dropCmd_scratch : (s.dropCmd k).scratch = s.scratch := rfl
@[simp] theorem State.dropCmd_sectors : (s.dropCmd k).sectors = s.sectors := rfl
@[simp] theorem State.dropCmd_phys : (s.dropCmd k).phys = s.phys := rfl
@[simp] theorem State.dropCmd_mats : (s.dropCmd k).mats = s.mats := rfl
@[simp] theorem State.dropCmd_nextId : (s.dropCmd k).nextId = s.nextId := rfl
@[simp] theorem State.dropCmd_mem : (s.dropCmd k).mem = s.mem := rfl
@[simp] theorem State.dropCmd_flights : (s.dropCmd k).flights = s.flights := rfl
@[simp] theorem State.dropCmd_tlb : (s.dropCmd k).tlb = s.tlb := rfl
@[simp] theorem State.dropCmd_queues : (s.dropCmd k).queues = s.queues := rfl
@[simp] theorem State.dropCmd_hg : (s.dropCmd k).hg = s.hg := rfl
@[simp] theorem State.dropCmd_parts : (s.dropCmd k).parts = s.parts := rfl
@[simp] theorem State.dropCmd_pool : (s.dropCmd k).pool = s.pool := rfl
@[simp] theorem State.dropCmd_host : (s.dropCmd k).host = s.host := rfl
@[simp] theorem State.dropCmd_smc : (s.dropCmd k).smc = s.smc := rfl
@[simp] theorem State.dropCmd_fenced : (s.dropCmd k).fenced = s.fenced := rfl

/-! ### stall -/

@[simp] theorem State.stall_now : s.stall.now = s.now := rfl
@[simp] theorem State.stall_agenda : s.stall.agenda = s.agenda := rfl
@[simp] theorem State.stall_who : s.stall.who = s.who := rfl
@[simp] theorem State.stall_threads : s.stall.threads = s.threads := rfl
@[simp] theorem State.stall_evicted : s.stall.evicted = s.evicted := rfl
@[simp] theorem State.stall_lgs : s.stall.lgs = s.lgs := rfl
@[simp] theorem State.stall_cores : s.stall.cores = s.cores := rfl
@[simp] theorem State.stall_crews : s.stall.crews = s.crews := rfl
@[simp] theorem State.stall_tiles : s.stall.tiles = s.tiles := rfl
@[simp] theorem State.stall_scratch : s.stall.scratch = s.scratch := rfl
@[simp] theorem State.stall_sectors : s.stall.sectors = s.sectors := rfl
@[simp] theorem State.stall_phys : s.stall.phys = s.phys := rfl
@[simp] theorem State.stall_cmds : s.stall.cmds = s.cmds := rfl
@[simp] theorem State.stall_mats : s.stall.mats = s.mats := rfl
@[simp] theorem State.stall_nextId : s.stall.nextId = s.nextId := rfl
@[simp] theorem State.stall_mem : s.stall.mem = s.mem := rfl
@[simp] theorem State.stall_flights : s.stall.flights = s.flights := rfl
@[simp] theorem State.stall_tlb : s.stall.tlb = s.tlb := rfl
@[simp] theorem State.stall_queues : s.stall.queues = s.queues := rfl
@[simp] theorem State.stall_hg : s.stall.hg = s.hg := rfl
@[simp] theorem State.stall_parts : s.stall.parts = s.parts := rfl
@[simp] theorem State.stall_pool : s.stall.pool = s.pool := rfl
@[simp] theorem State.stall_host : s.stall.host = s.host := rfl
@[simp] theorem State.stall_smc : s.stall.smc = s.smc := rfl
@[simp] theorem State.stall_fenced : s.stall.fenced = s.fenced := rfl

end Sys2Proof.Machine
end

