-- ==== Sys2Proof/Laws/Exec.lean ====
section
/-!
SUPPORT. Laws of threads under the state's updates, and of the frame that every instruction word's meaning has: what
`word` answers, what `retire` and the writes of registers leave.
-/
namespace Sys2Proof.Machine

theorem State.thread?_modThread (s : State) (k j : Nat) (f : Thread → Thread) :
    (s.modThread k f).thread? j = if j = k then (s.thread? j).map f else s.thread? j := NMap.find?_modify s.threads k j f

theorem State.thread?_setThread (s : State) (k j : Nat) (t : Thread) :
    (s.setThread k t).thread? j = if j = k then some t else s.thread? j := NMap.find?_set s.threads k j t

@[simp] theorem State.thread?_popTodo (s : State) (k j : Nat) : (s.popTodo k).thread? j = s.thread? j := rfl
@[simp] theorem State.thread?_leave (s : State) (k j : Nat) : (s.leave k).thread? j = s.thread? j := rfl
@[simp] theorem State.thread?_stall (s : State) (j : Nat) : s.stall.thread? j = s.thread? j := rfl
@[simp] theorem State.thread?_modLg (s : State) (n j : Nat) (f : LaneGroup → LaneGroup) : (s.modLg n f).thread? j = s.thread? j := rfl
@[simp] theorem State.thread?_modCrew (s : State) (n j : Nat) (f : Crew → Crew) : (s.modCrew n f).thread? j = s.thread? j := rfl
@[simp] theorem State.thread?_setPart (s : State) (n j : Nat) (p : Part) : (s.setPart n p).thread? j = s.thread? j := rfl
@[simp] theorem State.thread?_modPart (s : State) (n j : Nat) (f : Part → Part) : (s.modPart n f).thread? j = s.thread? j := rfl
@[simp] theorem State.thread?_modQueue (s : State) (n j : Nat) (f : Queue → Queue) : (s.modQueue n f).thread? j = s.thread? j := rfl

/-- A word that issues performs its own effect. -/
theorem word_issues {s : State} {i : Instr} {k : Nat} {t : Thread} (h : s.issues i k t) (f : Nat → Thread → State) :
    word i s f = .next (f k t) := by
  obtain ⟨a, b, c⟩ := h; simp [word, a, b, c]

/-- A word that the checks decide has their answer. -/
theorem word_gate {s u : State} {i : Instr} {k : Nat} {t : Thread} (a : s.cur? = some k) (b : s.thread? k = some t)
    (c : s.gate i k t = some u) (f : Nat → Thread → State) : word i s f = .next u := by simp [word, a, b, c]

/-- A word of a thread that is there answers a next state. -/
theorem word_goes {s : State} {i : Instr} {k : Nat} {t : Thread} (a : s.cur? = some k) (b : s.thread? k = some t)
    (f : Nat → Thread → State) : goesOn (word i s f) := by
  simp only [word, a, b]; cases s.gate i k t <;> exact ⟨_, rfl⟩

/-- What a word answers, for every word: its thread is not there, or the checks decide, or its own effect. -/
theorem word_cases (i : Instr) (s : State) (f : Nat → Thread → State) :
    (word i s f = .fault .noThread) ∨
    (∃ k t u, s.cur? = some k ∧ s.thread? k = some t ∧ s.gate i k t = some u ∧ word i s f = .next u) ∨
    (∃ k t, s.issues i k t ∧ word i s f = .next (f k t)) := by
  simp only [word]
  cases a : s.cur? with
  | none => exact .inl rfl
  | some k =>
    cases b : s.thread? k with
    | none => exact .inl (by simp [b])
    | some t =>
      cases c : s.gate i k t with
      | some u => exact .inr (.inl ⟨k, t, u, rfl, b, c, by simp [b, c]⟩)
      | none => exact .inr (.inr ⟨k, t, ⟨a, b, c⟩, by simp [b, c]⟩)

@[simp] theorem State.replaying_modThread (s : State) (k : Nat) (f : Thread → Thread) : (s.modThread k f).replaying = s.replaying := rfl

/-- What a change of the thread and its retirement leave: `did`. -/
theorem State.did_retire {s : State} {k : Nat} {t : Thread} (h : s.thread? k = some t) (f : Thread → Thread) :
    s.did ((s.modThread k f).retire k) k (s.after (f t)) := by
  unfold State.did State.retire State.after
  rw [State.replaying_modThread]
  by_cases r : s.replaying = true
  · simp only [r, if_true]
    exact ⟨by simp [State.thread?_modThread, h], fun j hj => by simp [State.thread?_modThread, hj], rfl⟩
  · simp only [r]
    exact ⟨by simp [State.thread?_modThread, h], fun j hj => by simp [State.thread?_modThread, hj], rfl⟩

/-- The same with no change of the thread before. -/
theorem State.did_retire_self {s : State} {k : Nat} {t : Thread} (h : s.thread? k = some t) : s.did (s.retire k) k (s.after t) := by
  unfold State.did State.retire State.after
  by_cases r : s.replaying = true
  · simp only [r, if_true]
    exact ⟨by simp [h], fun j _ => rfl, rfl⟩
  · simp only [r]
    exact ⟨by simp [State.thread?_modThread, h], fun j hj => by simp [State.thread?_modThread, hj], rfl⟩

/-- What a long-latency word leaves after a change of its thread: `did`. -/
theorem State.did_issueLong {s : State} {k : Nat} {t : Thread} (h : s.thread? k = some t) (f : Thread → Thread) (la : Nat)
    (o : Outst) : s.did ((s.modThread k f).issueLong k la o) k (s.afterLong (f t) la o) := by
  have e : ((s.modThread k f).retire k).replaying = s.replaying := by
    unfold State.retire State.replaying State.modThread State.popTodo
    cases s.issue with
    | none => rfl
    | some b => cases hb : b.replay.isSome <;> simp [hb]
  unfold State.did State.issueLong State.afterLong
  simp only [e]
  unfold State.retire
  rw [State.replaying_modThread]
  by_cases r : s.replaying = true
  · simp only [r, if_true]
    exact ⟨by simp [State.thread?_modThread, h], fun j hj => by simp [State.thread?_modThread, hj], rfl⟩
  · simp only [r]
    exact ⟨by simp [State.thread?_modThread, h]; rfl, fun j hj => by simp [State.thread?_modThread, hj], rfl⟩

end Sys2Proof.Machine
end

