-- ==== Sys2Proof/Laws/Memory.lean ====
section
/-!
SUPPORT. Laws of global memory: what a store leaves at every place in coherence order, and that every operation that settles
stores keeps the canonical form of memory.
-/
namespace Sys2Proof.Machine

/-- A read after a write of many bytes. -/
theorem Memory.read_writeAll (p : Nat) : (cs : List Host.Cell) → (m : Memory) → m.wf = true →
    (m.writeAll cs).read p = (cellAt cs p).getD (m.read p)
  | [], _, _ => rfl
  | (a, b) :: cs, m, h => by
    have ih := Memory.read_writeAll p cs (m.write a b) (Memory.wf_write m a b h)
    simp only [Memory.writeAll, cellAt] at ih ⊢
    rw [ih, Memory.read_write m a p b h]
    cases cellAt cs p with
    | some x => rfl
    | none => by_cases e : p = a <;> simp [e, eq_comm]

theorem settle_wf : (fs : List Flight) → (m : Memory) → m.wf = true → (settle fs m).2.wf = true
  | [], _, h => h
  | f :: fs, m, h => by
    simp only [settle]
    split
    · exact settle_wf fs _ (Memory.wf_writeAll f.bytes m h)
    · exact h

/-- Settling the oldest stores leaves every place as it was in coherence order. -/
theorem lastOf_settle (p : Nat) : (fs : List Flight) → (m : Memory) → m.wf = true →
    lastOf p ((settle fs m).2.read p) (settle fs m).1 = lastOf p (m.read p) fs
  | [], _, _ => rfl
  | f :: fs, m, h => by
    simp only [settle]
    split
    · rw [lastOf_settle p fs (m.apply f.bytes) (Memory.wf_writeAll f.bytes m h)]
      simp only [lastOf, Memory.apply, Memory.read_writeAll p f.bytes m h]
    · rfl

/-- Making stores visible leaves every place as it was in coherence order. -/
theorem lastOf_showFlights (p : Nat) (owed : Owed) : (fs : List Flight) → (old : Byte) →
    lastOf p old (showFlights owed fs).1 = lastOf p old fs
  | [], _ => rfl
  | f :: fs, old => by
    simp only [showFlights, lastOf]
    exact lastOf_showFlights p owed fs _

theorem lastOf_append (p : Nat) (g : Flight) : (fs : List Flight) → (old : Byte) →
    lastOf p old (fs ++ [g]) = (cellAt g.bytes p).getD (lastOf p old fs)
  | [], _ => rfl
  | _ :: fs, _ => lastOf_append p g fs _

@[simp] theorem State.mem_modPart (s : State) (n : Nat) (f : Part → Part) : (s.modPart n f).mem = s.mem := rfl
@[simp] theorem State.flights_modPart (s : State) (n : Nat) (f : Part → Part) : (s.modPart n f).flights = s.flights := rfl

/-- A fold whose steps keep a measure keeps it. -/
theorem foldl_keeps {α β γ : Type} (g : α → γ) (f : α → β → α) (h : ∀ a b, g (f a b) = g a) :
    (l : List β) → (a : α) → g (l.foldl f a) = g a
  | [], _ => rfl
  | b :: l, a => by rw [List.foldl_cons, foldl_keeps g f h l, h]

/-- Memory and the stores under way. -/
def State.stores (s : State) : Memory × List Flight := (s.mem, s.flights)

theorem State.markDirty_stores (s : State) (p : Nat) : (s.markDirty p).stores = s.stores := by
  unfold State.markDirty
  refine foldl_keeps State.stores _ (fun st vf => ?_) _ s
  split
  · split <;> rfl
  · rfl

theorem State.markCells_stores (s : State) (bs : List Host.Cell) : (s.markCells bs).stores = s.stores :=
  foldl_keeps State.stores (fun (st : State) (c : Host.Cell) => st.markDirty c.1) (fun st c => st.markDirty_stores c.1) bs s

theorem State.markAll_stores (s : State) (fs : List Flight) :
    (fs.foldl (fun st f => st.markCells f.bytes) s).stores = s.stores :=
  foldl_keeps State.stores (fun (st : State) (f : Flight) => st.markCells f.bytes) (fun st f => st.markCells_stores f.bytes) fs s

theorem State.showAll_mem (s : State) (l : List (Nat × Nat)) :
    (s.showAll l).mem = (settle (showFlights { byWriter := [], byId := l } s.flights).1 s.mem).2 ∧
    (s.showAll l).flights = (settle (showFlights { byWriter := [], byId := l } s.flights).1 s.mem).1 := by
  have h := State.markAll_stores
    { s with flights := (settle (showFlights { byWriter := [], byId := l } s.flights).1 s.mem).1
             mem := (settle (showFlights { byWriter := [], byId := l } s.flights).1 s.mem).2 }
    ((showFlights { byWriter := [], byId := l } s.flights).1.filter fun f =>
      f.atDev && (s.flights.any fun g => g.id == f.id && !g.atDev))
  exact ⟨congrArg Prod.fst h, congrArg Prod.snd h⟩

/-- Making stores visible keeps memory canonical. -/
theorem State.showAll_wf (s : State) (l : List (Nat × Nat)) (h : s.mem.wf = true) : (s.showAll l).mem.wf = true := by
  rw [(State.showAll_mem s l).1]; exact settle_wf _ _ h

/-- Making stores visible leaves every place as it was in coherence order. -/
theorem State.showAll_last (s : State) (l : List (Nat × Nat)) (h : s.mem.wf = true) (p : Nat) :
    (s.showAll l).lastByte p = s.lastByte p := by
  unfold State.lastByte
  rw [(State.showAll_mem s l).1, (State.showAll_mem s l).2, lastOf_settle p _ _ h, lastOf_showFlights]

/-- A store that is performed: in coherence order its bytes are stored and every other place is as it was. -/
theorem State.storeAt_stored (s : State) (w : Writer) (m : Nat) (bs : List Host.Cell) (need : List (Nat × Nat))
    (atom : Option (Nat × Nat)) (vf : Nat) (h : s.mem.wf = true) : s.stored (s.storeAt w m bs need atom vf) bs := by
  intro p
  unfold State.storeAt
  rw [State.showAll_last (s.addFlight w bs need atom vf) _ h p]
  simp only [State.lastByte, State.addFlight, lastOf_append]

theorem State.showIds_last (s : State) (ids : List Nat) (m : Nat) (h : s.mem.wf = true) (p : Nat) :
    (s.showIds ids m).lastByte p = s.lastByte p := by
  unfold State.showIds; split
  · rfl
  · exact State.showAll_last _ _ h p

theorem State.showIds_wf (s : State) (ids : List Nat) (m : Nat) (h : s.mem.wf = true) : (s.showIds ids m).mem.wf = true := by
  unfold State.showIds; split
  · exact h
  · exact State.showAll_wf _ _ h

theorem State.storeAt_wf (s : State) (w : Writer) (m : Nat) (bs : List Host.Cell) (need : List (Nat × Nat))
    (atom : Option (Nat × Nat)) (vf : Nat) (h : s.mem.wf = true) : (s.storeAt w m bs need atom vf).mem.wf = true :=
  State.showAll_wf _ _ h

/-- An atomic's write: its bytes are stored and every other place is as it was. -/
theorem State.writeAtom_stored (s : State) (w : Writer) (o m : Nat) (bs : List Host.Cell) (need : List (Nat × Nat)) (vf : Nat)
    (h : s.mem.wf = true) : s.stored (s.writeAtom w o m bs need vf) bs := by
  intro p
  unfold State.writeAtom
  rw [State.storeAt_stored _ _ _ _ _ _ _ (State.showIds_wf _ _ _ h) p, State.showIds_last _ _ _ h]

/-- The oldest store of a queue leaves it: its bytes are stored and every other place is as it was. -/
theorem State.drainStore_stored (s : State) (k : Nat) (t : Thread) (q : StoreQ) (qs : List StoreQ) (ht : s.thread? k = some t)
    (hq : t.storeq = q :: qs) (h : s.mem.wf = true) : s.stored (s.drainStore k) q.bytes := by
  unfold State.drainStore
  simp only [ht, hq]
  intro p
  rw [State.storeAt_stored (s.setThread k { t with storeq := qs }) (t.writer k) (leaveMask (coreOf k) q.bytes) q.bytes q.need none t.vf h p]
  rfl

end Sys2Proof.Machine
end

