-- ==== Sys2Proof/Laws/Translate.lean ====
section
/-!
SUPPORT. Laws of translation: what a walk, an access and a clause fetch depend on, so that a change of threads, bundles, crews or
engines leaves them as they were.
-/
namespace Sys2Proof.Machine

/-- Two states agree on everything that translation and global memory depend on. -/
def State.sameView (s u : State) : Prop :=
  u.mem = s.mem ∧ u.flights = s.flights ∧ u.tlb = s.tlb ∧ u.parts = s.parts ∧ u.pool = s.pool ∧ u.host = s.host

theorem State.readByte_view {s u : State} (h : s.sameView u) : u.readByte = s.readByte := by
  funext o p; simp only [State.readByte, h.1, h.2.1]

theorem State.readBytes_view {s u : State} (h : s.sameView u) (o p n : Nat) : u.readBytes o p n = s.readBytes o p n := by
  induction n generalizing p with
  | zero => rfl
  | succ n ih => simp only [State.readBytes, State.readByte_view h, ih]

theorem State.part_view {s u : State} (h : s.sameView u) : u.part = s.part := by
  funext v; simp only [State.part, h.2.2.2.1]

theorem State.poolView_view {s u : State} (h : s.sameView u) : u.poolView = s.poolView := by
  simp only [State.poolView, State.poolBlock, State.poolCount, State.poolBase, h.2.2.2.2.1, h.2.2.2.2.2]

theorem State.place_view {s u : State} (h : s.sameView u) : u.place = s.place := by
  funext v p; simp only [State.place, State.part_view h, State.poolView_view h, h.2.2.2.2.2]

theorem State.iommuRefuses_view {s u : State} (h : s.sameView u) : u.iommuRefuses = s.iommuRefuses := by
  funext vf tgt key; simp only [State.iommuRefuses, h.2.2.2.2.2]

theorem State.sentCause_view {s u : State} (h : s.sameView u) : u.sentCause = s.sentCause := by
  funext vf tgt key ports; simp only [State.sentCause, State.iommuRefuses_view h, h.2.2.2.2.2]

theorem State.sendTo_view {s u : State} (h : s.sameView u) : u.sendTo = s.sendTo := by
  funext vf va l; simp only [State.sendTo, State.sentCause_view h]

theorem State.walk_view {s u : State} (h : s.sameView u) (o vf va : Nat) (ls : List Level) (table : Nat) :
    u.walk o vf va ls table = s.walk o vf va ls table := by
  induction ls generalizing table with
  | nil => rfl
  | cons l ls ih => simp only [State.walk, State.place_view h, State.sentCause_view h, State.readBytes_view h, ih]

theorem State.leafFor_view {s u : State} (h : s.sameView u) : u.leafFor = s.leafFor := by
  funext o vf core va
  simp only [State.leafFor, State.cached?, h.2.2.1, State.walk_view h, State.part_view h]

theorem State.xlate_view {s u : State} (h : s.sameView u) : u.xlate = s.xlate := by
  funext o vf core va acc
  simp only [State.xlate, State.leafFor_view h, State.place_view h, State.part_view h]

theorem State.access_view {s u : State} (h : s.sameView u) : u.access = s.access := by
  funext o vf core va acc
  simp only [State.access, State.xlate_view h, State.sendTo_view h]

theorem State.codeWord_view {s u : State} (h : s.sameView u) : u.codeWord = s.codeWord := by
  funext vf core va
  simp only [State.codeWord, State.access_view h, State.readBytes_view h]

theorem State.notHeader_view {s u : State} (h : s.sameView u) : u.notHeader = s.notHeader := by
  funext vf core va
  simp only [State.notHeader, State.codeWord_view h]

/-- A change of the issuing bundle and of threads leaves the view. -/
theorem State.sameView_issue (s : State) (b : Option Bundle) (ts : NMap Thread) : s.sameView { s with issue := b, threads := ts } :=
  ⟨rfl, rfl, rfl, rfl, rfl, rfl⟩

/-- So does any change of threads, crews, bundles, scratchpad, sectors, tiles and commands. -/
theorem State.sameView_refl (s : State) : s.sameView s := ⟨rfl, rfl, rfl, rfl, rfl, rfl⟩

end Sys2Proof.Machine
end

