-- ==== Sys2Proof/Tests/Slice0.lean ====
section
/-!
SUPPORT. The model's own tests: what the well-formedness check refuses, words written out from the spec's encodings, one step of
instructions on a small state, and a state that meets the hypotheses of each statement.
-/
namespace Sys2Proof.Tests
open Sys2Proof Sys2Proof.Machine
set_option Elab.async false

/-- The guard that is always true. -/
def g : Guard := { pn := false, ps := 7 }

/-- A privileged thread of crew 0 with 4 register blocks, at the first word of a clause at 0x30000, with these registers. -/
def th (regs : List Word) : Thread :=
  { newThread 0 0 0 0x30000 4 [0, 1, 2, 3] true 0 with
    pc := 0x30008, regs := regs ++ List.replicate (32 - regs.length) 0 }

/-- The crew of the thread: two gangs in a team, 4 rows of scratchpad, two of them pool rows, one tile and queue 5, whose write buffer
has two rows more. -/
def cr0 : Crew := newCrew 0 { fetchKernel with
  gangs := 2, team := 2, lgrps := [0, 0], staticRows := 2, poolRows := 2, tiles := 1, physTiles := [3], queues := [{ q := 5, qcfg := 0 }] } 1

/-- Thread k issues a word in the state; its crew is crew 0 of its core. -/
def atK (k : Nat) (t : Thread) : State :=
  { State.reset with
    threads := [(k, t)], crews := [(coreOf k * 64, cr0)]
    issue := some { fetchBundle 0 with core := coreOf k, lgrp := lgrpOf k, members := [k], todo := [k] } }

/-- Thread 0 of core 0 issues a word in the state. -/
def at0 (t : Thread) : State := atK 0 t

/-- Thread 0 issues the word. -/
abbrev ok0 (i : Instr) (t : Thread) : Prop := (at0 t).issues i 0 t

/-- A cached page of 1 GiB at VA 0 that partition 0 may read and write, at the start of its memory. -/
def page0 : TlbEnt := { vf := 0, core := 0, va := 0, size := 2 ^ 30, leaf := 0xF, pte := 0x20000 }

/-- The state with memory: partition 0 has 2 GiB of HBM, the page at VA 0 is cached for cores 0 and 128 and
the hub, and these bytes stand in it. -/
def withMem (s : State) (cells : List Host.Cell) : State :=
  { s with
    parts := [(0, { Part.reset with desc := 0x4000000000000000001, everRun := true })]
    tlb := [0, 128, hubCore].map fun c => { page0 with core := c }, mem := Memory.writeAll [] cells }

/-- What thread 0 is after a word that completes. -/
def run0 (i : Instr) (t : Thread) : Option Thread :=
  match exec i (at0 t) with
  | .next u => u.thread? 0
  | _ => none

/-- The state after a word or an event that completes. -/
def after (i : Instr) (s : State) : State :=
  match exec i s with
  | .next u => u
  | _ => s

/-- The command that a word has left with a unit. -/
def cmdOf (i : Instr) (s : State) : Option Cmd := (after i s).cmds.head?

/-! ### Words written out from the spec's encodings (R143 to R147, R154 and each instruction's own entry) -/

/-- Each word decodes to the instruction beside it. -/
def reads (l : List (DWord × Instr)) : Bool := l.all fun x => decide (decode x.1 = .instr x.2)

theorem test_decodeControl : reads [
    (0x000F000000000000, .nop { pn := true, ps := 7 }), (0x010A0000FFFFFFF1, .bra { pn := true, ps := 2 } .likely 0x3FFFFFFC),
    (0x02070000FFFFFF64, .jmp g 0x3FFFFFD9), (0x0307000400000000, .jmpi g 4), (0x04070600FFFFFFF8, .call g 6 0x3FFFFFFE),
    (0x0507060400000000, .calli g 6 4), (0x0607000600000000, .ret g 6), (0x0707000000000000, .exit g), (0x0807000000000008, .enter g 8),
    (0x0907000000000020, .grow g 32), (0x0A07000000000001, .shrink g 1), (0x0B07000900000000, .join g 9), (0x0C07000000000000, .yield g),
    (0x0D0700000000FFFF, .bkpt g 0xFFFF), (0x0E07000000000001, .trap g 1), (0x0F0700000000002A, .sys g 0x2A), (0x1007000000000000, .rett g),
    (0x1007000800000001, .rettTgt g 8)] = true := by decide +kernel

theorem test_decodeInteger : reads [
    (0x200707050A000000, .iadd g 7 5 10), (0x210707050A000000, .isub g 7 5 10), (0x220707050A000000, .imul g 7 5 10),
    (0x23070B0A1D000001, .imin g true 11 10 29), (0x240707050A000000, .imax g false 7 5 10), (0x250707050A000000, .and g 7 5 10),
    (0x260707050A000000, .or g 7 5 10), (0x270707050A000000, .xor g 7 5 10), (0x280707050A000000, .andn g 7 5 10),
    (0x290707050A000000, .shl g 7 5 10), (0x2A0707050A000000, .shr g 7 5 10), (0x2B0707050A000000, .sar g 7 5 10),
    (0x2C0707050A000000, .rot g 7 5 10), (0x2D0706040A000000, .iadd64 g 6 4 10), (0x4007090105010001, .iaddc g true 9 1 5 1),
    (0x410707050A000001, .imulh g true 7 5 10), (0x420707050A0B0000, .imad g 7 5 10 11), (0x4307070500000000, .iabs g 7 5),
    (0x4407070500000000, .ineg g 7 5), (0x4507070500000000, .not g 7 5), (0x460707050A0B0001, .shf g true 7 5 10 11),
    (0x470707050A000001, .bfx g true 7 5 10), (0x480707050A0B0000, .bfi g 7 5 10 11), (0x4907070500000000, .popc g 7 5),
    (0x4A07070500000000, .clz g 7 5), (0x4B07070500000000, .ctz g 7 5), (0x4C07070500000000, .brev g 7 5),
    (0x4D0707050A0B0000, .prmt g 7 5 10 11), (0x4E07071D0B020000, .sel g 7 29 11 2), (0x4F0703090503001A, .isetp g .lt true .and 3 9 5 3),
    (0x5007030001020096, .plop g 3 0 1 2 0x96), (0x5107070500000000, .mov g 7 5), (0x5207050000000040, .movi g 5 0x40),
    (0x530707000000000D, .movsv g 7 .priv), (0x540706040A00000B, .lea g 3 true 6 4 10), (0x550706050A000001, .imul64 g true 6 5 10)] = true := by decide +kernel

theorem test_decodeImmediates : reads [
    (0x30070B04FFFFFF83, .iaddI g 11 4 0xFFFFFF83), (0x3107070500000009, .isubI g 7 5 9), (0x3207070500000009, .imulI g 7 5 9),
    (0x3307070500000009, .iminI g 7 5 9), (0x3407070500000009, .imaxI g 7 5 9), (0x350711100000000F, .andI g 17 16 0xF),
    (0x3607070500000009, .orI g 7 5 9), (0x3707070500000009, .xorI g 7 5 9), (0x3807070500000009, .andnI g 7 5 9),
    (0x3907070500000009, .shlI g 7 5 9), (0x3A07070500000009, .shrI g 7 5 9), (0x3B07070500000009, .sarI g 7 5 9),
    (0x3C07070500000009, .rotI g 7 5 9), (0x3D07060400000009, .iadd64I g 6 4 9), (0x800707053F800000, .faddI g 7 5 0x3F800000),
    (0x810707053F800000, .fsubI g 7 5 0x3F800000), (0x820707053F800000, .fmulI g 7 5 0x3F800000),
    (0x830707053F800000, .fminI g 7 5 0x3F800000), (0x840707053F800000, .fmaxI g 7 5 0x3F800000)] = true := by decide +kernel

theorem test_decodeFloat : reads [
    (0x600707070A000001, .fadd g .rtz 7 7 10), (0x610707050A000002, .fsub g .rup 7 5 10), (0x620707050A000003, .fmul g .rdn 7 5 10),
    (0x63072D24252D0000, .ffma g .rne 45 36 37 45), (0x640707050A000000, .fmin g 7 5 10), (0x650707050A000000, .fmax g 7 5 10),
    (0x660701050A020026, .fsetp g .unord .or 1 5 10 2), (0x6707070500000000, .fclass g 7 5), (0x6807070500000003, .frnd g .rdn 7 5),
    (0x692707050A000000, .fdiv g 2 .rne 7 5 10), (0x6A17070500000001, .rcp g 1 .rtz 7 5), (0x6B17070500000001, .rsq g 1 .rtz 7 5),
    (0x6C17070500000001, .sqrt g 1 .rtz 7 5), (0x6D07323200000000, .exp2 g 0 .rne 50 50), (0x6E17070500000001, .log2 g 1 .rtz 7 5),
    (0x6F17070500000001, .sint g 1 .rtz 7 5), (0x7017070500000001, .cost g 1 .rtz 7 5), (0x710707050A000004, .hadd2 g .rne true 7 5 10),
    (0x720707050A000001, .hmul2 g .rtz false 7 5 10), (0x730707050A0B0004, .hfma2 g .rne true 7 5 10 11),
    (0x740707050A0B0005, .dp4 g true false true 7 5 10 11), (0x750707050A0B0002, .dp8 g false true false 7 5 10 11),
    (0x760707050A0B0009, .dpf8 g .rtz false true 7 5 10 11), (0x77070504200000C0, .cvt g .rne .f32 .f8a false false 0 2 5 4 0),
    (0x7807060409000000, .qnt g .i8 false 6 4 9 0)] = true := by decide +kernel

theorem test_decodeMemory : reads [
    (0x90070C043BFFFFF8, .ld g 0 .s16 true .dev 12 4 0xFFFFF8), (0x91070A024D000040, .st g .b64 true .sys 10 2 0x40),
    (0x9017070484000010, .ldMap g 1 .b32 7 4 0x10), (0x9107070484000010, .stMap g .b32 7 4 0x10),
    (0x9207100206000100, .lds g 0 .b128 16 2 0x100), (0x9306181E0400001C, .sts { pn := false, ps := 6 } .b32 24 30 0x1C),
    (0x9407070404000005, .ldt g 0 7 4 5), (0x9507000404000040, .pref g 4 0x40), (0x96071404080005C8, .atom g 0 .max true .dev .acq 20 4 8),
    (0x970707050A0B0030, .atoms g 0 .cas false 7 5 10 11), (0x980700040A000980, .red g .add false .dev true 4 10),
    (0x99070004080603C0, .xadd g 0 0xC0 .dev false 0 4 8 6), (0x9A0708040A0C0E40, .cas g 0 true .sys .ar 8 4 10 12),
    (0x9B07000000000D80, .fence g .dev .sc), (0x9C07000406000000, .seal g 4 6), (0x9D07070406000000, .unseal g 7 4 6),
    (0x9E091A1300000000, .spalloc { pn := true, ps := 1 } 26 19), (0x9F01001A00000000, .spfree { pn := false, ps := 1 } 26),
    (0xA007070500000000, .sectQuery g 7 5), (0xA007000C00000001, .sectClr g 12), (0xA007000500000002, .sectSet g 5),
    (0xA107000400000000, .tlbinvPage g 4), (0xA107000406000001, .tlbinvRange g 4 6), (0xA107000000000002, .tlbinvAll g),
    (0xA207040600000000, .dlog g 4 6)] = true := by decide +kernel

theorem test_decodeLanes : reads [
    (0xB007090803190001, .shfl g .up false 9 8 3 25), (0xB1070B0100190002, .vote g .ballot 11 1 25),
    (0xB2070C0A00190000, .scan g .rne .iadd false 12 10 25), (0xB307060500090020, .redx g .rne .fadd 6 5 9),
    (0xB407070400090001, .matchx g true 7 4 9), (0xB507030000090000, .elect g 3 9), (0xB607000000020180, .cbar g .dev 2),
    (0xB603001011010001, .cbarArm { pn := false, ps := 3 } 1 16 17), (0xB807090400000000, .rand g 9 4), (0xB907090400000000, .randf g 9 4)] = true := by decide +kernel

theorem test_decodeCopyEngines : reads [
    (0xC007140400000182, .acpL g 0 1 0x18 false 20 4 0), (0xC002061200000145, .acpS { pn := false, ps := 2 } 0 2 20 false 6 18 0),
    (0xC107000000000002, .await g 2), (0xC207050000000002, .kcnt g 5 2), (0xC3070C0410062000, .bcp g 2 .load false false 12 4 16 6),
    (0xC4070C0410061003, .mcast g 1 3 false 12 4 16 6),
    (0xC5011713141C0001, .kvg { pn := false, ps := 1 } 0 true false false false 23 19 20 28), (0xC607000406000027, .kva g 0 7 true 4 6 0),
    (0xC707030408062009, .drain g 2 .fadd false true 3 4 8 6), (0xC801000C00000000, .job { pn := false, ps := 1 } 12),
    (0xC907000400000000, .sigdec g 4), (0xCA07000406000000, .sigadd g 4 6), (0xCB07000408000001, .sigwait g .le 4 8),
    (0xCC17060400000000, .sigread g 1 6 4)] = true := by decide +kernel

theorem test_decodeMatrix : reads [
    (0xD007000000020001, .conv g 2 1), (0xD10700081801288B, .mma g .f8 true false false false true 40 0 8 24 1),
    (0xD207011005000002, .mmas g .i8 false false false false false 0 1 16 5 0), (0xD307030000000001, .aclr g true 3),
    (0xD4070300000000C0, .anch g 3 0xC0), (0xD527031409000000, .aget g 2 .rne false false 3 20 9), (0xD607030C09000000, .aput g 3 12 9),
    (0xD707030609000000, .aflag g false 3 6 9)] = true := by decide +kernel

theorem test_decodeSegments : reads [
    (0xE00703080C000000, .segnew g 3 8 12), (0xE007070500000001, .segnewDel g 7 5), (0xE107000300000000, .segseal g 3),
    (0xE207000300060000, .segsum g false 3 6), (0xE307020408000001, .link g true 2 4 8), (0xE407020409000000, .unlink g 2 4 9),
    (0xE507000408140000, .kvr g 4 8 20), (0xE60707040C000002, .rstat g .prc 7 4 12), (0xE7070605090A0004, .rotq g true 6 5 9 10),
    (0xE807010406080000, .anc g 1 4 6 8), (0xE9070C0408000000, .psel g 12 4 8), (0xEA070C0408000002, .topk g false true 12 4 8),
    (0xEB070C0408000001, .topp g true false 12 4 8), (0xEC07020408000000, .tmrg g 2 4 8), (0xED0700020C0E0000, .tunm g 2 12 14),
    (0xEE07060200000000, .tmapInfo g 6 2), (0xEE07000200000001, .tmapFree g 2), (0xEE07070500000002, .tmapParent g 7 5),
    (0xEF07060500000000, .szb g .rne 6 5)] = true := by decide +kernel

theorem test_decodeTasks : reads [
    (0xF0071000030F0000, .tpop g false false 16 3 15), (0xF107000809000000, .tspawn g 8 9), (0xF207000000000000, .tdone g 0),
    (0xF301000000000000, .tsplit { pn := false, ps := 1 }), (0xF407000000000000, .tabort g), (0xF407000000000001, .tabortRq g),
    (0xF507100000000000, .tstat g .last 16 0)] = true := by decide +kernel

theorem test_decodeSystem : reads [
    (0xF807060000001013, .mfx g true 0x013 6), (0xF907000600001013, .mtx g true 0x013 6), (0xF907000500000100, .furcfgWrite g 5),
    (0xF807070000000101, .uniformMissRead g 7), (0xF807060000001201, .haltrecRead g 6), (0xF907000400001206, .trareaWrite g false 4),
    (0xF907000500000207, .trareaWrite g true 5), (0xF907000400001208, .fqcfgWrite g 4), (0xF90700050000020A, .poolfree g 5),
    (0xF80706000000120B, .poolstatRead g 6), (0xF90700040000120D, .qcfgrWrite g 4), (0xF90700040000120E, .qspillrWrite g 4),
    (0xF90700050000020F, .qstatWrite g 5), (0xFA07000000000000, .quiesceStop g), (0xFA07040608000001, .quiesceSave g 4 6 8),
    (0xFB07000000000000, .resumeRun g), (0xFB07000600000001, .resumeLoad g 6), (0xFB070408000A0002, .resumeThreads g 4 8 10),
    (0xFC070408090A0000, .evict g 4 8 9 10), (0xFD0700000000002A, .halt g 0x2A), (0xFE07000400060000, .smcallSensor g 4 6),
    (0xFE07000400060001, .smcallLogput g 4 6), (0xFE07000400060002, .smcallLogget g 4 6), (0xFE07000400060003, .smcallQuote g 4 6),
    (0xFE07000400060004, .smcallPowercap g 4 6)] = true := by decide +kernel

theorem test_decodeRefuses :
    decode 0x1107000000000000 = .illegalOpcode ∧ decode 0xD807000000000000 = .illegalOpcode ∧ decode 0xF607000000000000 = .illegalOpcode ∧
    decode 0x200707050A000001 = .illegalModifier ∧ decode 0x200707050A010000 = .illegalModifier ∧ decode 0x5207050100000040 = .illegalModifier ∧
    decode 0x5307070000000000 ≠ .illegalModifier ∧ decode 0x530707000000000E = .illegalModifier ∧ decode 0xA007000C00000003 = .illegalModifier ∧
    decode 0x9207100207000100 = .illegalModifier ∧ decode 0x9B07000000000180 = .illegalModifier ∧ decode 0xFE07000400060005 = .illegalModifier ∧
    decode 0xC807000400001000 = .illegalModifier := by decide +kernel

theorem test_encodeRefuses : encode .bundleForm = none ∧ encode (.coldReset 0) = none := by decide

/-! ### Ill-formed instructions, one for each check -/

/-- None of these is well formed. -/
def noneFormed (l : List Instr) : Bool := l.all fun i => !i.wellFormed

theorem test_illFormedControl : noneFormed [.jmpi g 5, .call g 5 0, .calli g 5 4, .calli g 4 5, .ret g 7, .rettTgt g 9, .enter g 0, .enter g 33,
    .grow g 0, .grow g 40, .shrink g 0, .shrink g 63] = true := by decide

theorem test_illFormedInteger : noneFormed [.iadd64 g 5 4 4, .iadd64 g 4 5 4, .iadd64 g 4 4 5, .iadd64I g 5 4 0, .iadd64I g 4 5 0,
    .isetp g .unord false .and 1 0 0 0, .isetp g .ord false .and 1 0 0 0, .isetp g .eq false .none 1 0 0 1, .lea g 0 false 5 4 0,
    .lea g 0 false 4 5 0, .imul64 g false 5 0 0] = true := by decide

theorem test_illFormedFloat : noneFormed [.fsetp g .eq .none 1 0 0 1, .cvt g .rne .f16 .f32 false false 2 0 1 2 0,
    .cvt g .rne .f32 .i4 false false 0 7 1 2 1, .cvt g .rne .f32 .f16 false false 0 2 1 2 0, .cvt g .rne .f32 .i8 true false 0 0 1 2 0,
    .cvt g .rne .i8 .f16 false true 0 0 1 2 3, .cvt g .rne .f32 .f32 false true 0 0 1 2 3, .cvt g .rtz .f32 .f16 false true 0 0 1 2 3,
    .cvt g .rne .f32 .f16 true true 0 0 1 2 3, .cvt g .rne .f32 .f16 false true 0 0 3 2 3, .qnt g .i8 true 6 4 9 6,
    .qnt g .i8 false 6 4 9 1] = true := by decide

theorem test_illFormedMemory : noneFormed [.ld g 0 .b64 false .crew 5 4 0, .ld g 0 .b128 false .crew 6 4 0, .ld g 0 .b32 false .dev 5 4 0,
    .ld g 0 .b32 false .crew 5 5 0, .st g .s8 false .crew 5 4 0, .st g .b64 false .crew 5 4 0, .st g .b32 false .sys 5 4 0,
    .st g .b32 false .crew 5 5 0, .ldMap g 0 .b64 5 4 0, .ldMap g 0 .b32 5 5 0, .stMap g .s16 5 4 0, .stMap g .b64 5 4 0, .stMap g .b32 5 5 0,
    .lds g 0 .b64 5 4 0, .lds g 0 .b32 5 5 0, .sts g .s8 5 4 0, .sts g .b64 5 4 0, .sts g .b32 5 5 0, .ldt g 0 5 6 0, .pref g 5 0,
    .atom g 0 .cas false .crew .none 5 4 8, .atom g 0 .fadd true .crew .none 6 4 8, .atom g 0 .add true .crew .none 5 4 8,
    .atom g 0 .add true .crew .none 6 4 7, .atom g 0 .add false .crew .none 5 5 8, .atoms g 0 .fmin true 6 5 8 0, .atoms g 0 .add true 5 5 8 0,
    .atoms g 0 .add true 6 5 7 0, .atoms g 0 .cas true 6 5 8 7, .atoms g 0 .add false 6 5 8 7, .red g .cas false .crew false 4 8,
    .red g .fmax true .crew false 4 8, .red g .add true .crew false 4 7, .red g .add false .crew false 5 8] = true := by decide

theorem test_illFormedSystemMemory : noneFormed [.xadd g 0 0 .crew false 0 5 8 6, .xadd g 0 0 .crew false 0 4 8 7, .xadd g 0 0 .crew false 0 4 6 6,
    .xadd g 0 0 .crew true 2 4 8 6, .xadd g 0 0 .crew false 4 4 8 6, .xadd g 1 0 .crew false 0 4 8 6, .cas g 0 false .crew .none 5 5 8 9,
    .cas g 0 true .crew .none 5 4 8 10, .cas g 0 true .crew .none 6 4 9 10, .cas g 0 true .crew .none 6 4 8 9, .seal g 5 4, .seal g 4 5,
    .unseal g 0 5 4, .unseal g 0 4 5, .tlbinvPage g 5, .tlbinvRange g 5 4, .tlbinvRange g 4 5, .dlog g 5 4] = true := by decide

theorem test_illFormedLanes : noneFormed [.shfl g .up true 5 4 0 9, .shfl g .up true 4 5 0 9, .vote g .all 8 0 9, .scan g .rtz .iadd false 6 5 9,
    .redx g .rup .fmax 6 5 9, .matchx g true 6 5 9, .rand g 9 6, .rand g 7 4, .randf g 9 6, .randf g 4 4] = true := by decide

theorem test_illFormedEngines : noneFormed [.acpL g 0 0 0 false 6 5 0, .acpL g 0 0 33 false 6 4 0, .acpL g 0 0 1 true 6 4 9, .acpL g 0 0 1 false 6 4 9,
    .acpS g 0 0 0 false 6 5 0, .acpS g 0 0 63 false 6 4 0, .acpS g 0 0 1 true 6 4 9, .acpS g 0 0 1 false 6 4 9, .bcp g 0 .load false false 12 5 16 6,
    .bcp g 0 .load false false 12 4 20 6, .bcp g 0 .load false false 12 4 16 7, .bcp g 0 .load true false 12 4 16 6, .mcast g 0 3 false 12 5 16 6,
    .mcast g 0 3 false 12 4 18 6, .mcast g 0 3 true 12 4 16 6, .kvg g 0 false false false false 1 2 3 6, .kva g 0 0 false 5 4 6,
    .kva g 0 0 false 4 5 6, .kva g 0 0 true 4 6 6, .drain g 0 .store false false 0 5 8 6, .drain g 0 .store false false 0 4 12 6,
    .drain g 0 .store true false 0 4 8 6, .job g 5, .sigdec g 5, .sigadd g 5 4, .sigadd g 4 5, .sigwait g .eq 5 4, .sigwait g .eq 4 5,
    .sigread g 0 5 4, .sigread g 0 4 5] = true := by decide

theorem test_illFormedMatrix : noneFormed [.mma g .i8 true false false false false 0 0 8 8 0, .mma g .f16 false true false false false 0 0 8 8 0,
    .mma g .f8 false false true false false 0 0 8 8 0, .mma g .bf16 false false false true false 0 0 8 8 0,
    .mma g .f8 false false false false false 1 0 8 8 0, .mma g .f8 false false false false false 0 0 6 8 0,
    .mma g .f8 false false false false false 0 0 8 6 0, .mmas g .f8 false false true false false 0 0 8 5 0,
    .mmas g .f8 false false false false false 0 0 6 5 0, .aget g 0 .rne false true 0 6 1, .aput g 0 6 1, .aflag g true 0 6 1] = true := by decide

theorem test_illFormedSegments : noneFormed [.segnew g 3 10 12, .segnew g 3 8 13, .segsum g true 3 6, .segsum g false 3 7, .link g true 2 5 8,
    .link g true 2 4 10, .unlink g 2 5 9, .kvr g 5 8 20, .kvr g 4 9 20, .rstat g .prc 7 5 12, .rstat g .ready 7 4 12, .rstat g .pending 7 4 12,
    .rotq g false 7 4 9 10, .rotq g false 6 5 9 10, .anc g 1 4 7 8, .psel g 12 6 8, .psel g 12 4 10,
    .topk g false false 12 5 8, .topk g false false 12 4 10, .topp g false false 12 5 8, .topp g false false 12 4 10, .tmrg g 2 6 8,
    .tmrg g 2 4 10, .tmrg g 7 4 8, .tunm g 2 13 14, .tmapInfo g 7 2] = true := by decide

theorem test_illFormedTasks : noneFormed [.tpop g false false 12 3 15, .tpop g false true 16 3 15, .tspawn g 12 9, .tstat g .last 16 9,
    .mfx g true 0x000 6, .mfx g true 0x013 7, .mfx g true 0x201 6, .mtx g false 0x013 6, .mtx g true 0x013 7, .mtx g false 0x100 6, .haltrecRead g 7,
    .trareaWrite g false 5, .fqcfgWrite g 5, .poolstatRead g 5, .qcfgrWrite g 5, .qspillrWrite g 5, .quiesceSave g 5 6 8, .quiesceSave g 4 7 8,
    .quiesceSave g 4 6 9, .resumeLoad g 7, .resumeThreads g 5 8 10, .resumeThreads g 4 8 11, .evict g 5 8 9 10, .evict g 4 8 9 11,
    .smcallSensor g 5 6, .smcallSensor g 4 7, .smcallLogput g 5 6, .smcallLogget g 5 6, .smcallQuote g 5 6, .smcallPowercap g 4 7] = true := by
  decide

/-! ### States that meet the hypotheses of the statements -/

theorem wit_ChecksAndWaits :
    let k := 128 * 2048
    let user : Thread := { th [] with tr := TrapRegs.reset }
    let logged : Thread := { th [] with log :=
      [{ word := 0, pc := 0, cb := 0, srcs := [], dests := [4], cause := .pageNotPresent, va := 0, fid := 0, verdict := 0
         cmd := none, at_ := 0, commit := false }] }
    let window : Thread := { th [] with wins := [{ cb := 0x30000, last := 0x30008, dests := [4], isFloat := false }] }
    let held : Thread := { th [] with held := [(0, 4)] }
    let meet (i : Instr) (k : Nat) (t : Thread) : Prop :=
      isEvent i = false ∧ (atK k t).cur? = some k ∧ (atK k t).thread? k = some t
    (meet (.aclr g false 0) k (th []) ∧ isSteward (coreOf k) = true ∧ (infoOf (.aclr g false 0)).noSteward = true) ∧
    (meet (.halt g 0) 0 user ∧ (infoOf (.halt g 0)).priv = true ∧ user.priv = false) ∧
    (meet (.iadd64 g 1 2 4) 0 (th []) ∧ (Instr.iadd64 g 1 2 4).wellFormed = false) ∧
    (meet (.enter g 4) 0 { th [] with pc := 0x30010 } ∧ misplaced (.enter g 4) { th [] with pc := 0x30010 } = true) ∧
    (meet (.nop { pn := true, ps := 7 }) 0 (th []) ∧ (th []).guard { pn := true, ps := 7 } = false) ∧
    (meet (.iadd g 32 0 0) 0 (th []) ∧ ∃ r ∈ (infoOf (.iadd g 32 0 0)).writes, 8 * (th []).alloc ≤ r) ∧
    (meet (.st g .b32 false .crew 0 2 0) 0 logged ∧ (infoOf (.st g .b32 false .crew 0 2 0)).stopsAtLog logged = true) ∧
    (meet (.iadd g 31 0 4) 0 window ∧ (infoOf (.iadd g 31 0 4)).stopsAtLog window = false ∧
      (infoOf (.iadd g 31 0 4)).breaksWindow window = true) ∧
    (meet (.iadd g 4 0 0) 0 held ∧ (infoOf (.iadd g 4 0 0)).blocked held = true ∧
      (infoOf (.iadd g 4 0 0)).breaksWindow held = false) ∧
    (meet (.iadd g 31 0 0) 0 held ∧ (infoOf (.iadd g 31 0 0)).busy held = false ∧
      (infoOf (.iadd g 31 0 0)).blocked held = false) := by decide

theorem wit_StepRunsWord :
    let s := State.reset.withFetchWord 64 0x30070B04FFFFFF83
    ∃ b t, s.issue = some b ∧ b.todo = [0] ∧ s.thread? 0 = some t ∧ t.waiting = false ∧ t.pc = t.cb ∧ t.log = [] ∧
      (match s.fetchClause 0 t with
       | .words u h ws => decide (u.clauseWaits 0 t h = none ∧ decode (ws.getD 0 0) = .instr (.iaddI g 0x0B 0x04 0xFFFFFF83))
       | .stop _ => false) = true := ⟨_, _, rfl, rfl, rfl, by decide, by decide, by decide, by decide⟩

theorem wit_DecodeOfEncode :
    (Instr.iaddI g 0xFF 0x04 0xFFFFFF83).wellFormed = true ∧ (encode (.iaddI g 0xFF 0x04 0xFFFFFF83)).isSome = true := by decide

theorem wit_IntegerArithmetic :
    (∀ i ∈ ([.iadd g 31 0 1, .isub g 31 0 1, .imul g 31 0 1, .imin g false 31 0 1, .imin g true 31 0 1, .imax g false 31 0 1,
      .imax g true 31 0 1, .and g 31 0 1, .or g 31 0 1, .xor g 31 0 1, .andn g 31 0 1, .shl g 31 0 1, .shr g 31 0 1, .sar g 31 0 1,
      .rot g 31 0 1] : List Instr), ok0 i (th [5, 40])) ∧
    (∀ i ∈ ([.iaddI g 31 0 5, .isubI g 31 0 5, .imulI g 31 0 5, .iminI g 31 0 5, .imaxI g 31 0 5, .andI g 31 0 5, .orI g 31 0 5,
      .xorI g 31 0 5, .andnI g 31 0 5, .shlI g 31 0 5, .shrI g 31 0 5, .sarI g 31 0 5, .rotI g 31 0 5, .iadd64 g 30 0 2,
      .iadd64I g 30 0 5] : List Instr), ok0 i (th [5, 40])) := by decide

theorem wit_IntegerBits :
    ∀ i ∈ ([.imulh g false 31 0 1, .imulh g true 31 0 1, .imad g 31 0 1 2, .iabs g 31 0, .ineg g 31 0, .not g 31 0,
      .shf g false 31 0 1 2, .shf g true 31 0 1 2, .bfx g false 31 0 1, .bfx g true 31 0 1, .bfi g 31 0 1 2, .popc g 31 0,
      .clz g 31 0, .ctz g 31 0, .brev g 31 0, .prmt g 31 0 1 2, .sel g 31 0 1 7, .mov g 31 0, .movi g 31 0, .iaddc g true 31 0 1 6,
      .lea g 7 false 30 0 1, .imul64 g true 30 0 1, .imul64 g false 30 0 1] : List Instr), ok0 i (th [5, 40, 32]) := by decide

theorem wit_PredicateResults :
    ok0 (.isetp g .ge true .xor 6 0 1 7) (th [5]) ∧ ok0 (.isetp g .eq false .none 7 0 1 0) (th [5]) ∧
    ok0 (.plop g 7 0 6 7 0x80) (th []) := by decide

theorem wit_SpecialValues :
    let k := 128 * 2048
    (ok0 (.movsv g 31 .team) (th []) ∧ (at0 (th [])).crew? ((th []).crewKey 0) = some cr0) ∧
    ((atK k (th [])).issues (.movsv g 31 .die) k (th []) ∧ (atK k (th [])).crew? ((th []).crewKey k) = some cr0) := by decide

/-- A state with memory where clause headers stand at 0x100 and at TVEC 0x200. -/
def atCode (t : Thread) : State :=
  let s := withMem (at0 t) (cellsAt 0x100 (bytesOf 0xFF0C000000000000 8) ++ cellsAt 0x200 (bytesOf 0xFF0C000000000000 8))
  { s with tlb := [{ page0 with leaf := 0x37 }], parts := s.parts.modify 0 fun p => { p with tvec := 0x200 } }

theorem wit_BranchesTaken :
    let t : Thread := { th [0x100, 0, 0x104, 0, 0x108] with pc := 0x108 }
    let s := atCode t
    (s.issues (.bra g .uniform 0x3FFFFFFF) 0 t ∧ s.issues (.jmp g 0x3FFFFFFF) 0 t ∧ s.issues (.call g 30 0x3FFFFFFF) 0 t ∧
      s.notHeader t.vf (coreOf 0) (t.pc + (0x3FFFFFFF : BitVec 30).signExtend 64 * 8) = false) ∧
    (s.issues (.jmpi g 0) 0 t ∧ s.issues (.ret g 0) 0 t ∧ s.issues (.calli g 0 0) 0 t ∧ (t.pair 0).toNat % 8 = 0 ∧
      (t.pair 0).toNat < 2 ^ 56 ∧ s.notHeader t.vf (coreOf 0) (t.pair 0) = false) ∧
    (s.issues (.jmpi g 2) 0 t ∧ (t.pair 2).toNat % 8 ≠ 0) ∧
    (s.issues (.jmpi g 4) 0 t ∧ s.notHeader t.vf (coreOf 0) (t.pair 4) = true) ∧
    (s.issues (.bra g .uniform 0) 0 t ∧ s.notHeader t.vf (coreOf 0) (t.pc + (0 : BitVec 30).signExtend 64 * 8) = true) := by decide

theorem wit_RegisterGrants :
    let t := th []
    let s := at0 t
    let full := { s with threads := [(0, t), (1, { t with blocks := upTo 4 124 })] }
    let pending : Thread := { t with held := [(0, 31)] }
    (ok0 (.enter g 4) t ∧ ok0 (.grow g 4) t ∧ (4 : BitVec 6).toNat ≤ t.alloc) ∧
    (ok0 (.grow g 32) t ∧ t.alloc < (32 : BitVec 6).toNat ∧ 32 - t.alloc ≤ (s.freeBlocks 0 0).length ∧ s.grantQueue 0 0 = []) ∧
    (full.issues (.grow g 5) 0 t ∧ (full.freeBlocks 0 0).length < 5 - t.alloc) ∧
    (ok0 (.shrink g 4) t ∧ t.alloc ≤ (4 : BitVec 6).toNat) ∧
    (ok0 (.shrink g 3) pending ∧ ∃ h ∈ pending.held, 8 * 3 ≤ h.2) ∧
    (ok0 (.shrink g 1) t ∧ (1 : BitVec 6).toNat < t.alloc ∧ t.outs = [] ∧ t.held = [] ∧ t.phase = .active ∧
      s.grantQueue 0 0 = []) := by decide +kernel

theorem wit_TrapEntry :
    let t := th []
    let s := atCode t
    (s.thread? 0 = some t ∧ Cause.syscall.fatal = false ∧ (s.part t.vf).tvec ≠ 0 ∧ t.tr.sstat.getLsbD 2 = false ∧
      s.notHeader t.vf (coreOf 0) (s.part t.vf).tvec = false) ∧
    ((at0 t).thread? 0 = some t ∧ ((at0 t).part t.vf).tvec = 0 ∧ ((at0 t).part t.vf).line = .running) ∧
    ((th []).tr.sstat.getLsbD 2 = false ∧ Cause.machineCheck.fatal = true ∧ (s.part t.vf).line = .running) := by decide

theorem wit_SoftwareTrapsAndReturn :
    let t := th []
    let s := atCode t
    (∀ i ∈ ([.bkpt g 0xFFFF, .trap g 0xFFFF, .sys g 0xFFFF] : List Instr), s.issues i 0 t) ∧ (s.part t.vf).tvec ≠ 0 ∧
      t.tr.sstat.getLsbD 2 = false ∧ s.notHeader t.vf (coreOf 0) (s.part t.vf).tvec = false := by decide

theorem wit_SoftwareTrapsAndReturn_rett :
    let t : Thread := th [0x100, 0, 0x104]
    let h : Thread := { t with tr := { t.tr with sstat := 7, npc := 0x108, ncb := 0x100 } }
    (ok0 (.rett g) t ∧ ok0 (.rettTgt g 0) t ∧ t.tr.sstat.getLsbD 2 = false) ∧
    ((atCode h).issues (.rett g) 0 h ∧ (atCode h).issues (.rettTgt g 0) 0 h ∧ h.tr.sstat.getLsbD 2 = true ∧
      (h.pair 0).toNat % 8 = 0 ∧ (h.pair 0).toNat < 2 ^ 56 ∧ (atCode h).notHeader h.vf (coreOf 0) (h.pair 0) = false) ∧
    ((atCode h).issues (.rettTgt g 2) 0 h ∧ (h.pair 2).toNat % 8 ≠ 0) := by decide

theorem wit_ExitAndJoin :
    let t := th [1, 3]
    let task : Thread := { t with inTask := true }
    let held : Thread := { t with held := [(0, 31)] }
    let two : State := { at0 t with threads := [(0, t), (16, { t with pc := 0x30000, phase := .filed 0 })] }
    (ok0 (.exit g) t ∧ t.inTask = false ∧ t.outs = [] ∧ t.held = [] ∧ (at0 t).threads.wf = true) ∧
    (ok0 (.exit g) task ∧ task.inTask = true) ∧ (ok0 (.exit g) held ∧ held.held ≠ []) ∧
    (ok0 (.join g 2) t ∧ (t.r 2).getLsbD (laneInGang 0) = false) ∧
    (ok0 (.join g 0) t ∧ (t.r 0).getLsbD (laneInGang 0) = true ∧ isSteward (coreOf 0) = false ∧
      allArrived (((at0 t).modThread 0 fun t => { t with arrival := some { pc := t.pc, mask := t.r 0 } }).gangThreads 0 t) t.pc
        (t.r 0) = true) ∧
    (two.issues (.join g 1) 0 t ∧ (t.r 1).getLsbD (laneInGang 0) = true ∧
      (∀ x ∈ two.gangThreads 0 t, x.1 ≠ 0 → x.2.otherMask t.pc (t.r 1) = false) ∧ two.gangEvicted 0 t = [] ∧
      allArrived ((two.modThread 0 fun t => { t with arrival := some { pc := t.pc, mask := t.r 1 } }).gangThreads 0 t) t.pc
        (t.r 1) = false) := by decide

theorem wit_FloatRules :
    ((at0 (th [])).thread? 0 = some (th []) ∧ ((th []).fctl.setWidth 5 &&& fNV) = 0) ∧
    (let t : Thread := { th [] with fctl := 0x11 }
     (at0 t).thread? 0 = some t ∧ ((t.fctl.setWidth 5 : BitVec 5) &&& (0x11 : FFlags)).getLsbD 0 = true) ∧
    decodeFloat .f32 0x7FC00000 = .nan false ∧ decodeFloat .f16 0x7C01 = .nan true ∧ decodeFloat .f32 0xFF800000 = .inf true ∧
    decodeFloat .f32 0 = .fin false 0 (gridMin .f32) := by decide

theorem wit_FloatResults :
    ∀ i ∈ ([.fadd g .rup 31 0 1, .fsub g .rne 31 0 1, .fmul g .rtz 31 0 1, .ffma g .rdn 31 0 1 2, .fmin g 31 0 1, .fmax g 31 0 1,
      .faddI g 31 0 1, .fsubI g 31 0 1, .fmulI g 31 0 1, .fminI g 31 0 1, .fmaxI g 31 0 1, .frnd g .rup 31 0, .hadd2 g .rne true 31 0 1,
      .hmul2 g .rne false 31 0 1, .hfma2 g .rne true 31 0 1 2, .dpf8 g .rne true false 31 0 1 2, .fsetp g .ord .xor 6 0 1 7,
      .cvt g .rne .f8a .f16 false false 3 1 31 0 0, .cvt g .rne .f32 .f8b false true 0 3 30 0 31, .dp4 g true false true 31 0 1 2,
      .dp8 g false false false 31 0 1 2, .fclass g 31 0] : List Instr), ok0 i (th [0x3F800000, 0x7F800001]) := by decide

theorem wit_LongLatency :
    let traps : Thread := { th [1] with fctl := 1 }
    (∀ i ∈ ([.fdiv g 15 .rne 31 0 1, .rcp g 15 .rne 31 0, .rsq g 0 .rne 31 0, .sqrt g 0 .rup 31 0, .exp2 g 0 .rne 31 0,
      .log2 g 0 .rne 31 0, .sint g 0 .rne 31 0, .cost g 0 .rne 31 0] : List Instr),
      ok0 i (th [1]) ∧ (at0 (th [1])).replaying = false ∧ (th [1]).fctl.setWidth 5 = (0 : BitVec 5)) ∧
    (∀ i ∈ ([.fdiv g 0 .rne 31 0 1, .rcp g 0 .rne 31 0] : List Instr),
      ok0 i traps ∧ (at0 traps).replaying = false ∧ traps.fctl.setWidth 5 ≠ (0 : BitVec 5)) ∧
    (∃ u t o, exec (.rcp g 0 .rne 31 0) (at0 (th [1])) = .next u ∧ u.thread? 0 = some t ∧ t.outs = [o] ∧ o.mat = none ∧
      ({ u with who := [0, 0] } : State).thread? 0 = some t) := ⟨by decide, by decide, _, _, _, rfl, rfl, rfl, rfl, rfl⟩

/-- The read of the access succeeds. -/
def canRead (s : State) (va : Nat) : Bool := (s.access 0 0 0 va .read).toOption.isSome

/-- The write of the access succeeds. -/
def canWrite (s : State) (va : Nat) : Bool := (s.access 0 0 0 va .write).toOption.isSome

/-- The cause that ends something. -/
def causeOf {α : Type} : Except Cause α → Option Cause
  | .error c => some c
  | .ok _ => none

theorem wit_Loads :
    let t := th [0x40, 0, 0x41, 0, 0, 0x40000000, 0, 0x80000000, 0x10000]
    let s := withMem (at0 t) (cellsAt 0x40 [1, 2, 3, 4])
    let task : Thread := { t with inTask := true, rsHold := true }
    let typed : State := { s with tlb := [{ page0 with leaf := 0x40F ||| 0x200 }] }
    (s.issues (.ld g 2 .b128 false .crew 28 0 0) 0 t ∧ s.issues (.sigread g 0 30 0) 0 t ∧ (t.pair 0).toNat % 16 = 0 ∧
      (t.pair 0).toNat < 2 ^ 56 ∧ canRead s 0x40 = true ∧ s.replaying = false) ∧
    ((withMem (at0 task) []).issues (.ld g 2 .b128 false .crew 28 0 0) 0 task) ∧
    (s.issues (.ld g 0 .b64 false .crew 30 2 0) 0 t ∧ s.issues (.st g .b64 true .sys 30 2 0) 0 t ∧
      (t.pair 2).toNat % 8 ≠ 0 ∧ Cause.misaligned.recoverable = false) ∧
    (s.issues (.ld g 0 .z8 false .crew 30 6 0) 0 t ∧ s.issues (.st g .z8 true .sys 30 6 0) 0 t ∧ 2 ^ 56 ≤ (t.pair 6).toNat) ∧
    (s.issues (.ld g 0 .b32 false .crew 30 4 0) 0 t ∧ s.issues (.st g .b32 true .sys 30 4 0) 0 t ∧
      causeOf (s.access 0 0 0 (t.pair 4).toNat .read) = some .pageNotPresent ∧ Cause.pageNotPresent.recoverable = true) ∧
    (s.issues (.ldt g 2 31 8 0) 0 t ∧ (t.pair 8).toNat % 65536 = 0 ∧ (t.pair 8).toNat < 2 ^ 56 ∧
      (s.access 0 0 0 0x10000 .read).toOption.map (·.geom) = some 0) ∧
    (s.issues (.ldt g 2 31 0 0) 0 t ∧ (t.pair 0).toNat % 65536 ≠ 0) ∧
    (typed.issues (.ldt g 2 31 8 0x7FFFFF) 0 t ∧
      ((typed.access 0 0 0 0x10000 .read).toOption.map fun l => l.geom != 0 && 
        decide (0x10000 + 65536 * (0x7FFFFF / pageElems l.elem l.geom) < 2 ^ 56)) = some true) := by decide +kernel

theorem wit_StoresPerformed :
    let t := th [0x40, 0, 7]
    let s := withMem (at0 t) []
    let q : StoreQ := { bytes := [(0x40, 1)], need := [] }
    (s.issues (.st g .b32 true .sys 2 0 0) 0 t ∧ (t.pair 0).toNat % 4 = 0 ∧ canWrite s 0x40 = true ∧ t.inTask = false ∧
      (s.access 0 0 0 0x40 .write).toOption.map (fun l => inTail l 0x40) = some false) ∧
    (let s : State := { withMem (at0 { t with storeq := [q] }) [] with who := [0] }
     s.mem.wf = true ∧ s.who = [0] ∧ (s.thread? 0).map (·.storeq) = some [q]) ∧
    ({ s with who := [0, 5] } : State).who = [0, 5] := by decide +kernel

theorem wit_Atomics :
    let t := th [0x40, 0, 7, 0, 9]
    let s := withMem (at0 t) []
    (s.issues (.atom g 3 .fadd false .dev .ar 31 0 2) 0 t ∧ s.issues (.atom g 3 .umax true .dev .ar 30 0 2) 0 t ∧
      s.issues (.cas g 0 true .sys .acq 30 0 2 4) 0 t ∧ s.issues (.red g .add false .crew true 0 2) 0 t) ∧
    s.mem.wf = true ∧ (t.pair 0).toNat % 8 = 0 ∧ (t.pair 0).toNat < 2 ^ 56 ∧ t.inTask = false ∧ t.storeq = [] ∧
    (s.access 0 0 0 0x40 .write).toOption.map (fun l => (l.tgt, inTail l 0x40)) = some (0, false) ∧
    (255 < 2 ^ 8 ∧ 128 < 2 ^ 8 ∧ 0 < 8) := by decide +kernel

theorem wit_ExactAddition :
    let t := th [0x40, 0, 0x80, 0]
    let s := withMem (at0 t) []
    let b := withMem (at0 t) (cellsAt 0x80 [0, 0x10])
    (s.issues (.xadd g 0 (-64) .dev true 4 0 8 2) 0 t ∧ s.issues (.xadd g 0 63 .crew false 0 0 8 2) 0 t ∧
      s.mem.wf = true ∧ (t.pair 0).toNat % 16 = 0 ∧ (t.pair 2).toNat % 16 = 0 ∧ t.inTask = false ∧ t.storeq = [] ∧
      (s.access 0 0 0 0x40 .write).toOption.map (fun l => (l.key, l.tgt, inTail l 0x40)) = some (0x40, 0, false) ∧
      (s.access 0 0 0 0x80 .write).toOption.map (fun l => (l.key, l.tgt, inTail l 0x80)) = some (0x80, 0, false) ∧
      natOf (s.readAtom 0 (scopeMask .dev 0) 0x80 16) / 2 ^ 12 = 0) ∧
    (b.issues (.xadd g 0 63 .crew false 0 0 8 2) 0 t ∧ natOf (b.readAtom 0 (scopeMask .crew 0) 0x80 16) / 2 ^ 12 ≠ 0) := by
  decide +kernel

theorem wit_ScratchAccesses :
    let t := th [0x1FFC, 0x2000]
    let s := at0 t
    let set (v : Sector) : State := { s with sectors := [(0x1FFC / 32, v)] }
    s.crew? (t.crewKey 0) = some cr0 ∧ crewAddr 0 cr0 0x1FFC / 32 = 0x1FFC / 32 ∧
    (∀ v ∈ [Sector.ready, .empty, .filling, .draining],
      (set v).issues (.lds g 2 .b32 31 0 0) 0 t ∧ (set v).issues (.sts g .b32 31 0 0) 0 t ∧ (set v).sector (0x1FFC / 32) = v ∧
      (set v).scratchCause 0 t cr0 0x1FFC 4 false = none ∧ (set v).scratchCause 0 t cr0 0x1FFC 4 true = none) ∧
    (s.issues (.atoms g 0 .cas false 31 0 2 3) 0 t ∧ t.inTask = false ∧ (t.r 0).toNat % 4 = 0 ∧
      cr0.inAlloc (t.r 0).toNat 4 = true ∧ cr0.inAlloc (t.r 1).toNat 4 = false) := by decide +kernel

theorem wit_OnChipMap :
    let t := th [0x40, 0, 0x41, 0, 0xFFFFFFF0, 0, 0, 1, 0x400000, 0, 0x800000]
    let s := at0 t
    (∀ a ∈ ([0, 2, 4, 6, 8, 10] : List Reg), s.issues (.ldMap g 0 .b32 31 a 0) 0 t ∧ s.issues (.stMap g .b32 31 a 0) 0 t) ∧
    s.replaying = false ∧
    ((mapPlace (t.pair 0).toNat).isSome = true ∧ (t.pair 2).toNat % 4 ≠ 0 ∧ (t.pair 4).toNat < 2 ^ 32 ∧
      (mapPlace (t.pair 4).toNat).isSome = false ∧ 2 ^ 32 ≤ (t.pair 6).toNat ∧ (mapPlace (t.pair 8).toNat).isSome = true ∧
      (mapPlace (t.pair 10).toNat).isSome = true) := by
  decide +kernel

theorem wit_FencesAndNops :
    ∀ i ∈ ([.nop g, .yield g, .pref g 30 0xFFFFFF, .fence g .sys .acq, .fence g .crew .rel, .fence g .dev .sc] : List Instr),
      ok0 i (th []) ∧ (at0 (th [])).mem.wf = true ∧ (th []).storeq = [] := by decide

theorem wit_RegionsAndSectors :
    let t := th [2048, 8193, 8191, 8192, 4096]
    let s := at0 t
    let r : Region := { row := 2, rows := 1, task := none }
    let held : State := { s with crews := [(0, { cr0 with regions := [r] })] }
    (ok0 (.spalloc g 31 0) t ∧ s.crew? (t.crewKey 0) = some cr0 ∧ t.r 0 ≠ 0 ∧ (2048 + 2047) / 2048 ≤ cr0.pool ∧
      cr0.regions.length < 64 ∧ (cr0.freeRun 1).isSome = true ∧
      (∀ b, cr0.freeRun 1 = some b → s.quietSectors (rowSectors 0 cr0 b 1) = true)) ∧
    (ok0 (.spalloc g 31 1) t ∧ cr0.pool < (8193 + 2047) / 2048 ∧ t.inTask = false) ∧
    (held.issues (.spfree g 4) 0 t ∧ ([r].find? fun r => r.row * 2048 == (t.r 4).toNat) = some r ∧ t.inTask = false) ∧
    (∀ i ∈ ([.sectQuery g 31 2, .sectClr g 2, .sectSet g 2] : List Instr), ok0 i t ∧ (t.r 2).toNat + 1 ≤ (cr0.rows - cr0.wbuf) * 2048) ∧
    (∀ i ∈ ([.sectQuery g 31 3, .sectClr g 3, .sectSet g 3] : List Instr), ok0 i t ∧ (cr0.rows - cr0.wbuf) * 2048 < (t.r 3).toNat + 1) ∧
    (∀ v ∈ [Sector.filling, .draining, .empty], ({ s with sectors := [(8191 / 32, v)] } : State).sector (sectorAt 0 cr0 8191) = v) := by
  decide +kernel

theorem wit_RandomDraws :
    let t := th [1, 2, 3, 0xFFFFFF05, 1, 2, 3, 0xFFFFFE05]
    (∀ i ∈ ([.rand g 31 0, .randf g 31 0] : List Instr), ok0 i t ∧ (t.reg 3).toNat / 256 = 0xFFFFFF) ∧
    (∀ i ∈ ([.rand g 31 4, .randf g 31 4] : List Instr), ok0 i t ∧ (t.reg 7).toNat / 256 ≠ 0xFFFFFF) := by decide

theorem wit_SealsAndTranslations :
    let t := th [0x10000, 0, 0x10000, 0, 0, 0, 0xFFFF0000, 0x00FFFFFF, 0x20000]
    let s : State := { withMem (at0 t) (cellsAt 0x20000 (bytesOf 0x1000F 8)) with
      tlb := [{ page0 with va := 0x10000, size := 0x10000, leaf := 0x1000F }] }
    let task : Thread := { t with inTask := true }
    (∀ i ∈ ([.seal g 0 4, .unseal g 31 0 4] : List Instr), s.issues i 0 t ∧ t.pair 4 = 0) ∧
    (∀ i ∈ ([.seal g 6 8, .unseal g 31 6 8] : List Instr), s.issues i 0 t ∧ (t.pair 6).toNat % 65536 = 0 ∧ t.pair 8 ≠ 0 ∧
      2 ^ 56 < (t.pair 6).toNat + (t.pair 8).toNat) ∧
    ((at0 task).issues (.seal g 0 2) 0 task ∧ task.inTask = true ∧ (t.pair 0).toNat + (t.pair 2).toNat ≤ 2 ^ 56) ∧
    (s.issues (.seal g 0 2) 0 t ∧ s.issues (.unseal g 31 0 2) 0 t ∧ t.inTask = false ∧ s.mem.wf = true ∧ s.flights.isEmpty = true ∧
      (s.threads.all fun x => x.2.storeq.isEmpty) = true ∧ s.inFlight 0 true 0x10000 0x10000 = false ∧ s.inFlight 0 false 0x10000 0x10000 = false ∧
      (s.regionPages 0 0 0 0x10000 0x10000 1 0x10000).toOption.isSome = true) := by decide +kernel

theorem wit_TranslationsEnd :
    let t := th [0x10000, 0, 0x10000, 0, 0, 0, 0xFFFF0000, 0x00FFFFFF, 0x20000]
    let s := withMem (at0 t) []
    (s.issues (.tlbinvPage g 0) 0 t ∧ s.issues (.tlbinvRange g 0 2) 0 t ∧ s.issues (.tlbinvAll g) 0 t ∧ s.tlb.isEmpty = false) ∧
    (s.issues (.dlog g 30 4) 0 t ∧ 64 * (t.r 4).toNat < s.dirtyBits 0 ∧ t.inTask = false) ∧
    (s.issues (.dlog g 30 6) 0 t ∧ s.dirtyBits 0 ≤ 64 * (t.r 6).toNat) := by decide +kernel

/-- Two threads of gang 0, on lanes 0 and 1: thread 0 issues, the other waits at the same place under mask 3. -/
def two (t : Thread) : State :=
  { at0 t with threads := [(0, t), (16, { t with phase := .parked (.arrive 3) 0, arrival := some { pc := t.pc, mask := 3 } })] }

/-- The state with thread 0's arrival noted. -/
def noted (t : Thread) : State := (two t).modThread 0 fun t => { t with arrival := some { pc := t.pc, mask := 3 } }

theorem wit_LaneCollectives :
    let t := th [3, 5, 0, 1]
    (two t).wf = true ∧ (two t).arrivesLast 0 t (t.r 0) (noted t) [0, 16] ∧
    (∀ i ∈ ([.shfl g .up true 30 2 1 0, .shfl g .idx false 31 2 1 0, .vote g .all 7 7 0, .vote g .any 0 0 0, .vote g .ballot 31 0 0,
      .matchx g true 31 2 0, .elect g 6 0] : List Instr), (two t).issues i 0 t) := by
  refine ⟨by decide, ⟨by decide, by decide, by decide, by decide, rfl, by decide, by decide⟩, by decide⟩

theorem wit_LaneReductions :
    let t := th [3, 5]
    (two t).wf = true ∧ (two t).arrivesLast 0 t (t.r 0) (noted t) [0, 16] ∧
    ([0, 16].all fun j => ((noted t).thread? j).all fun x => x.fctl == 0) = true ∧
    (∀ i ∈ ([.scan g .rne .iadd true 31 1 0, .scan g .rup .fadd false 31 1 0, .redx g .rne .fmax 31 1 0] : List Instr),
      (two t).issues i 0 t) ∧
    ((two t).issues (.qnt g .i8 false 31 1 0 0) 0 t ∧ allArrived ((noted t).gangThreads 0 t) t.pc 3 = true) ∧
    (let s : State := { two t with threads := [(0, t), (16, { t with pc := 0x30000, phase := .filed 0 })] }
     let s' := s.modThread 0 fun t => { t with arrival := some { pc := t.pc, mask := 3 } }
     s.issues (.qnt g .i8 false 31 1 0 0) 0 t ∧ (∀ x ∈ s.gangThreads 0 t, x.1 ≠ 0 → x.2.otherMask t.pc 3 = false) ∧
     s.gangEvicted 0 t = [] ∧ allArrived (s'.gangThreads 0 t) t.pc 3 = false) := by
  refine ⟨by decide, ⟨by decide, by decide, by decide, by decide, rfl, by decide, by decide⟩, by decide, by decide, by decide,
    by decide⟩

/-- Crew 0 with convergence register 15 in this form. -/
def withConv (s : State) (r : ConvReg) : State :=
  { s with crews := [(0, { cr0 with convs := cr0.convs.set 15 r })] }

/-- A convergence register that is armed for gang 0. -/
def armed (expect count : Nat) (op : Option OpRec) : ConvReg :=
  { ConvReg.reset with st := .armed, members := 1, expect := expect, count := count, op := op }

theorem wit_ConvergenceArmed :
    let t := th [1, 33]
    let cr (r : ConvReg) : Crew := { cr0 with convs := cr0.convs.set 15 r }
    (ok0 (.cbarArm g 15 0 0) t ∧ (at0 t).crew? (t.crewKey 0) = some cr0 ∧ (15 : Conv).toNat < cr0.convs.length ∧
      (cr0.conv 15).st ≠ .armed ∧ t.r 0 ≠ 0 ∧ (t.r 0).toNat < 2 ^ cr0.ngang ∧
      (t.r 0).toNat ≤ gangSize (coreOf 0) * popCount (t.r 0).toNat 32) ∧
    (ok0 (.cbarArm g 15 0 1) t ∧ gangSize (coreOf 0) * popCount (t.r 0).toNat 32 < (t.r 1).toNat) ∧
    ((withConv (at0 t) (armed 2 1 none)).issues (.cbarArm g 15 0 0) 0 t ∧ ((cr (armed 2 1 none)).conv 15).count ≠ 0) ∧
    (ok0 (.conv g 15 0) t ∧ cr0.team ≠ 0 ∧ (0 : BitVec 4).toNat < cr0.ngang / cr0.team) ∧
    (ok0 (.conv g 15 1) t ∧ cr0.ngang / cr0.team ≤ (1 : BitVec 4).toNat) := by decide +kernel

theorem wit_BarrierSigned :
    let i : Instr := .cbar g .dev 15
    let t := th [1]
    let op := opRecord i 0 0 ((15 : Conv).setWidth 32)
    let signed : Thread := { t with sig := [(15, 0)] }
    let s (r : ConvReg) : State := withConv (two t) r
    (∀ r ∈ [{ ConvReg.reset with st := .orphaned }, ConvReg.reset, { armed 1 0 none with members := 2 }, armed 2 0 none,
      armed 2 1 (some op), armed 1 0 none, armed 2 1 (some (opRecord i 0 0 3))],
      (s r).issues i 0 t ∧ ((s r).crew? 0).map (fun c => c.conv 15) = some r ∧ t.crew < 64) ∧
    ((withConv (two signed) (armed 2 1 (some op))).issues i 0 signed ∧ (signed.sig.any fun m => m.1 == 15) = true) ∧
    (s (armed 2 0 none)).liveIn 0 1 = 2 ∧ (s (armed 1 0 none)).wf = true := by decide +kernel

/-- A layout record of 32 F16 elements at VA 0x1000. -/
def tlr0 : Nat :=
  0x1000 + 2 ^ 64 * 32 + 2 ^ 96 + 2 ^ 128 + 2 ^ 160 + 2 ^ 192 + 2 ^ 352 * 32 + 2 ^ 368 + 2 ^ 384 + 2 ^ 400 + 2 ^ 416 + 2 ^ 432 + 2 ^ 436

/-- A layout record of a 64 by 64 box of F32 elements of which one lies inside, at VA 0x1000. -/
def tlr1 : Nat :=
  0x1000 + 2 ^ 64 + 2 ^ 96 + 2 ^ 128 + 2 ^ 160 + 2 ^ 192 + 2 ^ 352 * 64 + 2 ^ 368 * 64 + 2 ^ 384 + 2 ^ 400 + 2 ^ 416 + 2 ^ 437

/-- Registers 0 to 3 hold VAs 0x40 and 0x80, 4 to 7 a core mask, 8 to 15 zeros, 16 the address 0x20, 18 the VA 0x2000. -/
def cmdTh : Thread := th [0x40, 0, 0x80, 0, 0xF, 0, 0, 0, 0, 0, 0, 0, 0, 0, 0, 0, 0x20, 0, 0x2000]

/-- A state with the two layout records at 0x40 and 0x80. -/
def cmdSt : State := withMem (at0 cmdTh) (cellsAt 0x40 (bytesOf tlr0 64) ++ cellsAt 0x80 (bytesOf tlr1 64))

theorem wit_CopiesAccepted :
    let t := cmdTh
    let s := cmdSt
    let full : Thread := { t with kcnt := [0, 0, 0, 0, 0, 0, 0, 255] }
    (s.crew? (t.crewKey 0) = some cr0 ∧ (t.r 16).toNat % 32 = 0 ∧ cr0.inAlloc (t.r 16).toNat 32 = true ∧ t.inTask = false ∧
      (t.pair 0).toNat % 32 = 0 ∧ s.fenced = [] ∧ t.kcnt.getD 7 0 ≠ 255 ∧ s.cmdWaits t (.sluice 0) = false ∧
      s.issues (.acpL g 15 7 32 false 16 0 0) 0 t ∧ s.issues (.acpS g 0 7 0 true 16 0 16) 0 t ∧
      causeOf (s.access (agSluice 0) 0 0 0x40 .write) ≠ some .sealed) ∧
    (ok0 (.kcnt g 31 7) full ∧ ok0 (.await g 7) full ∧ full.kcnt.getD 7 0 ≠ 0 ∧ ok0 (.await g 0) full ∧ full.kcnt.getD 0 0 = 0) ∧
    (s.issues (.mcast g 3 0 true 16 0 4 0) 0 t ∧ bitsSet (natOfWords (t.rs 4 4)) 128 = [0, 1, 2, 3] ∧
      (∀ x ∈ [0, 1, 2, 3], (s.part t.vf).hasCore x = true) ∧ (t.r 16).toNat + mcastLen 0 ≤ 0x300000) := by decide +kernel

theorem wit_BulkAccepted :
    let t := cmdTh
    let s := cmdSt
    let c := s.newCmd (.bcp g 3 .load true false 16 0 8 0) 0 t (.sluice 0) 3 ([t.r 16] ++ t.rs 8 5 ++ [0x40, 0])
    let d := s.newCmd (.drain g 3 .store true false 0 2 8 0) 0 t (.sluice 0) 3 ([3] ++ t.rs 8 5 ++ [0x80, 0])
    (s.issues (.bcp g 3 .load true false 16 0 8 0) 0 t ∧ s.issues (.bcp g 3 .store false false 16 0 8 18) 0 t ∧
      s.issues (.bcp g 3 .load true true 16 0 8 0) 0 t ∧ s.mapdOk t.vf (t.r 16) = true) ∧
    (match (s.forUnit 0 c).readTlr c (t.pair 0) with
     | .ok (u, bs) =>
       let tl := Tlr.read bs
       !tlrBad bs tl true && !tlrBad bs tl false && bcpFmtOk .load tl.fmt && !tl.decode && tl.ilv == 0 &&
       (u.bcpPlace 0 t cr0 false (t.r 16) tl.image).2.2 && (u.bcpPlace 0 t cr0 true (t.r 16) tl.image).2.2 &&
       (u.sealedPoint { c with recd := bs } tl (coords (t.rs 8 5))).isNone
     | .error _ => false) = true ∧
    (s.issues (.drain g 3 .store true false 0 2 8 0) 0 t ∧ (0 : Tile).toNat < cr0.tiles.length) ∧
    (match (s.forUnit 0 d).readTlr d (t.pair 2) with
     | .ok (u, bs) =>
       let tl := Tlr.read bs
       !drainTlrBad bs tl && !drainShapeBad tl .store && (u.sealedPoint { d with recd := bs } tl (coords (t.rs 8 5))).isNone
     | .error _ => false) = true := by decide +kernel

/-- A state for the KV cache: a context of one slot at 0x400, its rotation table at 0x800, the segment table at 0xC00 with
segment 1 OPEN, an overlay at 0x1000 (the fields that are not zero, byte by byte), and a crew with 32 rows of scratchpad. -/
def kvSt (t : Thread) : State :=
  let s := withMem (at0 t) []
  { s with
    crews := [(0, { cr0 with rows := 32 })]
    mem :=
      [(0x400, 1), (0x404, 1), (0x406, 1), (0x407, 1), (0x408, 5), (0x40D, 8), (0x415, 24), (0x41C, 1), (0x801, 8),
       (0xC07, 16), (0xC08, 2), (0xC40, 1), (0xC42, 1), (0xC44, 1), (0xC45, 65), (0xC50, 1), (0xC59, 32), (0x1011, 4),
       (0x1019, 1), (0x1020, 1)]
    parts := s.parts.modify 0 fun p => { p with segtab := 0xC00 } }

/-- Registers: 0 the context, 2 the table's layer and head and a scratchpad row, 4 a handle of nothing, 5 the mask, 6 the rows to
append, 8 the segment, 10 the overlay, 12 the layer and token, 14 a scratchpad row, 16 a signal. -/
def kvTh : Thread := th [0x400, 0, 0, 0, 0xFFFFFFFF, 1, 0x3000, 0, 1, 0, 0x1000, 0, 0, 0, 0x40, 0, 0x2800, 0]

theorem wit_KvCommandsAccepted :
    let t := kvTh
    let s := kvSt t
    let cr : Crew := { cr0 with rows := 32 }
    let cmd (i : Instr) (slack : Nat) (ops : List Word) : Cmd := s.newCmd i 0 t (.sluice 0) slack ops
    let c1 := cmd (.kva g 0 0 false 6 0 16) 0 [0x400, 0, 0x3000, 0, 0x2800, 0]
    let c2 := cmd (.segsum g true 8 0) 0 [1]
    let c3 := cmd (.kvr g 10 12 14) 0 [0x40, 0x1000, 0, 0, 0]
    (s.crew? (t.crewKey 0) = some cr ∧ t.inTask = false ∧ s.fenced = [] ∧ s.cmdWaits t (.sluice 0) = false ∧
      (t.pair 16).toNat % 16 = 0) ∧
    (s.issues (.kva g 0 0 false 6 0 16) 0 t ∧ s.issues (.segsum g true 8 0) 0 t ∧ s.issues (.kvr g 10 12 14) 0 t) ∧
    ((s.ctxOf c1 0x400).toOption.map fun x => !x.2.malformed && (x.1.cmdRead c1 0x400 64).toOption.isSome) = some true ∧
    ((s.segHdr c2).toOption.bind fun x => (x.1.segOf c2 x.2 1).toOption.bind fun y => y.2.map (·.state)) = some 1 ∧
    ((s.ovlOf c3 0x1000).toOption.bind fun x => (x.1.ctxOf c3 x.2.ctx).toOption.map fun y =>
      decide (0 < x.2.rcnt) && decide (0 < y.2.shape.layers) && (s.scrCause 0 t cr 0x40 64 32 true).isNone &&
        (s.scrCause 0 t cr 0x40 (2 * y.2.shape.heads * y.2.shape.rb) 32 true).isNone) = some true := by decide +kernel

theorem wit_GatherAccepted :
    let t := kvTh
    let i : Instr := .kvg g 1 true false true false 31 4 5 0
    let s := kvSt t
    let s' := s.modThread 0 fun t => { t with arrival := some { pc := t.pc, mask := 1 } }
    let cmd := s'.newCmd i 0 (s'.threadAt 0) (.sluice 0) 1 (t.rs 0 4)
    (s.issues i 0 t ∧ s.arrivesLast 0 t (t.r 5) s' [0]) ∧
    ((s'.ctxOf cmd 0x400).toOption.bind fun x => (x.1.cmdRead cmd 0x400 64).toOption.bind fun y =>
      (y.1.gatherFetch { cmd with recd := y.2 } x.2 [(0, 0xFFFFFFFF)]).toOption.map fun z =>
        !x.2.malformed && ({ cr0 with rows := 32 } : Crew).inAlloc 0 (gatherSize x.2.shape + 32) && z.2.errs == 0) = some true ∧
    (s'.threadAt 0).storeq = [] ∧ s'.cmdWaits (s'.threadAt 0) (.sluice 0) = false := by
  refine ⟨⟨by decide, ⟨by decide, by decide, by decide, by decide, rfl, by decide, by decide⟩⟩, by decide +kernel, by decide,
    by decide⟩

theorem wit_Signals :
    let t := th [0x40, 0, 1, 0, 0, 0]
    let s := withMem (at0 t) (cellsAt 0x40 (bytesOf 1 8))
    let p : Thread := { t with phase := .parked (.signal 0x40 .eq 1) 3 }
    (s.issues (.sigdec g 0) 0 t ∧ s.issues (.sigadd g 0 2) 0 t ∧ s.mem.wf = true ∧ (t.pair 0).toNat % 16 = 0 ∧ t.inTask = false ∧
      t.storeq = [] ∧ canWrite s 0x40 = true) ∧
    (s.issues (.sigwait g .le 0 2) 0 t ∧ s.issues (.sigwait g .eq 0 4) 0 t ∧ s.issues (.sigwait g .ne 0 4) 0 t ∧ canRead s 0x40 = true ∧
      natOf (s.readAtom 0 maskSys 0x40 8) = 1 ∧
      (s.access 0 0 0 0x40 .read).toOption.map (fun l => s.holdRead 0 t l 0x40 8) = some false) ∧
    (let s : State := { withMem (at0 p) (cellsAt 0x40 (bytesOf 1 8)) with who := [0] }
     s.who = [0] ∧ s.thread? 0 = some p ∧ canRead s 0x40 = true ∧ natOf (s.readAtom 0 maskSys 0x40 8) = 1) := by decide +kernel

/-- The state in which the command that a word leaves waits for no sector. -/
def taken (x : Instr × State) : State := (after x.1 x.2).modCmd 0 fun c => { c with want := [] }

/-- A gather of one skipped handle that the sluice of core 0 holds. -/
def kvgSt : State :=
  let s := kvSt kvTh
  { s with
    nextId := 1
    cmds := [{ s.newCmd (.kvg g 1 true false true false 31 4 5 0) 0 kvTh (.sluice 0) 1 (kvTh.rs 0 4) with
      kv := [KvEntry.zero 0], recd := (upTo 0x400 64 ++ upTo 0xC00 64).map s.mem.read }] }

/-- A drain that the sluice of core 0 holds. -/
def drainSt : State :=
  { cmdSt with
    nextId := 1
    cmds := [{ cmdSt.newCmd (.drain g 3 .store true false 0 2 8 0) 0 cmdTh (.sluice 0) 3 (3 :: cmdTh.rs 8 5 ++ [0x80, 0]) with
      recd := bytesOf tlr1 64 }] }

/-- The words of the commands that a sluice performs, in their states. -/
def sluiceCmds : List (Instr × State) :=
  [(.acpL g 15 7 32 false 16 0 0, cmdSt), (.acpS g 1 7 0 true 16 0 16, cmdSt), (.mcast g 3 1 true 16 0 4 0, cmdSt),
    (.bcp g 3 .load true false 16 0 8 0, cmdSt), (.kva g 0 0 false 6 0 16, kvSt kvTh), (.segsum g true 8 0, kvSt kvTh),
    (.kvr g 10 12 14, kvSt kvTh)]

theorem wit_SluiceSteps :
    (sluiceCmds.all fun x => ((taken x).sluiceNext 0).map (·.i) == some x.1) = true ∧ (kvgSt.sluiceNext 0).isSome = true ∧ (drainSt.sluiceNext 0).isSome = true ∧
    (let s : State := { after (.acpL g 15 7 32 false 16 0 0) cmdSt with who := [0], now := 1024 }
     (s.cmd? 0).map (fun c => decide (c.lastServed + 1024 ≤ s.now) && decide (0 < c.slack) && s.mayRun c.vf c.crew && c.task.isNone &&
       (s.cmdRead c (c.op2 2).toNat (c.op 1).toNat).toOption.isSome) = some true ∧
     s.wf = true ∧ s.mats = []) ∧
    (let s : State := { (after (.acpL g 15 7 32 false 16 0 0) cmdSt).modCmd 0 (fun c => { c with want := [(5, true)] }) with who := [0] }
     s.wf = true ∧ s.mats = [] ∧ (s.cmd? 0).map (fun c => c.want.map fun w => (w.2, s.takable s.claims 0 w.1)) = some [(true, true)]) := by
  decide +kernel

/-- A bulk copy in this direction that has its sectors, with this layout record. -/
def bcpC (dir : BcpDir) (tlr : Nat) : Cmd :=
  { (taken (.bcp g 3 .load true false 16 0 8 0, cmdSt)).cmds.headD (cmdSt.newCmd (.bcp g 3 .load true false 16 0 8 0) 0 cmdTh (.sluice 0) 3 []) with
    i := .bcp g 3 dir true false 16 0 8 0, recd := bytesOf tlr 64 }

/-- A layout record of two X128 elements at VA 0x1000, described at 0x2000. -/
def tlrX : Nat :=
  0x1000 + 2 ^ 64 * 2 + 2 ^ 96 + 2 ^ 128 + 2 ^ 160 + 2 ^ 192 + 2 ^ 352 * 2 + 2 ^ 368 + 2 ^ 384 + 2 ^ 400 + 2 ^ 416 + 2 ^ 432 * 9 + 2 ^ 436 +
    2 ^ 448 * 0x2000

theorem wit_EngineBytes :
    (let s := taken (.bcp g 3 .load true false 16 0 8 0, cmdSt)
     s.wf && [(BcpDir.load, tlr0), (.store, tlr0), (.fadd, tlr0), (.xadd, tlrX)].all fun x =>
       (s.bcpBeat (bcpC x.1 x.2)).toOption.isSome && (bcpC x.1 x.2).tlr.image % 32 == 0) = true ∧
    (let s := taken (.mcast g 3 1 true 16 0 4 0, cmdSt)
     (s.cmd? 0).any fun c => (s.mcastBeat c 1).toOption.isSome && s.mcastDest c 1 == some (0, 0) && c.ahead.isEmpty) = true ∧
    (kvgSt.wf && (kvgSt.cmd? 0).any fun c => [(KvEntry.zero 0, RowFrom.zero), ({ KvEntry.zero 0 with len := 1 }, .space),
        ({ KvEntry.zero 0 with len := 1, rmask := 1, ova := 0x1000 }, .wait),
        ({ KvEntry.zero 0 with len := 1, rmask := 1, ova := 0x1000, dead := some 1 }, .overlay)].all
      fun e => (kvgSt.rowFrom c e.1 0).toOption.any fun x => x.2 == e.2 && (kvgSt.fillRow c e.1 0 x.2).toOption.isSome) = true := by
  decide +kernel

theorem wit_CommandsEnd :
    let done (x : Instr × State) (beat : Nat) : State := (taken x).modCmd 0 fun c => { c with beat := beat }
    ((sluiceCmds.take 5).all fun x =>
      let s : State := { done x (if x.1 == .acpL g 15 7 32 false 16 0 0 || x.1 == .acpS g 1 7 0 true 16 0 16 then 1 else 256) with who := [0] }
      s.wf && (s.whoCmd.map fun c => (c.i == x.1) && c.rows.isEmpty &&
        decide (c.tlr.beats ≤ c.beat) && decide (c.kvaTokens ≤ c.beat)) == some true) = true ∧
    ((taken (.mcast g 3 1 true 16 0 4 0, cmdSt)).cmds.map fun c => c.land) = [[(0, 0), (1, 0), (2, 0), (3, 0)]] ∧ mcastBeats 1 = 1 ∧
    (let s : State := { kvgSt.modCmd 0 fun c => { c with rows := [(0, 0)] } with who := [0] }
     (s.whoCmd.map fun c => (s.kvgFill c c.rows).isSome) = some true) ∧
    (let s : State := { drainSt.modCmd 0 fun c => { c with beat := 64 } with who := [0] }
     (s.whoCmd.map fun c => decide (64 ≤ c.beat)) = some true) ∧
    (let s : State := { kvgSt.modCmd 0 fun c => { c with beat := 32 } with who := [0] }
     (s.whoCmd.map fun c => c.rows.isEmpty && decide (c.kvgBeats ≤ c.beat)) = some true) ∧
    (let s : State := { taken (.segsum g true 8 0, kvSt kvTh) with who := [0] }
     (s.whoCmd.map fun c => c.beat != 1 && s.isNext c && (s.segsumAll c).toOption.isSome) = some true) ∧
    (let s : State := { taken (.kvr g 10 12 14, kvSt kvTh) with who := [0] }
     (s.whoCmd.map fun c => s.isNext c && (s.kvrAll c).toOption.isSome) = some true) ∧
    (let s := done (.kva g 0 0 false 6 0 16, kvSt kvTh) 256
     ((s.cmd? 0).map fun c => (((s.showWriter (cmdWriter c.id) maskDev).finishAll c.id).cmdSignal c 0x2800).toOption.isSome) =
       some true) := by decide +kernel

/-- A state with a job card at 0x40: 4 bytes of the codec at 0x1000, into 64 bytes at 0x2000, the ring at 0x3000. -/
def jobSt (codec srclen : Nat) : State :=
  withMem (at0 cmdTh) (cellsAt 0x40 (bytesOf (0x1000 + 2 ^ 64 * 0x2000 + 2 ^ 128 * srclen + 2 ^ 160 * 64 + 2 ^ 192 * 0x3000 +
    2 ^ 256 * 1 + 2 ^ 261 * codec) 64))

theorem wit_SiphonJobs :
    let i : Instr := .job g 0
    let s := jobSt 2 4
    let cmd := s.newCmd i 0 cmdTh .siphon 0 [0x40, 0]
    (s.issues i 0 cmdTh ∧ (cmdTh.pair 0).toNat % 64 = 0 ∧ cmdTh.inTask = false ∧ s.fenced = [] ∧ s.cmdWaits cmdTh .siphon = false ∧
      (((s.forUnit 0 cmd).cmdRead cmd 0x40 64).toOption.map fun x => cardBad x.2 (Card.read x.2)) = some false) ∧
    ([(0, 0), (0, 4), (1, 4), (2, 4)].all fun x =>
      (((after i (jobSt x.1 x.2)).siphonNext).map fun c => (c.card.codec, c.card.srclen, c.card.dstcap)) == some (x.1, x.2, 64)) = true ∧
    (let s := after .siphonDecode (after i (jobSt 0 0))
     ({ s with who := [0] } : State).whoCmd.map (fun c => c.unit == .siphon && c.job.isSome && !s.behind c) = some true) := by
  decide +kernel

/-- A thread with all its registers: fragments may stand at any register. -/
def fragTh : Thread := { th [] with alloc := 32, regs := List.replicate 256 0, blocks := upTo 0 32 }

/-- The 64 threads of the team, and convergence register 15 armed for their team with this many signatures. -/
def teamSt (count : Nat) (op : Option OpRec) : State :=
  { withConv (at0 fragTh) { armed 64 count op with members := 3 } with
    threads := (upTo 0 32).flatMap fun n => [(16 * n, fragTh), (16 * n + 1, { fragTh with gang := 1 })] }

/-- A matrix operation of thread 0 on tile 3. -/
def matOp (i : Instr) : MatOp :=
  { id := 7, core := 0, crew := 0, thr := 0, i := i, gang0 := 0, team := 1, sa := 0, idx := 0, tile := 3, started := none, want := []
    got := [], vals := [], flags := 0 }

/-- The queue of core 0's engine is full. -/
def busyMats (s : State) : State := { s with mats := (upTo 0 8).map fun n => { matOp (.aclr g false 0) with id := n } }

theorem wit_TeamOperationsSigned :
    let t := fragTh
    let mma : Instr := .mma g .f8 true false false false true 255 0 128 224 15
    let mmas : Instr := .mmas g .i8 false false true true false 0 0 128 31 15
    let op1 := opRecord mma ((0 : Tile).setWidth 8) 128 ((224 : Reg).setWidth 32)
    let op2 := opRecord mmas ((0 : Tile).setWidth 8) 128 (t.r 31)
    let cr (n : Nat) (op : Option OpRec) : Crew := { cr0 with convs := cr0.convs.set 15 { armed 64 n op with members := 3 } }
    (∀ s ∈ [teamSt 0 none, teamSt 63 (some op1), busyMats (teamSt 63 (some op1)), teamSt 63 (some op2)],
      s.issues mma 0 t ∧ s.issues mmas 0 t ∧ s.granted (t.crewKey 0) 0 = some 3 ∧
      (s.convCheck 0 { t with sig := [] } 15).isNone = true ∧ s.fenced = []) ∧
    (cr 0 none).teamOf { armed 64 0 none with members := 3 } = some 0 ∧ t.sig = [] ∧ t.crew < 64 ∧
    (∀ q ∈ regNums 128 32 ++ regNums 224 32 ++ [255] ++ [31], q < 8 * t.alloc) ∧
    ((teamSt 0 none).fragGate 0 t g (regNums 128 32 ++ regNums 224 32 ++ [255])).isNone = true ∧
    ((teamSt 0 none).fragGate 0 t g (regNums 128 32 ++ [31])).isNone = true ∧
    ((t.r 31).toNat % 2048 = 0 ∧ cr0.inAlloc (t.r 31).toNat 4096 = true) ∧ (busyMats (teamSt 63 (some op1))).matFull 0 = true := by
  decide +kernel

theorem wit_TileOperations :
    let t := th [7]
    let signed : Thread := { t with sig := [(15, 0)] }
    let traps : Thread := { t with fctl := 16 }
    let ops : List Instr := [.aclr g true 0, .anch g 0 (-64), .aput g 0 28 0, .aflag g true 0 31 0, .aget g 3 .rup false true 0 28 0]
    (∀ i ∈ ops, ok0 i t ∧ ok0 i signed ∧ (busyMats (at0 t)).issues i 0 t) ∧
    (∀ i ∈ ([.aclr g true 15, .anch g 15 (-64), .aput g 15 28 0, .aflag g true 15 31 0, .aget g 3 .rup false true 15 28 0] : List Instr),
      ok0 i t ∧ (at0 t).granted 0 15 = none) ∧
    ((at0 t).granted (t.crewKey 0) 0 = some 3 ∧ (at0 t).fenced = [] ∧ t.sig = [] ∧ (at0 t).matFull 0 = false ∧ t.floatTraps = false) ∧
    (ok0 (.aget g 0 .rup false true 0 28 0) traps ∧ traps.floatTraps = true ∧ (at0 traps).matQueue 0 = [] ∧
      (at0 traps).drainAhead 0 3 (at0 traps).nextId = false) ∧
    (∀ i ∈ ops, (({ at0 t with mats := [matOp i], who := [0] } : State).matStartable 0).map (·.i) = some i) ∧ NMap.wf (at0 t).tiles = true ∧
    (let t : Thread := { t with outs := [{
         i := .aflag g true 0 31 0, pc := 0, cb := 0, dests := [31], vals := [], flags := 0, isFloat := false, isMem := false, target := 0
         port := 0, va := 0, mat := some 7, at_ := 0 }] }
     let s : State := { at0 t with mats := [{ matOp (.aflag g true 0 31 0) with started := some 0 }], who := [0], now := 1 }
     (s.matDone 0).isSome = true ∧ (t.outs.find? fun o => o.mat == some 7).isSome = true) := by decide +kernel

/-- Registers for the segment instructions: 0 the context, 2 segment 1, 4 slot 1, 8 to 11 LINK's quad (segment 3, slot 0 at position
0, the overlay at 0x1800), 12 to 15 SEGNEW's quad, 16 its list at 0x40000, 18 an address that is no context, 20 zero. -/
def segTh : Thread := th [0x400, 0, 1, 0, 1, 0, 0, 0, 3, 0, 0x1800, 0, 1, 0x01010001, 0, 0, 0x40000, 0, 0x420, 0]

/-- A state with a pool of 8 blocks of 1 KiB, segment 1 OPEN and summed, 2 FREE, 3 SEALED and live in slot 1 of the context. -/
def segSt (t : Thread) : State :=
  let s := kvSt t
  { s with
    mem :=
      [(0x400, 2), (0x401, 1), (0x404, 1), (0x406, 1), (0x407, 1), (0x408, 5), (0x40D, 8), (0x415, 28), (0x41C, 1),
       (0x440, 1), (0x560, 3), (0x563, 1), (0x564, 1), (0x56D, 20), (0x801, 8), (0xC07, 10), (0xC08, 4), (0xC40, 1),
       (0xC42, 1), (0xC44, 1), (0xC45, 65), (0xC46, 128), (0xC50, 1), (0xC5A, 2), (0xCC0, 1), (0xCC2, 1), (0xCC4, 1),
       (0xCC5, 129), (0xCD0, 1), (0xCD4, 1), (0xCDA, 3), (0x1011, 4), (0x1019, 1), (0x1020, 1)]
    tlb := { page0 with va := 0x20000, size := 0x10000, leaf := 0x2000F } :: s.tlb
    pool := [(0, { owner := 1, sealed := false })]
    parts := s.parts.modify 0 fun p => { p with desc := p.desc + 0x800000000000000000000000000000000 }
    host := { s.host with poolcfg := 0x80#64 <<< 40 ||| 10#64 <<< 32 ||| 8 } }

theorem wit_SegmentsInTask :
    let task : Thread := { segTh with inTask := true }
    ∀ i ∈ ([.segnew g 31 12 16, .segnewDel g 31 2, .segseal g 2, .link g false 31 0 8, .unlink g 31 0 4] : List Instr),
      (segSt task).issues i 0 task ∧ (segSt segTh).issues i 0 segTh := by decide +kernel

theorem wit_SegmentInstructions :
    let t := segTh
    let s := segSt t
    let rd (i : Instr) : Option Seg := (s.segHdr (s.asCmd i 0 t)).toOption.bind fun x =>
      (x.1.segOf (s.asCmd i 0 t) x.2 1).toOption.bind (·.2)
    ((segFields (t.r 12) (t.reg 13) (pairOf (t.reg 14) (t.reg 15))).bind fun x =>
      ((s.releaseDev 0 t).segMake (s.asCmd (.segnew g 31 12 16) 0 t) x 0x40000).toOption.map (·.2)) = some 2 ∧
    (rd (.segnewDel g 31 2)).map (fun x => x.state == 1 && x.links == 0 && x.summed &&
      (s.blockList (s.asCmd (.segnewDel g 31 2) 0 t) x.blist x.nblk).toOption == some [0] &&
      (s.tableCells (s.asCmd (.segnewDel g 31 2) 0 t) (s.segVa 0 1) ({ x with state := 0 } : Seg).bytes).toOption.isSome &&
      (s.regionPages 0 0 0 x.blist 65536 1 x.blist).toOption.isSome) = some true ∧
    (∀ w ∈ [false, true], s.inFlight 0 w 0 1024 = false) ∧ s.kvaRuns 0 0x400 = false ∧
    (t.pair 18).toNat % 64 ≠ 0 ∧ s.issues (.link g true 31 18 8) 0 t ∧
    (let s : State := { s with cmds := [{ s.newCmd (.kva g 0 4 false 6 0 16) 0 t (.sluice 0) 0 [0x400, 0, 0x3000, 0] with beat := 1 }] }
     s.kvaRuns 0 0x400 = true ∧ s.issues (.link g true 31 0 8) 0 t) := by decide +kernel

theorem wit_Link :
    let t := segTh
    let s := segSt t
    let i : Instr := .link g false 31 0 8
    s.issues i 0 t ∧
    (((s.releaseDev 0 t).cmdRead (s.asCmd i 0 t) 0x400 64).toOption.bind fun x =>
      let c := Ctx.read 0x400 x.2
      (x.1.linkChecks (s.asCmd i 0 t) c 3 0 0 0x1800 false).toOption.map fun y =>
        !c.resv && c.rentry != 0 && y.2.toOption == some 0) = some true := by decide +kernel

/-- The reads and checks of an UNLINK's step succeed. -/
def unlinkReads (s : State) (c : Cmd) (x : Ctx) (slot : Nat) (le : LinkE) : Bool :=
  match s.orderOf c x with
  | .error _ => false
  | .ok (s, order) =>
    match s.entriesOf c x (order.filter fun n => n != slot), s.segHdr c with
    | .ok (s, es), .ok (_, hdr) =>
      (match s.ctxCells c x es [0], s.cmdCells c (x.entryVa slot) ({ le with state := 2 }).bytes, s.segOf c hdr le.seg with
       | .ok (s, _), .ok (_, _), .ok (_, some g) =>
         (s.tableCells c (s.segVa c.vf le.seg) ({ g with links := g.links - 1 }).bytes).toOption.isSome
       | _, _, _ => false)
    | _, _ => false

theorem unlinkStep_ok (s : State) (c : Cmd) (x : Ctx) (slot : Nat) (le : LinkE) (h : unlinkReads s c x slot le = true) :
    ∃ u n, s.unlinkStep c x slot le = .ok (u, n) := by
  unfold unlinkReads at h
  unfold State.unlinkStep
  repeat' split at h
  all_goals first | (simp at h; done) | skip
  rename_i hc hw hg
  cases hx : State.tableCells _ c _ _ with
  | error e => rw [hx] at h; simp [Except.toOption] at h
  | ok tc =>
    simp only [*]
    exact ⟨_, _, rfl⟩

theorem wit_Unlink :
    let t := segTh
    let s := segSt t
    let i : Instr := .unlink g 31 0 4
    s.issues i 0 t ∧
    (((s.releaseDev 0 t).cmdRead (s.asCmd i 0 t) 0x400 64).toOption.bind fun x =>
      let c := Ctx.read 0x400 x.2
      (x.1.linkOf (s.asCmd i 0 t) c 1).toOption.map fun y =>
        y.2.state == 1 && decide (1 < c.slots) && unlinkReads y.1 (s.asCmd i 0 t) c 1 y.2) = some true := by decide +kernel

theorem wit_Rstat :
    let t := segTh
    let s := segSt t
    ∀ x ∈ ([(.state, 20), (.base, 20), (.prc, 20), (.out, 20), (.noops, 20), (.ready, 20), (.pending, 20), (.tail, 0)] :
        List (RstatSel × Reg)),
      s.issues (.rstat g x.1 30 0 x.2) 0 t ∧
      ((s.drainAll 0).rstatRead (s.asCmd (.rstat g x.1 30 0 x.2) 0 t) x.1 0x400 0 0).toOption.isSome = true := by decide +kernel

theorem wit_MasksAndRotations :
    ∀ i ∈ ([.anc g 6 0 2 1, .szb g .rup 31 0, .rotq g true 31 0 1 2, .rotq g false 30 0 2 3] : List Instr), ok0 i (th [5, 4, 7]) := by
  decide

/-- A thread for selections: registers 0 the quad of a PSEL (the context, the list), 4 the query and the parameters, 9 an output, 12 and 16 the quads of a TMRG, 20 a map's handle, 22 a row and its elements,
24 a count of one. -/
def selTh : Thread :=
  th [0x400, 0, 0, 0x100, 0x200, 0x10001, 0, 0, 0, 0x300, 0x40, 0, 0, 0x100, 0x200, 0x300, 0x380, 0x10002, 0x10001, 0xFFFFFFFF, 0, 0, 0x100, 1, 1, 0, 1, 0]

/-- The crew of the selections: map 0 is live. -/
def selCrew (child : Bool) : Crew :=
  { cr0 with
    rows := 32
    maps := { (cr0.maps.headD (MapEntry.mk false 0 0 0 0 0 false 0 none)) with live := true, n := 2, m := 1, depth := 1, parent := 7, child := child, addr := 0x40 }
      :: cr0.maps.tail }

/-- The state of the selections. -/
def selSt (t : Thread) (child : Bool) : State := { kvSt t with crews := [(0, selCrew child)] }

/-- The words of this part that leave a command. -/
def selOps : List Instr :=
  [.topk g false false 9 10 24, .topk g true true 9 10 24, .topp g true false 9 10 24, .topp g false true 9 10 24, .psel g 9 0 4, .tmrg g 9 12 16,
    .tunm g 20 22 9]

theorem wit_Selection :
    let t := selTh
    let cr := selCrew false
    let s := selSt t false
    s.crew? (t.crewKey 0) = some cr ∧ t.inTask = false ∧ s.fenced = [] ∧ (∀ u ∈ [EngUnit.select, .weir 0, .confluence 0], s.cmdWaits t u = false) ∧
    (∀ i ∈ selOps, s.issues i 0 t) ∧
    ((t.r 24).toNat = 1 ∧ (t.reg 25).toNat = 0 ∧ (t.reg 26).toNat = 1 ∧ (f32Val (t.reg 25)).isNan = false) ∧
    ((t.r 9).toNat % 32 = 0 ∧ cr.inAlloc (t.r 9).toNat 64 = true ∧ (t.r 10).toNat % 8 = 0 ∧ cr.inAlloc (t.r 10).toNat 8 = true ∧
      overlap ((t.r 9).toNat / 32) 2 2 1 = false ∧ (t.pair 10).toNat % 8 = 0 ∧ (t.pair 10).toNat < 2 ^ 56) ∧
    (let z := { t with regs := t.regs.set 24 0 }
     (∀ i ∈ selOps.take 4, (selSt z false).issues i 0 z) ∧ (z.r 24).toNat = 0) := by decide +kernel

theorem wit_SelectionPages :
    let t := selTh
    let cr := selCrew false
    let s := selSt t false
    let cmd := s.newCmd (.psel g 9 0 4) 0 t (.weir 0) 0 (t.r 9 :: t.rs 0 4 ++ [t.r 4, t.reg 5])
    pselParams (t.reg 5).toNat = some (1, 1, 1) ∧
    scratchOperands cr [(t.r 9, pselSize 1 1), (t.reg 3, 4), (t.r 4, 4)] = none ∧
    overlap (t.r 9).toNat (pselSize 1 1) (t.reg 3).toNat 4 = false ∧ (t.reg 2).toNat = 0 ∧
    ((s.ctxOf cmd (t.pair 0).toNat).toOption.map fun x => !x.2.malformed && cr.inAlloc (t.r 4).toNat (4 * x.2.shape.d) &&
      !overlap (t.r 9).toNat (pselSize 1 1) (t.r 4).toNat (4 * x.2.shape.d) && decide (0 < x.2.shape.layers) &&
      decide (0 < x.2.shape.heads) && (x.1.pselFetch cmd x.2).toOption.isSome) = some true := by decide +kernel

theorem wit_SelectionMaps :
    let t := selTh
    let cr := selCrew false
    let s := selSt t false
    let ws := t.rs 12 4 ++ t.rs 16 4
    let x := Merge.of ws
    (x.shapeBad (ws.getD 6 0) = false ∧ scratchOperands cr (x.inputs ++ x.outputs) = none ∧ x.overlaps = false ∧
      (cr.mergeDepth x).toOption = some 1 ∧ (cr.mapSlots.find? fun z => !z.1.live).isSome = true) ∧
    ((cr.mapOf (t.r 20)).map (fun y => (y.1.child, y.2)) = some (false, 0) ∧ t.reg 23 = 1 ∧
      overlap (t.r 9).toNat 64 (t.r 22).toNat 32 = false ∧ overlap (t.r 9).toNat 64 0x40 (mapSize 2) = false ∧
      scratchOperands cr [(t.r 22, 32), (t.r 9, 64)] = none) ∧
    (∀ i ∈ ([.tmapInfo g 2 20, .tmapParent g 2 20, .tmapFree g 20, .tmapInfo g 2 9, .tmapParent g 2 9, .tmapFree g 9, .tunm g 9 22 9] : List Instr),
      s.issues i 0 t) ∧
    cr.mapOf (t.r 9) = none ∧ s.mapInFlight (t.crewKey 0) (t.r 20) = false ∧
    (after (.tunm g 20 22 9) s).mapInFlight (t.crewKey 0) (t.r 20) = true ∧
    ((selSt t true).crew? 0).bind (fun c => (c.mapOf (t.r 20)).map fun y => y.1.child) = some true ∧ (selSt t true).issues (.tmapFree g 20) 0 t :=
  by decide +kernel

theorem wit_SelectionHeads :
    ((taken (.psel g 9 0 4, selSt selTh false)).unitHead (.weir 0)).map (fun c => c.task.isNone &&
      ((taken (.psel g 9 0 4, selSt selTh false)).pselAll c).toOption.isSome) = some true ∧
    ([.topk g true true 9 10 24, .topp g true false 9 10 24].all fun i => ((taken (i, selSt selTh false)).unitHead .select).map (fun c =>
      c.task.isNone && ((taken (i, selSt selTh false)).selectAll c).toOption.isSome) == some true) = true ∧
    ([.tmrg g 9 12 16, .tunm g 20 22 9].all fun i => ((taken (i, selSt selTh false)).unitHead (.confluence 0)).map (·.i) == some i) = true ∧
    (({ taken (.tunm g 20 22 9, selSt selTh false) with who := [0] } : State).wf = true) := by decide +kernel

/-- Queue 5: enabled, of partition 0, with this configuration besides and these entries. -/
def q5 (cfg : DWord) (ents : List (Entry × Nat)) : Queue := { Queue.reset with qcfg := 1 ||| cfg, ents := ents }

/-- An entry of an entry point and flags, over 0 to 8. -/
def ent (p flags : Word) : Entry := Entry.ofWords [p, flags, 0, 8, 0, 0, 0, 0xFFFFFFFF]

/-- A task of queue 5. -/
def tk (flags : Word) (signer : Option Nat) (buf : List BufRec) : Task :=
  { e := ent 1 flags, handle := 0, seq := 0, q := 5, elapsed := 0, buf := buf, rset := [], signer := signer, committing := false
    nextRec := 0, dispatch := 0, held := false }

/-- The request of crew 0 for an entry of queue 5. -/
def pop5 (nb : Bool) : PopReq := { nb := nb, any := false, q := 5, d := 8, cm := 0, since := 0 }

/-- Crew 0 with this task, request and convergence register 0. -/
def taskCrew (x : Option Task) (p : Option PopReq) (r : ConvReg) : Crew :=
  { cr0 with task := x, pop := p, convs := cr0.convs.set 0 r }

/-- Thread 0 issues in the state with that crew; queue 5 is open. -/
def taskSt (t : Thread) (cr : Crew) : State := { at0 t with crews := [(0, cr)], queues := [(5, q5 0 [])] }

/-- A thread that is in a task. -/
def inTk (t : Thread) : Thread := { t with inTask := true }

/-- A thread that is parked on convergence register 0. -/
def onCv (t : Thread) : Thread := { t with phase := .parked (.conv 0) 3 }

/-- The entry that a TSPAWN of register 8 names. -/
def spTh : Thread := th [0, 0, 0, 0, 0, 0, 0, 0, 1, 0, 0, 8, 0, 0, 0, 0, 0, 0, 0, 0, 0, 0, 0, 0]

theorem wit_Tasks :
    let t := th []
    let pop : Instr := .tpop g false false 8 5 0
    let st (r : ConvReg) (p : Option PopReq) : State := taskSt t (taskCrew none p r)
    (∀ r ∈ [armed 1 0 none, armed 2 0 none, armed 1 1 (some (opRecord pop 8 0 5)), armed 1 1 (some (opRecord pop 8 0 4))],
      (st r none).issues pop 0 t ∧ ((st r none).crew? 0).map (fun c => (c.conv 0, c.pop)) = some (r, none)) ∧
    ((st (armed 1 0 none) (some (pop5 true))).issues pop 0 t ∧ (0 : Conv).toNat < cr0.convs.length ∧ 5 ∈ cr0.queues) ∧
    ((st (armed 1 0 none) none).convCheck 0 t 0).isNone = true ∧ ((st (armed 1 0 none) none).crewThreads 0).length = 1 ∧
    ((st (armed 1 0 none) none).issues (.tpop g false false 8 6 0) 0 t ∧ (6 : QNum).toNat ∉ cr0.queues) ∧
    ((taskSt (inTk t) (taskCrew (some (tk 0 none [])) none (armed 1 0 none))).issues pop 0 (inTk t)) ∧
    (let i : Instr := .tdone g 0
     (taskSt t (taskCrew none none (armed 1 0 none))).issues i 0 t ∧
     (∀ x ∈ [tk 0 none [], tk 0 (some 0) []], (taskSt (inTk t) (taskCrew (some x) none (armed 1 0 none))).issues i 0 (inTk t)) ∧
     ((taskSt (inTk t) (taskCrew (some (tk 0 none [])) none (armed 1 0 none))).convCheck 0 (inTk t) 0).isNone = true) ∧
    (let i : Instr := .tspawn g 8 5
     let e := (Entry.ofWords (spTh.rs 8 8)).pushedBy 0 0xFFFFFFFF
     let s := taskSt spTh cr0
     s.issues i 0 spTh ∧ s.queueOpen 0 5 = true ∧ (s.queue 5).rejects e true = false ∧ (s.queue 5).spcnt = 0 ∧
     (s.queue 5).ents.length < 64 ∧ s.issues (.tspawn g 0 5) 0 spTh ∧
     (s.queue 5).rejects ((Entry.ofWords (spTh.rs 0 8)).pushedBy 0 0xFFFFFFFF) true = true ∧ s.issues (.tspawn g 8 6) 0 spTh ∧
     s.queueOpen 0 6 = false) := by decide +kernel

theorem wit_TaskEnds :
    let t := th []
    let three : List Instr := [.tsplit g, .tabort g, .tabortRq g]
    (∀ i ∈ three, (taskSt t cr0).issues i 0 t) ∧
    (∀ x ∈ [tk 0 none [], tk 1 none [], tk 1 (some 0) [], tk 0x401 none []],
      ∀ i ∈ three, (taskSt (inTk t) (taskCrew (some x) none ConvReg.reset)).issues i 0 (inTk t) ∧
        (taskSt (inTk t) (taskCrew (some x) none ConvReg.reset)).task? 0 = some x) ∧
    ((ent 1 0).splits = false ∧ (ent 1 1).splits = true ∧ (ent 1 0x401).splits = false) ∧
    (∀ sel ∈ [TstatSel.last, .handle, .elapsed, .wbused, .rset, .qdepth],
      (taskSt t cr0).issues (.tstat g sel 8 (if sel = .qdepth then 5 else 0)) 0 t ∧
      (taskSt (inTk t) (taskCrew (some (tk 0 none [])) none ConvReg.reset)).issues (.tstat g sel 8 (if sel = .qdepth then 5 else 0)) 0
        (inTk t)) ∧
    ((taskSt t cr0).queue 5).vf = t.vf ∧
    ({ taskSt t cr0 with queues := [(5, q5 0x100 [])] } : State).issues (.tstat g .qdepth 8 5) 0 t ∧ (q5 0x100 []).vf ≠ t.vf := by
  decide +kernel

/-- A state in which crew 0 waits with a request, thread 0 is parked and queue 5 holds these entries. -/
def waitSt (nb : Bool) (q : Queue) : State :=
  { withMem (taskSt (onCv (th [])) (taskCrew none (some (pop5 nb)) (armed 1 0 none))) [] with
    queues := [(5, q)], parts := [(0, { Part.reset with desc := 0x4000000000000000001, everRun := true, trcount := 1 })] }

theorem wit_EngineStores :
    (let z := taken (.kva g 0 0 false 6 0 16, segSt kvTh)
     let s : State := { z with host := { z.host with poolcfg := 0x80#64 <<< 40 ||| 5#64 <<< 32 ||| 8 } }
     s.wf && (s.cmd? 0).any fun c => (s.segHdr c).toOption.any fun x => (x.1.tailOf c c.ctx).toOption.any fun y =>
       (y.1.kvaBlock c c.ctx x.2 y.2).toOption.isSome && (y.1.kvaRows c c.ctx x.2 0 0).toOption.isSome) = true ∧
    (let z := taken (.kva g 0 0 false 6 0 16, segSt kvTh)
     let s : State := { z with mem := Memory.writeAll z.mem [(0x580, 1), (0x588, 1)] }
     s.wf && (s.cmd? 0).any fun c => (s.segHdr c).toOption.any fun x => (x.1.tailOf c c.ctx).toOption.any fun y =>
       y.2.len == 1 && (s.kvaToken c).toOption.isSome) = true ∧
    (drainSt.wf && NMap.wf drainSt.tiles && [DrainMode.store, .fadd, .xadd].all fun m => (drainSt.cmd? 0).any fun c =>
      let recd := if m = .xadd then bytesOf (tlr1 + 2 ^ 432 * 9 + 2 ^ 448 * 0x2000) 64 else c.recd
      (drainSt.drainRow { c with i := .drain g 3 m true false 0 2 8 0, recd := recd } m false).toOption.isSome) = true ∧
    (let s := taken (.acpS g 1 7 0 true 16 0 16, cmdSt)
     s.wf && (s.cmd? 0).any fun c => (s.acpStore c).toOption.isSome && c.task.isNone) = true ∧
    (let s : State := { taken (.acpS g 1 7 0 true 16 0 16, cmdSt) with
       crews := [(0, taskCrew (some (tk 0 none [])) none ConvReg.reset)], queues := [(5, q5 0 [])] }
     s.wf && (s.cmd? 0).any fun c =>
       let c := { c with task := some 0 }
       (s.cmdTask c).isSome && ((s.cmdCells c (c.op2 2).toNat (List.replicate 32 0)).toOption.any fun x =>
         (x.1.bufferBytes 0 (cellsAt 0x40 (List.replicate 32 0))).2) && (s.acpStore c).toOption.isSome) = true := by decide +kernel

/-- Only queue 5 of a waiting state holds anything. -/
theorem waitSt_queue (nb : Bool) (q : Queue) (n : Nat) (h : n ≠ 5) : (waitSt nb q).queue n = Queue.reset := by
  simp [waitSt, withMem, State.queue, NMap.getD, NMap.find?, Ne.symm h]

theorem wit_TaskDispatch :
    let s := waitSt false (q5 0 [(ent 1 0, 7)])
    (s.wf = true ∧ NMap.wf s.queues = true ∧ headgateUnit ∉ s.fenced ∧ s.hg.last ≠ s.now + 1 ∧ s.emptyNb = none) ∧
    (s.crew? 0 = some (taskCrew none (some (pop5 false)) (armed 1 0 none)) ∧ (s.part 0).line = .running ∧ s.crewOnConv 0 = true ∧
      (s.queue 5).en = true ∧ (s.queue 5).vf = 0 ∧ (s.frontOf 5).map (·.1) = some (ent 1 0, 7) ∧ s.pushedEarly 0 (ent 1 0) = false ∧
      s.recFree 0 = true ∧ s.crewEvicted 0 = [] ∧ s.hg.ptr ≤ 5) ∧
    ((∀ n, n ≠ 5 → (s.queue n).en = false) ∧ ∀ k c, s.crew? k = some c → k = 0) ∧
    (let z := waitSt true (q5 0 [])
     z.emptyNb = some (0, pop5 true) ∧ z.crewEvicted 0 = []) ∧
    (let z : State := { s with parts := [(0, { Part.reset with everRun := true })] }
     z.emptyNb = none ∧ (z.frontOf 5).isSome = true ∧ z.recFree 0 = false) ∧
    (let q : Queue := { q5 2 [(ent 1 4, 7)] with spcnt := 1, spseq := [4] }
     let z : State := { waitSt true q with who := [5] }
     0 < (z.queue 5).spcnt ∧ (z.queue 5).ents.length < 64 ∧ (z.queue 5).ordered = true ∧
     (z.access agHeadgate (z.queue 5).vf hubCore ((z.queue 5).place (z.queue 5).sphead) .read).toOption.isSome = true ∧
     (z.ringEntry 5 0).map (fun y => keyLt y (ent 1 4, 7)) = some true ∧ ({ z with fenced := [headgateUnit] } : State).fenced.contains headgateUnit = true) := by
  refine ⟨by decide +kernel, by decide +kernel, ⟨fun n h => by rw [waitSt_queue _ _ _ h]; rfl, fun k c h => ?_⟩, by decide +kernel, by decide +kernel, by decide +kernel⟩
  simp [waitSt, withMem, taskSt, State.crew?, NMap.find?] at h
  exact h.1.symm

/-- A state in which crew 0 has signed its TDONE for this task of queue 5, of this configuration, and another task of the
queue runs. -/
def commitSt (x y : Task) (cfg : DWord) : State :=
  let t := onCv (inTk (th []))
  { withMem (taskSt t cr0) [] with
    crews := [(0, taskCrew (some x) none ConvReg.reset), (1, taskCrew (some y) none ConvReg.reset)]
    queues := [(5, q5 cfg [])], who := [0] }

/-- The younger task of queue 5, which has read line 1, and a record that writes it. -/
def tk1 : Task := { tk 2 none [] with seq := 1, rset := [1] }

/-- A record that writes the line. -/
def line1 : BufRec := .line 1 [(0, 5)]

theorem wit_CommitRecords :
    [commitSt { tk 0 (some 0) [] with committing := true } tk1 0, commitSt { tk 0 (some 0) [line1] with committing := true } tk1 0].all (fun z =>
      z.who == [0] && z.commitGoes 0 && z.crewOnConv 0 && (z.thread? 0).isSome && ((z.task? 0).bind (·.signer) == some 0)) = true ∧
    ((commitSt { tk 0 (some 0) [line1] with committing := true } tk1 0).commitAccess 0 0 128).toOption.isSome = true ∧
    (commitSt { tk 0 (some 0) [line1] with committing := true } tk1 0).mem.wf = true := by
  decide +kernel

theorem wit_TaskCommit :
    [(0 : DWord), 2].all (fun c => (commitSt (tk 0 (some 0) [line1]) tk1 c).commitReady 0) = true ∧
    ((commitSt (tk 0 (some 0) [line1]) tk1 2).taskOrdered (tk 0 (some 0) [line1]) = true ∧
      (commitSt (tk 0 (some 0) [line1]) tk1 0).taskOrdered (tk 0 (some 0) [line1]) = false ∧
      tk1.rset = [1] ∧ (commitSt (tk 0 (some 0) [line1]) tk1 2).writeSet (tk 0 (some 0) [line1]) = [1] ∧
      keyLt ((tk 0 (some 0) [line1]).e, 0) (tk1.e, 1) = true) := by decide +kernel

theorem wit_TaskComplete :
    let r (p : Word) : TaskRec := { gen := 255, live := true, e := { ent 1 0 with parent := p }, outstanding := 0, committed := true }
    let z : State := { State.reset with who := [0, 0], parts := [(0, { Part.reset with tasks := [(0, r 0xFF000001), (1, r 0xFFFFFFFF)] })] }
    (z.part 0).tasks.find? 0 = some (r 0xFF000001) ∧ z.recLive 0 0xFF000001 = true ∧ ((z.part 0).tasks.find? 1).isSome = true := by
  decide +kernel

/-- A state in which thread 0 waits for register blocks, in a task or not. -/
def grantSt (task : Option Task) : State :=
  let t : Thread := { th [] with phase := .parked (.grant 8) 0, inTask := task.isSome }
  { taskSt t (taskCrew task none ConvReg.reset) with who := [0, 0] }

theorem wit_CrewEvents :
    (let s : State := { taskSt (inTk (th [])) (taskCrew (some { tk 0 none [] with elapsed := 4096 }) none ConvReg.reset) with
       queues := [(5, q5 0x40000 [])], who := [0] }
     s.timeUp 0 = true ∧ s.issuedAll 0 = true) ∧
    (let t : Thread := { inTk (th []) with rsHold := true }
     let s : State := { taskSt t (taskCrew (some (tk 0 none [])) none ConvReg.reset) with who := [0] }
     s.thread? 0 = some t ∧ s.task? (t.crewKey 0) = some (tk 0 none []) ∧ s.oldest 0 (tk 0 none []) = true) ∧
    (let s : State := { State.reset with crews := [(0, { cr0 with ended := true, gen := 255 })], who := [0] }
     s.crew? 0 = some { cr0 with ended := true, gen := 255 } ∧ s.crewIdle 0 = true) ∧
    (∀ x ∈ [none, some (tk 0 none [])], (grantSt x).deadlocked 0 0 = true) ∧
    youngest (((grantSt (some (tk 0 none []))).lgTasks 0 0).filter fun x => x.2.signer.isNone) = some (0, tk 0 none []) ∧
    (grantSt none).lgTasks 0 0 = [] := by decide +kernel

/-- Two filed threads of lane group 0: lane 0 in furrow 0, lane 1 in furrow 0, filed in these cycles. -/
def filedSt (a b : Nat) : State :=
  { withMem (at0 (th [])) [] with
    threads := [(0, { th [] with phase := .filed 0, ftime := a }), (16, { th [] with phase := .filed 0, ftime := b })], issue := none, now := 100 }

theorem wit_BundlesFormed :
    (let s : State := { filedSt 4100 4110 with who := [0, 0] }
     s.wf = true ∧ s.formedNow 0 0 = false ∧ (s.formHead 0 0).map (·.1) = some 0 ∧ (s.filedThreads 0 0).map (·.1) = [0, 16]) ∧
    (let s : State := { filedSt 4100 4110 with who := [0, 0], lgs := [(0, { (State.reset.lg 0) with rotation := [fetchBundle 100] })] }
     s.wf = true ∧ s.formedNow 0 0 = true) ∧
    (let s : State := { filedSt 4100 4110 with who := [0, 0, 0] }
     s.wf = true ∧ ((s.filedThreads 0 0).head?.map fun x => (x.1, x.2.filed?)) = some (0, some 0) ∧
     (s.filedThreads 0 0).all (fun y => decide (4100 * 2048 ≤ ageKey y)) = true) := by decide +kernel

/-- A state with thread 0 parked for this. -/
def parkSt (t : Thread) (why : Park) : State := { at0 { t with phase := .parked why 3 } with who := [0], issue := none, now := 1 }

/-- A log entry with this verdict on fault 9. -/
def logged (v : Nat) : LogEntry :=
  { word := 0, pc := 0x30008, cb := 0x30000, srcs := [], dests := [], cause := .pageNotPresent, va := 0x40, fid := 9, verdict := v
    cmd := none, at_ := 0, commit := false }

theorem wit_ParksEnd :
    (∀ why ∈ [Park.tag 1, .tag 0, .grant 8, .grant 4, .sector 0, .conv 0, .fault],
      let s := parkSt (th []) why
      s.who = [0] ∧ (s.thread? 0).map (fun t => (t.phase, t.declined)) = some (Phase.parked why 3, false) ∧
        ((s.thread? 0).all fun t => t.fetchDecl.isNone && !t.replayWait) = true ∧
        s.mayRun 0 0 = true ∧ (th []).since ≠ s.now ∧ (th []).imps = []) ∧
    (let t : Thread := { th [] with phase := .parked (.tag 1) 3, imps := [{ cause := .hostAbort, pc := 0, cb := 0, va := 0, at_ := 0 }] }
     let s : State := { atCode t with who := [0], issue := none, now := 1 }
     s.thread? 0 = some t ∧ t.interruptible = true ∧ t.declined = false ∧ s.undelivered t 0 .hostAbort = false ∧ s.mayRun 0 0 = true) ∧
    (((parkSt { th [] with since := 1 } (.tag 1)).thread? 0).map (·.since) = some (parkSt (th []) (.tag 1)).now) ∧
    (let t : Thread := { th [] with kcnt := [1, 0, 0, 0, 0, 0, 0, 0] }
     (parkSt t (.tag 1)).waitOver 0 t (.tag 1) = false ∧ (parkSt t (.tag 2)).waitOver 0 t (.tag 2) = true ∧
     (parkSt t (.grant 4)).waitOver 0 t (.grant 4) = true) ∧
    (∀ v ∈ [0, 2], ((parkSt { th [] with log := [logged v] } .fault).thread? 0).map (·.declined) = some (decide (v = 2))) ∧
    (let t : Thread := { th [] with log := [logged 0], replayWait := true }
     ((parkSt t (.tag 1)).thread? 0).map (fun t => (t.replayWait, t.log.length, t.declined)) = some (true, 1, false) ∧
     (parkSt t (.tag 1)).waitOver 0 t (.tag 1) = true) ∧
    (let t : Thread := { th [] with fetchDecl := some (.pageNotPresent, 0x30000) }
     ((parkSt t .fault).thread? 0).map (fun t => (t.fetchDecl.isSome, t.declined)) = some (true, false)) := by
  decide +kernel

/-- The accesses of system registers by a privileged thread. -/
def sysOps : List Instr :=
  ([0x000, 0x001, 0x010, 0x017].map fun r => Instr.mtx g false r 0) ++
  ([0x013, 0x014, 0x018, 0x019, 0x200, 0x204, 0x011, 0x012, 0x210, 0x3FF].map fun r => Instr.mtx g true r 0) ++
  ([0x010, 0x017, 0x100, 0x203].map fun r => Instr.mfx g false r 2) ++
  ([0x011, 0x030, 0x200, 0x20D, 0x213, 0x3FF].map fun r => Instr.mfx g true r 2) ++
  [.furcfgWrite g 0, .uniformMissRead g 2, .haltrecRead g 2, .trareaWrite g false 0, .trareaWrite g true 0, .fqcfgWrite g 0, .poolfree g 0,
    .poolstatRead g 2, .qcfgrWrite g 0, .qspillrWrite g 0, .qstatWrite g 0, .halt g 0x2A]

/-- The words of these that a state with this thread 0 does not let it issue. -/
def notIssued (s : State) (t : Thread) (is : List Instr) : List Instr := is.filter fun i => !decide (s.issues i 0 t)

theorem wit_SystemRegisters :
    notIssued (withMem (at0 (th [5, 0])) []) (th [5, 0]) sysOps = [] ∧
    (let t := th [0x105, 0]
     let s (cfg : DWord) (n : Nat) : State :=
       { taskSt t cr0 with queues := [(5, { q5 cfg [] with spcnt := n })], parts := [(0, { Part.reset with qsel := 5 })] }
     ∀ i ∈ ([.fqcfgWrite g 0, .qcfgrWrite g 0, .qspillrWrite g 0, .qstatWrite g 0] : List Instr),
      (s 0 0).issues i 0 t ∧ (s 0x100 0).issues i 0 t ∧ (s 0 0).selected 0 = some 5 ∧ (s 0x100 0).selected 0 = none ∧
        (s 0x100 0).queue 5 ≠ (s 0 0).queue 5) ∧
    ((taskSt (inTk (th [])) (taskCrew (some (tk 0 none [])) none ConvReg.reset)).tasksRun 0 = true ∧ (at0 (th [])).tasksRun 0 = false) ∧
    (let s : State := { at0 (th []) with pool := [(0, { (State.reset.poolTag 0) with owner := 1, sealed := false })] }
     NMap.wf s.pool = true ∧ (s.poolTag 0).owner = 0 + 1 ∧ (s.poolTag 0).sealed = false ∧ s.issues (.poolfree g 0) 0 (th [])) := by
  decide +kernel

theorem wit_HaltStops :
    ok0 (.halt g 0x2A) (th []) ∧ ((at0 (th [])).part 0).line = .running ∧
    (let s : State := { at0 (th []) with parts := [(0, { Part.reset with line := .halted })] }
     s.issues (.halt g 0x2A) 0 (th []) ∧ (s.part 0).line = .halted) ∧
    (∀ h ∈ [true, false], let s : State := { at0 (th []) with parts := [(0, { Part.reset with line := .stopping h 5 none })] }
     s.issues (.halt g 0x2A) 0 (th []) ∧ (s.part 0).line = .stopping h 5 none) := by decide +kernel

/-- A thread for EVICT: register 0 names core and crew, 1 the lanes' group and blocks, 2 the area. -/
def evTh (a : Word) : Thread := th [a, 0x104, 0x40000, 0, 0, 0]

/-- A page fault-free area of 40 pages and a victim on lane 1; the crew of thread 0 may be evicted as well. -/
def evSt (t : Thread) : State :=
  let s := withMem (at0 t) []
  { s with
    threads := [(0, t), (16, { th [] with phase := .filed 0, blocks := [0, 1, 2, 3] })]
    parts := s.parts.modify 0 fun p => { p with desc := 0x4000000000000000001 } }

theorem wit_ThreadsEvictedAndRestored :
    (let t := evTh 0
     let s := evSt t
     s.issues (.evict g 4 0 1 2) 0 t ∧ s.areaCause t (t.r 0) (t.r 1) (t.pair 2) true = none ∧
     (lanesOfMask 0 1).all (fun l => decide (4 ≤ (s.freeBlocks 0 l).length)) = true ∧
     (s.threads.all fun x => !x.2.evictable || x.2.outs == []) = true ∧ (s.victim 0 0 1).map (·.1) = some 16) ∧
    (let t := evTh 0x4000
     (evSt t).issues (.evict g 4 0 1 2) 0 t ∧ ((evSt t).areaCause t (t.r 0) (t.r 1) (t.pair 2) true).isSome = true ∧
     (evSt t).issues (.resumeThreads g 4 0 2) 0 t ∧ ((evSt t).areaCause t (t.r 0) 0 (t.pair 2) false).isSome = true) ∧
    (let t := evTh 0
     let s := evSt t
     s.issues (.resumeThreads g 4 0 2) 0 t ∧ s.areaCause t (t.r 0) 0 (t.pair 2) false = none) := by decide +kernel

theorem wit_EvictionArea :
    let t := evTh 0
    (((evSt t).areaPages 0 t 0x40000).toOption.map (·.length)) = some 40 ∧
    ((at0 t).areaPages 0 t 0x40000).toOption.isSome = false := by decide +kernel

/-- Thread 0 of steward core 128 issues; its partition's line stands like this. -/
def stewSt (t : Thread) (line : Line) : State :=
  let s := withMem (atK (128 * 2048) t) []
  { s with parts := s.parts.modify 0 fun p => { p with line := line } }

theorem wit_PartitionQuiesced :
    let k := 128 * 2048
    let t := th [0x1040, 0, 0, 0, 0x1001, 0]
    let four : List Instr := [.quiesceStop g, .quiesceSave g 6 0 2, .resumeRun g, .resumeLoad g 0]
    isSteward (coreOf k) = true ∧
    (∀ i ∈ four, ∀ l ∈ [Line.running, .quiesced (some 8192), .quiesced none, .halted], (stewSt t l).issues i k t) ∧
    (∀ i ∈ four, (at0 t).issues i 0 t ∧ (at0 (inTk t)).issues i 0 (inTk t)) ∧
    ((stewSt t (.quiesced (some 8192))).part 0).isQuiesced = true ∧ ((stewSt t .running).part 0).isQuiesced = false ∧
    ((stewSt t (.quiesced (some 8192))).part 0).rebuild = false ∧ ((stewSt t .running).imagePlace 0 (5 * gib) 1).isNone = true ∧
    (t.pair 0).toNat % 64 = 0 ∧ (t.pair 4).toNat % 64 = 1 ∧ ((stewSt t (.quiesced none)).imagePlace 0 0x1040 1).isSome = true ∧
    (stewSt t (.quiesced (some 8192))).wf = true ∧ (stewSt t .running).loadable 0 = false ∧
    ((stewSt t (.quiesced none)).savedThreads 0 (some 8192)) = [] ∧ (causeOf ((stewSt t .running).load 0 none 0)).isSome = true := by
  decide +kernel

/-- A state whose device runs VF 0, with this line. -/
def vfSt (line : Line) (busy : Bool) : State :=
  let s := stewSt (th []) line
  { s with host := { s.host with mode := 1, vfen := 1, vfbusy := busy } }

theorem wit_Vfcmd :
    (vfSt .running true).vfcmdOk 0 = false ∧ (vfSt .running false).vfcmdOk 0 = true ∧ (vfSt (.quiesced none) false).vfcmdOk 0 = true ∧
    ((vfSt (.quiesced none) false).part 0).isQuiesced = true ∧ ((vfSt .running false).part 0).line = .running ∧
    ((vfSt (.quiesced none) false).part 0).rebuild = false ∧ (causeOf ((vfSt (.quiesced none) false).save 0 1 0)).isSome = true ∧
    ((vfSt (.quiesced (some 8192)) false).vfcmdOk 0 = true) ∧ (causeOf ((vfSt .running false).save 0 0 0)).isSome = true ∧ (causeOf ((vfSt .running false).load 0 none 0)).isSome = true ∧
    (vfSt .running false).host.staged.find? 0 = none ∧ (vfSt .running false).host.mode = 1 ∧
    (vfSt .running false).ckBase = some cisternBase ∧ (vfSt .running false).mem.wf = true ∧ (vfSt .running false).flights = [] ∧
    (vfSt .running false).vfEnabled 0 = true ∧ ((vfSt .running false).part 0).stoppedNow = false ∧
    (∀ w < 16, ({ State.reset with host := { State.reset.host with mode := 1 } } : State).vfEnabled w = false) ∧
    ({ State.reset with host := { State.reset.host with ckcfg := 0xA80 } } : State).ckBase = none := by decide +kernel

/-- Thread 0 of steward core 128 alone, when its crew is left out of the image. -/
theorem wit_Image :
    let s := stewSt (th [0x1040, 0, 0, 0]) (.quiesced (some 8192))
    (decide (0 < (s.image 0 (some 8192)).length) && decide ((s.image 0 (some 8192)).length ≤ 65536) &&
      (s.imagePlace 0 0x1040 65536).isSome && (s.save 0 0x1040 65536).toOption.isSome) = true := by decide +kernel

/-- The calls of the management controller. -/
def smcOps : List Instr := [.smcallSensor g 0 2, .smcallLogput g 0 2, .smcallLogget g 0 2, .smcallQuote g 0 2, .smcallPowercap g 0 2]

/-- A thread issues in a partition with this SMCMASK. -/
def smcSt (t : Thread) (m : Word) : State :=
  let s := withMem (at0 t) []
  { s with parts := s.parts.modify 0 fun p => { p with smcmask := m } }

theorem wit_ManagementCalls :
    let t := th [0x40, 0, 0x10, 0]
    notIssued (smcSt t 0) t smcOps = [] ∧ notIssued (smcSt t 31) t smcOps = [] ∧ notIssued (smcSt (inTk t) 31) (inTk t) smcOps = [] ∧
    notIssued (smcSt (th [1]) 31) (th [1]) smcOps = [] ∧ notIssued (smcSt (th [0x40, 0, 1]) 31) (th [0x40, 0, 1]) smcOps = [] ∧
    ((smcSt t 31).part 0).smcmask = 31 ∧ ((smcSt t 0).part 0).smcmask = 0 ∧
    ((smcSt t 31).access 0 0 0 0x40 .write).toOption.isSome = true ∧ ((smcSt t 31).access 0 0 0 0x10 .write).toOption.isSome = true := by
  decide +kernel

theorem wit_SmcReply :
    ([1, 4].all fun fn =>
      let c : SmcCall := { id := 3, fn := fn, vf := 0, va := 0x40, sig := 0x10, block := [0, 0, 0, 0, 0x58, 2] }
      let z : State := { withMem (at0 (th [])) [] with who := [3], smc := { State.reset.smc with calls := [c] } }
      ((z.smc.calls.find? fun x => x.id == 3) == some c) && fieldAt c.block 4 4 == 600) = true := by decide +kernel

/-- An entry of the fault table with this response. -/
def faultRec (user resp : Nat) : FaultRec :=
  { id := 9, user := user, event := false, lohi := 0, va := 0x40, tstamp := 0, pushed := false, resp := resp }

/-- Partition 0 with a fault and its queue, and thread 0 parked on it. -/
def faultSt (user resp : Nat) (word : DWord) : State :=
  let s := withMem (at0 { th [] with phase := .parked .fault 3, log := [{ logged 0 with word := word, srcs := [] }] }) []
  { s with
    who := [0], issue := none, queues := [(5, q5 0 [])]
    parts := s.parts.modify 0 fun p => { p with faults := [faultRec user resp], fqcfg := 0x100000105 } }

theorem wit_FaultsAndStops :
    ((faultSt 1 1 0).answered 0 9 1 = true ∧ (faultSt 1 1 0).answered 0 9 2 = false ∧ (faultSt 1 2 0).answered 0 9 2 = true ∧
      (faultSt 1 0 0).answered 0 9 1 = false) ∧
    (let s := faultSt 1 0 0
     s.who = [0] ∧ ((s.part 0).faults.find? fun f => !f.pushed) = some (faultRec 1 0) ∧ s.fqRoom 0 = true ∧ s.lineDown 0 = true ∧
     (s.part 0).fentry ≠ 0) ∧
    (let s := faultSt Cause.quota.code 0 0
     (s.quotaWaits 0).map (fun w => (w.isCmd, s.quotaFits 0 w.need)) = [(false, true)]) := by decide +kernel

/-- Partition 0 stops: thread 0 is filed or active, with these agents stopped already. -/
def stopSt (t : Thread) (halt : Bool) (excl : Option Nat) (done : List Nat) (who : List Nat) : State :=
  let s := withMem (at0 t) []
  { s with
    who := who, now := 2 ^ 25, issue := none
    parts := s.parts.modify 0 fun p => { p with line := .stopping halt 5 excl, stopped := done } }

theorem wit_Stops :
    let hg := agentUnit headgateUnit
    (∀ t ∈ [th [], { th [] with phase := .filed 0 }], ∀ h ∈ [true, false],
      let s := stopSt t h none [] [0, 0]
      s.agents 0 = [0, hg] ∧ s.canStop 0 = true ∧ t.waiting = false ∧ 5 + s.stopBound 0 < s.now ∧ (s.part 0).line = .stopping h 5 none) ∧
    (agentMatrix 0 < 500000 ∧ 400000 ≤ agentMatrix 0 ∧
      (let s : State := { stopSt (th []) true none [] [0, agentMatrix 0] with mats := [matOp (.aclr g true 0)] }
       (s.agents 0).contains (agentMatrix 0) = true ∧ s.canStop (agentMatrix 0) = true)) ∧
    ((stopSt (th []) true none [] [0, hg]).canStop hg = true ∧ 500000 ≤ hg ∧ (stopSt (th []) true none [] [0, hg]).cmds = [] ∧
      5 + (stopSt (th []) true none [] [0, hg]).stopBound hg < (stopSt (th []) true none [] [0, hg]).now) ∧
    ((stopSt (th []) true none [0, hg] [0]).allStopped 0 = true ∧ (stopSt (th []) false none [0, hg] [0]).allStopped 0 = true ∧
      (stopSt (th []) false (some 0) [hg] [0]).allStopped 0 = true ∧ (stopSt (th []) false none [0, hg] [0]).host.ckbusy = false) ∧
    (let z := stopSt (th []) false none [0, hg] [0]
     let s : State := { z with host := { z.host with ckbusy := true, vfen := 1 } }
     s.allStopped 0 = true ∧ s.ckBase = some cisternBase ∧ s.mem.wf = true ∧ s.flights = [] ∧ ∀ w < 16, w ≠ 0 → s.vfEnabled w = false) ∧
    (let s : State := { drainSt with who := [0], now := 2 ^ 24 }
     (s.cmd? 0).map (fun c => decide (c.moved + 2 ^ 24 ≤ s.now) && c.fault.isNone && s.mayRun c.vf c.crew && !s.behind c && (s.part c.vf).line == .running) =
       some true) ∧
    (let s : State := { at0 (th []) with who := [0], now := 2 ^ 32, issue := none }
     (th []).priv = true ∧ (th []).privSince = 0 ∧ s.mayRun 0 0 = true ∧ s.thread? 0 = some (th [])) := by decide +kernel

/-- The machine runs, with VF 0 enabled, its host and quad windows and its carve-out of 2 GiB, and these queues. -/
def hostSt (queues : NMap Queue) : State :=
  let s := withMem (at0 (th [])) []
  { s with queues := queues, host := { s.host with mode := 1, vfen := 1 } }

/-- The bytes of an entry with this entry word. -/
def entBytes (n : Nat) : List Byte := bytesOf n 4 ++ List.replicate 4 0 ++ List.replicate 24 0

theorem wit_HostAccessRegisters :
    (hostSt []).host.vfen ≠ 0 ∧ State.reset.host.vfen = 0 ∧ (hostSt []).host.mode = 1 ∧
    ({ State.reset with host := { State.reset.host with mode := 2 } } : State).host.mode ≠ 1 ∧
    ((hostSt []).part 0).idle = false ∧ (State.reset.part 0).idle = true ∧ State.reset.vfEnabled 0 = false ∧
    (let s : State := { State.reset with host := { State.reset.host with vfen := 1 } }
     s.vfEnabled 0 = true ∧ (s.part 0).idle = true ∧ s.mayEnable [] 0 = true) ∧
    (let s : State := { State.reset with host := { State.reset.host with mode := 1 }, parts := [(0, { Part.reset with desc := 1 }), (1, { Part.reset with desc := 2 })] }
     s.vfEnabled 0 = false ∧ (match exec (.vfenWrite 3) s with | .next u => u.vfEnabled 0 && u.vfEnabled 1 | _ => false) = true) := by
  decide +kernel

theorem wit_HostAccess :
    let s := hostSt [(5, q5 0 [])]
    s.vfEnabled 0 = true ∧ s.vfEnabled 1 = false ∧ (s.part 0).hsize = 2 ∧ s.mem.wf = true ∧ (∀ a < 8, s.sealedPhys 0 a = false) ∧
    s.who = [] ∧ (∀ n ∈ [1, 2, 3], ({ s with who := [n] } : State).who = [n]) ∧
    (let z : State := { s with mem := [(0x10000, 1), (0x10002, 2), (0x20000, 55)], parts := s.parts.modify 0 fun p => { p with ptroot := 0x10000 } }
     z.sealedPhys 0 0 = true) ∧
    ((s.queue 5).vf = 0 ∧ s.pushAllowed 0 5 = true ∧ (s.queue 5).spcnt = 0 ∧ (s.queue 5).ents.length < 64 ∧
      (entBytes 1).length = 32 ∧ (s.queue 5).rejects ((Entry.ofWords (wordsOf (entBytes 1))).pushedBy 0 0xFFFFFFFF) true = false ∧
      s.pushAllowed 0 6 = false ∧ ((hostSt [(5, q5 0x100 [])]).queue 5).vf ≠ 0) ∧
    ((s.place 0 0x40).toOption.map fun p => decide (p.tgt < 3) && !s.peerSealed 0 p 8 && !s.peerSealed 0 p 4) = some true ∧
    (causeOf (s.place 0 (5 * gib))).isSome = true := by decide +kernel

/-- An outstanding result with this target. -/
def outTo (n : Nat) : Outst :=
  { i := .ld g 2 .b32 false .crew 2 0 0, isMem := true, dests := [2], vals := [7], flags := 0, isFloat := false, mat := none, target := n, pc := 0x30000, cb := 0x30000, va := 0x40, at_ := 0
    port := 1 }

theorem wit_HostAccessResults :
    ([1, 2].all fun n =>
      let t : Thread := { th [] with outs := [outTo n, outTo 0] }
      ((at0 t).thread? 0 == some t) && ((t.outs.find? fun o => o.target == n) == some (outTo n)) &&
        t.outs.all fun x => x != outTo n || t.outs.count x == 1) = true ∧ (at0 (th [])).who = [] ∧
    (let s : State := { after (.acpL g 15 7 32 false 16 0 0) cmdSt with who := [0] }
     let any (_ : Nat) (_ : Loc) : Bool := true
     (s.cmd? 0).map (fun c => (s.cmdOuter c 3 any, s.cmdOuter c 4 any)) = some (none, none) ∧
     (s.cmd? 0).map (fun c => (({ s with tlb := [{ page0 with core := c.core, leaf := 0x3000000000000F }] } : State).cmdOuter c 3 any).isSome) =
       some true) := by
  decide +kernel

theorem wit_StartUpAndErrors :
    let s := hostSt []
    (s.host.fails = 0 ∧ s.smc.bootSlot ≠ none ∧ s.mem.wf = true ∧ s.flights = []) ∧
    ({ s with smc := { s.smc with slots := [(false, 0), (false, 0)] } } : State).smc.bootSlot = none ∧
    3 ≤ ({ s with host := { s.host with fails := 3 } } : State).host.fails ∧
    (unitCause 0 = some .sluiceCheck ∧ unitCause 288 = some .selectCheck ∧ (s.part 0).line = .running) ∧
    (unitCause (1024 + Cause.hbmEcc.code) = none ∧ storageCause (1024 + Cause.hbmEcc.code) = some .hbmEcc ∧ Cause.hbmEcc.fatal = false ∧
      s.thread? 0 = some (th []) ∧ s.who = [] ∧ s.thread? 1 = none ∧ (th []).outs = []) ∧
    (s.smc.slots.length = 2 ∧ s.smc.active < 2) ∧ (s.vfEnabled 0 = true ∧ s.vfEnabled 1 = false) := by decide +kernel

/-- A kernel of one gang with 32 blocks and 2 rows. -/
def kern : KernelDesc := { fetchKernel with regs := 1, staticRows := 2 }

/-- VF 0 runs with the quad of core 0, and holds no crew. -/
def launchSt : State :=
  { State.reset with
    host := { State.reset.host with mode := 1, vfen := 1 }, parts := [(0, { Part.reset with desc := 0x4000000000000000001 })] }

theorem wit_CrewLaunched :
    launchSt.launchOk 0 0 3 kern = true ∧ launchSt.wf = true ∧ launchSt.launchOk 1 0 3 kern = false ∧
    ((launchSt.launchThreads 0 0 3 0x30000 1 false [(0, 0), (0, 1)]).map fun x => x.2) = some [0, 16] ∧
    (launchSt.launchThreads 0 0 3 0x30000 600 false [(0, 0)]).isNone = true ∧ launchSt.crew? 3 = none ∧
    (let s (line : Line) (threads : NMap Thread) : State :=
       { launchSt with
         crews := [(3, { cr0 with tiles := [] })], threads := threads, parts := [(0, { Part.reset with desc := 0x4000000000000000001, line := line })] }
     (s .running []).crew? 3 = some { cr0 with tiles := [] } ∧ ((s .running []).part 0).atRest = false ∧
     ∀ l ∈ [Line.halted, .quiesced none], ((s l []).part 0).atRest = true ∧ (s l []).runFits 0 0 3 kern = true ∧ (s l []).crewIdle 3 = true ∧
       (s l []).wf = true ∧ (s l [(0, { th [] with crew := 3 })]).crewIdle 3 = false) := by decide +kernel

/-- Thread 0 replays a log entry. -/
def replaySt (t : Thread) : State :=
  let s := withMem (at0 t) []
  { s with issue := s.issue.map fun b => { b with
      replay := some { thread := 0, regs := t.regs, pc := t.pc, cb := t.cb, phase := t.phase, arrival := t.arrival } } }

theorem wit_WordReplayed :
    (replaySt (th [])).cur? = some 0 ∧ (replaySt (th [])).thread? 0 = some (th []) ∧ (replaySt (th [])).replaying = true := by
  decide +kernel

theorem wit_ShrinkWaits :
    let t : Thread := { th [] with log := [{ logged 0 with dests := [31] }] }
    ok0 (.shrink g 3) t ∧ (3 : BitVec 6).toNat < t.alloc ∧ t.outs = [] ∧ t.held = [] ∧ ∃ e ∈ t.log, ∃ r ∈ e.dests, 8 * 3 ≤ r := by
  decide +kernel

theorem wit_JoinMasks :
    let k := 128 * 2048
    let t := th [3, 1]
    let wait (m : Word) : State :=
      { at0 t with threads := [(0, t), (16, { t with phase := .parked (.arrive m) 0, arrival := some { pc := t.pc, mask := m } })] }
    (isSteward (coreOf k) = true ∧ (atK k t).issues (.join g 0) k t ∧ t.r 0 ≠ 1 ∧ (atK k t).issues (.join g 1) k t ∧ t.r 1 = 1) ∧
    ((wait 7).issues (.join g 0) 0 t ∧ ((wait 7).gangThreads 0 t).any (fun x => x.1 != 0 && x.2.otherMask t.pc (t.r 0)) = true) ∧
    ((wait 3).issues (.join g 0) 0 t ∧ NMap.wf (wait 3).threads = true ∧
      allArrived (((wait 3).modThread 0 fun t => { t with arrival := some { pc := t.pc, mask := t.r 0 } }).gangThreads 0 t) t.pc (t.r 0) =
        true) := by decide +kernel

/-- Thread 0, in the task that its crew has of the ordered queue 5, which has read these lines; a page of 1 GiB, with this leaf, is cached. -/
def readSt (t : Thread) (lines : List Nat) (ents : List (Entry × Nat)) (leaf : Nat) : State :=
  let s := withMem (taskSt (inTk t) (taskCrew (some { tk 2 none [] with rset := lines, seq := 3 }) none ConvReg.reset)) []
  { s with queues := [(5, q5 2 ents)], tlb := [{ page0 with leaf := leaf }] }

theorem wit_LoadsInTask :
    let t := inTk (th [0x40, 0, 0, 0, 0, 0, 0, 0, 0x10000])
    let full := readSt t (upTo 2000 64) [(ent 1 2, 0)] 0xF
    let free := readSt t [7] [] 0xF
    let ordered (s : State) : Bool := (s.task? (t.crewKey 0)).any fun x => s.taskOrdered x
    (∀ s ∈ [full, free], s.issues (.ld g 2 .b32 false .crew 30 0 0) 0 t ∧ s.issues (.sigread g 0 30 0) 0 t ∧ canRead s 0x40 = true ∧
      ordered s = true) ∧
    (full.access 0 0 0 0x40 .read).toOption.map (fun l => full.holdRead 0 t l 0x40 4) = some true ∧
    (free.access 0 0 0 0x40 .read).toOption.map (fun l => (free.holdRead 0 t l 0x40 4, l.sealed)) = some (false, false) ∧
    (let z := readSt t (upTo 2000 64) [(ent 1 2, 0)] 0x60F
     z.issues (.ldt g 2 31 8 0) 0 t ∧ (z.access 0 0 0 0x10000 .read).toOption.map (fun l => z.holdLines 0 t l [512]) = some true) := by
  decide +kernel

/-- Thread 0, with the pages at 0x10000 and 0x20000 cached under these leaves. -/
def typedSt (t : Thread) (a b : Nat) : State :=
  { withMem (at0 t) (cellsAt 0x20000 [1, 0x7C, 1]) with
    tlb := [{ page0 with va := 0x10000, size := 0x10000, leaf := a }, { page0 with va := 0x20000, size := 0x10000, leaf := b }] }

theorem wit_TypedLoads :
    let t (fctl : Word) : Thread := { th [0, 0, 0, 0, 0, 0, 0, 0, 0x10000] with fctl := fctl }
    let geoms (s : State) : Option (Nat × Nat × Nat × Nat) :=
      (s.xlate 0 0 0 0x10000 .read).toOption.bind fun l => (s.xlate 0 0 0 0x20000 .read).toOption.map fun m => (l.elem, l.geom, m.elem, m.geom)
    ((typedSt (t 0) 0x1060F 0x2060F).issues (.ldt g 2 31 8 129024) 0 (t 0) ∧ (typedSt (t 16) 0x1060F 0x2060F).issues (.ldt g 2 31 8 129024) 0 (t 16)) ∧
    geoms (typedSt (t 0) 0x1060F 0x2060F) = some (0, 3, 0, 3) ∧
    (t 0).floatTraps = false ∧ (t 16).floatTraps = true ∧ geoms (typedSt (t 0) 0x1060F 0x2064F) = some (0, 3, 1, 3) ∧
    pageElems 0 3 = 129024 ∧ trapCause 16 0 = none ∧ (trapCause 16 16).isSome = true ∧
    (let s : State := { typedSt (t 0) 0x1060F 0x3000000000060F with host := { State.reset.host with iommu := [(0, 0)] } }
     s.issues (.ldt g 2 31 8 129024) 0 (t 0) ∧
       (s.xlate 0 0 0 0x20000 .read).toOption.map (fun m => s.sentCause 0 m.tgt m.key m.ports) = some (some .iommuFault)) := by decide +kernel

theorem wit_SignalReadFaults :
    let t := th [0x41, 0, 0x40000000, 0, 0, 0x80000000]
    let s := withMem (at0 t) []
    (∀ a ∈ ([0, 2, 4] : List Reg), s.issues (.sigread g 0 30 a) 0 t) ∧ (t.pair 0).toNat % 16 ≠ 0 ∧ 2 ^ 56 ≤ (t.pair 4).toNat ∧
    causeOf (s.access 0 0 0 (t.pair 2).toNat .read) = some .pageNotPresent ∧ Cause.levee.recoverable = false ∧
    (let z : State := { s with tlb := [{ page0 with va := 0x40000000, leaf := 0x3FFFFFFF0000F }] }
     z.issues (.sigread g 0 30 2) 0 t ∧ z.issues (.ld g 2 .b32 false .crew 30 2 0) 0 t ∧ z.issues (.st g .b32 false .crew 30 2 0) 0 t ∧
       causeOf (z.access 0 0 0 0x40000000 .read) = some .levee ∧ causeOf (z.storeAccess 0 t 0x40000000 fun _ => true) = some .levee) := by
  decide +kernel

theorem wit_StoreForms :
    let t := th [0x40, 0, 7, 0, 0xFFF0]
    (let s := readSt t [] [] 0xF
     s.issues (.st g .b32 true .sys 2 0 0) 0 (inTk t) ∧ (s.task? 0).map (fun x => decide (x.units + 9 * (x.newLines (cellsAt 0x40 [7, 0, 0, 0])).length ≤
       (s.queue x.q).wbufUnits)) = some true ∧ (s.storeAccess 0 (inTk t) 0x40 fun _ => true).toOption.map (fun l => inTail l 0x40) = some false) ∧
    (let s : State := { readSt t [] [] 0xF with crews := [(0, taskCrew (some { tk 0 none ((upTo 0 32).map fun n => .line (n + 1) [(n, 1)]) with q := 5 }) none ConvReg.reset)] }
     s.issues (.st g .b32 true .sys 2 0 0) 0 (inTk t) ∧ (s.task? 0).map (fun x => decide (x.units + 9 * (x.newLines (cellsAt 0x40 [7, 0, 0, 0])).length ≤
       (s.queue x.q).wbufUnits)) = some false) ∧
    (let s : State := { withMem (at0 t) [] with tlb := [{ page0 with leaf := 0x60F }] }
     s.issues (.st g .b32 true .sys 2 4 0) 0 t ∧ (s.storeAccess 0 t 0xFFF0 fun _ => true).toOption.map (fun l => inTail l 0xFFF0) = some true) ∧
    (let s : State := { withMem (at0 t) [] with threads := [(0, { t with storeq := [{ bytes := [(0x40, 1)], need := [] }] }), (16, t)],
                                                issue := some { fetchBundle 0 with members := [0, 16], todo := [16], stored := [0] } }
     s.issues (.st g .b32 true .sys 2 0 0) 16 t ∧ s.wordStores = [0] ∧ s.wordStores.Nodup ∧ canWrite s 0x40 = true ∧
       (s.thread? 0).map (fun x => x.storeq.map (·.bytes)) = some [[(0x40, 1)]]) ∧
    ((replaySt t).issues (.st g .b32 true .sys 2 0 0) 0 t ∧ canWrite (replaySt t) 0x40 = true) ∧
    (let s : State := { withMem (at0 t) [] with tlb := [{ page0 with leaf := 0x4000000000000F }], host := { State.reset.host with pwin := [(0, 0x1000001000100#128)] } }
     s.issues (.st g .b32 true .sys 2 0 0) 0 t ∧ (s.storeAccess 0 t 0x40 fun _ => true).toOption.map (·.tgt) = some 4) := by decide +kernel

theorem wit_AtomicForms :
    let t := th [0x40, 0, 7, 0, 9]
    let host (t : Thread) : State := { withMem (at0 t) [] with tlb := [{ page0 with leaf := 0x3000000000000F }] }
    ((host t).issues (.atom g 3 .fadd false .dev .ar 31 0 2) 0 t ∧ (host t).issues (.red g .fadd false .dev false 0 2) 0 t ∧
      (host t).issues (.red g .add false .dev false 0 2) 0 t ∧ (host t).issues (.cas g 0 false .sys .acq 30 0 2 4) 0 t ∧
      ((host t).access 0 0 0 0x40 .write).toOption.map (fun l => (l.tgt, l.server)) = some (3, 1)) ∧
    (let s := readSt t [] [] 0xF
     s.issues (.atom g 3 .fadd false .dev .ar 31 0 2) 0 (inTk t) ∧ s.issues (.cas g 0 false .sys .acq 30 0 2 4) 0 (inTk t) ∧
     s.issues (.red g .add false .dev false 0 2) 0 (inTk t) ∧ (s.xlate 0 0 0 0x40 .write).toOption.map (·.tgt) = some 0 ∧
     (s.task? 0).map (fun x => decide (x.units + 2 ≤ (s.queue x.q).wbufUnits)) = some true) ∧
    (let s : State := { readSt t [] [] 0xF with crews := [(0, taskCrew (some { tk 0 none (List.replicate 128 (.signal 0x40 1 false)) with q := 5 }) none ConvReg.reset)] }
     s.issues (.red g .add false .dev false 0 2) 0 (inTk t) ∧ s.issues (.sigdec g 0) 0 (inTk t) ∧ s.issues (.sigadd g 0 2) 0 (inTk t) ∧
     (s.task? 0).map (fun x => decide (x.units + 2 ≤ (s.queue x.q).wbufUnits)) = some false) := by decide +kernel

theorem wit_ExactAdditionInTask :
    let t := th [0x40, 0, 0x80, 0]
    let s := readSt t [] [] 0xF
    (s.issues (.xadd g 0 (-64) .dev true 4 0 8 2) 0 (inTk t) ∧ s.issues (.xadd g 0 (-64) .dev false 0 0 8 2) 0 (inTk t)) ∧ (t.pair 0).toNat % 16 = 0 ∧ (t.pair 2).toNat % 16 = 0 ∧
    (∀ a ∈ [0x40, 0x80], (s.xlate 0 0 0 a .write).toOption.map (·.tgt) = some 0) ∧
    (s.task? 0).map (fun x => decide (x.units + 2 ≤ (s.queue x.q).wbufUnits)) = some true := by decide +kernel

theorem wit_ScratchForms :
    let t := th [0x1FFC, 0, 0x40000, 0, 0x1001, 0]
    let s := at0 t
    (∀ a ∈ ([2, 4] : List Reg), s.issues (.lds g 2 .b32 31 a 0) 0 t ∧ s.issues (.sts g .b32 31 a 0) 0 t ∧ s.issues (.atoms g 0 .cas false 31 a 2 3) 0 t) ∧
    cr0.inAlloc 0x40000 4 = false ∧ 0x1001 % 4 ≠ 0 ∧
    (∀ v ∈ [Sector.filling, .draining, .ready, .empty], let z : State := { s with sectors := [(0x1FFC / 32, v)] }
      z.issues (.atoms g 0 .cas false 31 0 2 3) 0 t ∧ z.sector (crewAddr 0 cr0 0x1FFC / 32) = v ∧ NMap.wf z.sectors = true) ∧
    (let z := readSt t [] [] 0xF
     z.issues (.sts g .b32 31 0 0) 0 (inTk t) ∧ z.issues (.atoms g 0 .cas false 31 0 2 3) 0 (inTk t) ∧
       z.ownRegion 0 (inTk t) (taskCrew (some { tk 2 none [] with seq := 3 }) none ConvReg.reset) 0x1FFC 4 = false) := by decide +kernel

theorem wit_FenceStores :
    let t : Thread := { th [] with storeq := [{ bytes := [(0x40, 1)], need := [] }] }
    (withMem (at0 t) []).issues (.fence g .dev .sc) 0 t ∧ (withMem (at0 t) []).mem.wf = true := by decide +kernel

theorem wit_RegionWaits :
    let t := th [2048, 0, 0, 0, 4096]
    let r : Region := { row := 2, rows := 1, task := none }
    let s : State := { at0 t with sectors := [(4096 / 32, .filling)] }
    (s.issues (.spalloc g 31 0) 0 t ∧ (cr0.freeRun 1).map (fun b => s.quietSectors (rowSectors 0 cr0 b 1)) = some false) ∧
    (let z : State := { s with crews := [(0, { cr0 with regions := [r] })] }
     z.issues (.spfree g 4) 0 t ∧ z.quietSectors (rowSectors 0 cr0 2 1) = false) := by decide +kernel

theorem wit_SignalsInTask :
    let t := th [0x40, 0, 1, 0]
    let s := readSt t [] [] 0xF
    s.issues (.sigdec g 0) 0 (inTk t) ∧ s.issues (.sigadd g 0 2) 0 (inTk t) ∧ (s.xlate 0 0 0 0x40 .write).toOption.isSome = true ∧
    (s.task? 0).map (fun x => decide (x.units + 2 ≤ (s.queue x.q).wbufUnits)) = some true := by decide +kernel

/-- A job of the codec on this stream at 0x1000, into `cap` bytes at 0x2000, the ring at `ring`. -/
def siph (codec cap ring : Nat) (bs : List Byte) : State × Cmd :=
  let s := withMem (at0 cmdTh) (cellsAt 0x1000 bs)
  let card := 0x1000 + 2 ^ 64 * 0x2000 + 2 ^ 128 * bs.length + 2 ^ 160 * cap + 2 ^ 192 * ring + 2 ^ 256 * 1 + 2 ^ 261 * codec
  (s, { s.newCmd (.job g 0) 0 cmdTh .siphon 0 [0x40, 0] with recd := bytesOf card 64 })

/-- How something that writes the output ended. -/
def putEnd : Put → Nat
  | .ok _ _ => 0
  | .over _ => 1
  | .fault _ _ _ => 2

/-- Where a reading of the stream ended. -/
def parseEnd {α : Type} : Parse α → Option Nat
  | .ok _ p => some p
  | _ => none

/-- A block of DEFLATE with its own codes: a zero byte and the end. -/
def dynBlock : List Byte :=
  let bits := [1, 0, 1] ++ List.replicate 10 0 ++ [0, 1, 1, 1] ++ List.replicate 6 0 ++ [1, 0, 0] ++ List.replicate 42 0 ++ [1, 0, 0] ++
    [0, 1] ++ List.replicate 7 1 ++ [1] ++ [0, 1, 0, 1, 0, 1, 1] ++ [0, 0, 0, 1]
  (upTo 0 12).map fun n => BitVec.ofNat 8 (((upTo 0 8).map fun i => bits.getD (8 * n + i) 0 * 2 ^ i).sum)

theorem wit_SiphonOutput :
    let x := siph 1 2 0x3000 [0, 7, 0x80, 1, 0]
    let far := { x.2 with recd := bytesOf (0x1000 + 2 ^ 64 * 0x40000000 + 2 ^ 128 * 5 + 2 ^ 160 * 2 + 2 ^ 192 * 0x3000 + 2 ^ 256 + 2 ^ 261) 64 }
    putEnd (x.1.putAll x.2 0 [1, 2]) = 0 ∧ putEnd (x.1.putAll x.2 0 [1, 2, 3]) = 1 ∧ putEnd (x.1.putAll far 0 [1]) = 2 ∧
    putEnd (x.1.putMatch x.2 1 1 1) = 0 ∧ putEnd (x.1.putMatch x.2 1 1 2) = 1 ∧ putEnd (x.1.putMatch far 1 1 1) = 2 ∧
    putEnd (x.1.storedBytes x.2 2 0) = 0 ∧ putEnd (x.1.storedBytes far 2 0) = 2 ∧
    (match x.1.brefToken x.2 0 with | .ok (.lit bs) 2 => bs == [7] | _ => false) = true ∧
    (match x.1.brefToken { x.2 with beat := 2 } 2 with | .ok (.copy 3 1) 5 => true | _ => false) = true ∧
    (match x.1.brefToken x.2 5 with | .bad => true | _ => false) = true := by decide +kernel

theorem wit_DeflateBlocks :
    let x (b : Byte) := siph 2 64 0x3000 [b, 1, 0, 0xFE, 0xFF, 9]
    (∀ h ∈ ([0, 1, 2, 3] : List Byte), parseEnd ((x (2 * h + 1)).1.jobBits (x (2 * h + 1)).2 0 3) = some 3 ∧
      (match (x (2 * h + 1)).1.jobBits (x (2 * h + 1)).2 0 3 with | .ok n _ => n / 2 == h.toNat | _ => false) = true) ∧
    (match (x 1).1.jobBytes (x 1).2 1 4 with | .ok bs 5 => bs == [1, 0, 0xFE, 0xFF] | _ => false) = true ∧
    parseEnd ((x 1).1.jobByte (x 1).2 5) = some 6 ∧ parseEnd ((x 1).1.jobByte (x 1).2 6) = none ∧
    (let d := siph 2 64 0x3000 dynBlock
     parseEnd (d.1.dynTables d.2 3) = some 90) := by decide +kernel

theorem wit_JobRing :
    let x := siph 0 64 0x3000 [7]
    let full : State := { x.1 with mem := [(0x3000, 2)] }
    x.2.card.ring % 32 = 0 ∧ (x.1.ringState x.2).toOption.map (·.2) = some (0, true) ∧ (full.ringState x.2).toOption.map (·.2) = some (2, false) ∧
    (x.1.cmdCells x.2 0x3020 (jobRecord x.2.card { status := 0, outlen := 1, inused := 1, cause := 0, addr := 0 })).toOption.isSome = true := by
  decide +kernel

theorem wit_CommandSignalFaults :
    let s := (after (.kva g 0 0 false 6 0 16) (kvSt kvTh)).modCmd 0 fun c => { c with issued := true }
    let x := s.cmds.headD (cmdSt.newCmd (.nop g) 0 cmdTh (.sluice 0) 0 [])
    let s1 := (s.showWriter (cmdWriter x.id) maskDev).finishAll x.id
    (∀ y ∈ [(x, (0x40000000 : DWord), true), (x, 0x1000000000000000, false)],
      s.cmd? y.1.id = some y.1 ∧ (match s1.cmdSignal y.1 y.2.1 with
        | .error e => (e.1.recoverable && ((s.part y.1.vf).fqOn || y.1.issued)) == y.2.2 &&
            (y.2.2 == false || (s1.fileFault y.1.vf e.1 (BitVec.ofNat 64 e.2) (faultStamp y.1.thr true)).2.isSome)
        | .ok _ => false) = true) := by decide +kernel

theorem wit_SealWaits :
    let t := th [0x10000, 0, 0x10000, 0]
    let s : State := { withMem (at0 t) (cellsAt 0x20000 (bytesOf 0x1000F 8)) with
      tlb := [{ page0 with va := 0x10000, size := 0x10000, leaf := 0x1000F }] }
    let c := (taken (.acpS g 1 7 0 true 16 0 16, cmdSt)).cmds.map fun c => { c with ops := [0x20, 32, 0x10000, 0] }
    let busy : State := { s with cmds := c }
    s.quiet ∧ (at0 t).mapWf = true ∧ busy.inFlight 0 true 0x10000 0x10000 = true ∧ busy.inFlight 0 false 0x10000 0x10000 = true ∧
    busy.issues (.seal g 0 2) 0 t ∧ busy.issues (.unseal g 31 0 2) 0 t ∧
    (busy.regionPages 0 0 0 0x10000 0x10000 1 0x10000).toOption.isSome = true := by
  refine ⟨⟨by decide +kernel, by decide, by decide⟩, by decide +kernel⟩

/-- Thread 0, in this task of queue 5 or in none; queue 5 holds these entries, and this many in its spillway at 0x10000. -/
def spawnSt (t : Thread) (x : Option Task) (ents : List (Entry × Nat)) (n : Nat) : State :=
  { withMem (taskSt t (taskCrew x none ConvReg.reset)) [] with queues := [(5, { q5 0 ents with qspill := 0x10000, spcnt := n })] }

theorem wit_Spawns :
    let i : Instr := .tspawn g 8 5
    let bad : Instr := .tspawn g 0 5
    let t := inTk spTh
    let lines := (upTo 0 32).map fun n => BufRec.line (n + 1) [(n, 1)]
    let room (s : State) : Option (Nat × Bool) := (s.task? 0).map fun x => (x.e.depth, decide (x.units + 3 ≤ (s.queue x.q).wbufUnits))
    let inTask (d : Word) (buf : List BufRec) : State := spawnSt t (some { tk 0 none buf with e := ent 1 (d * 16) }) [] 0
    (∀ s ∈ [inTask 0 [], inTask 9 [], inTask 0 lines], s.issues i 0 t ∧ s.issues bad 0 t ∧ s.queueOpen 0 5 = true) ∧
    room (inTask 0 []) = some (0, true) ∧ room (inTask 9 []) = some (9, true) ∧ room (inTask 0 lines) = some (0, false) ∧
    (∀ n ∈ [0, 1], let s := spawnSt spTh none ((upTo 0 64).map fun n => (ent 1 0, n)) n
      s.issues i 0 spTh ∧ s.queueOpen 0 5 = true ∧ (s.queue 5).ents.length = 64 ∧ (s.queue 5).spcap = 1 ∧ (s.queue 5).spcnt = n ∧
        (s.access agHeadgate 0 hubCore ((s.queue 5).place ((s.queue 5).sphead + n)) .write).toOption.isSome = true ∧ s.mem.wf = true) := by
  decide +kernel

theorem wit_AbortsResolved :
    let due (x : Task) (kind : AbortKind) : State := taskSt (inTk (th [])) (taskCrew (some { x with due := some kind }) none ConvReg.reset)
    (∀ kind ∈ [AbortKind.tsplit, .cancel, .requeue, .exhausted 3],
      (∀ x ∈ [tk 0x1 none [], tk 0x1 (some 0) []],
        (due x kind).wf = true ∧ kind ≠ .conflict ∧ x.e.splits = true ∧ x.committing = false ∧
          ((due x kind).task? 0).map (fun y => (y.due, y.signer)) = some (some kind, x.signer)) ∧
      (due (tk 0x401 none []) kind).wf = true ∧ (due (tk 0x401 none []) kind).grantOut 0 = false) ∧
    (let z := due (tk 0 none []) .cancel
     let s : State := { z with parts := [(0, { Part.reset with tasks := [(0, { gen := 0, live := true, e := ent 1 0, outstanding := 0, committed := false })] })] }
     s.recLive 0 0 = true ∧ s.timeUp 0 = false ∧ (s.queue 5).ordered = false ∧ (s.queue 5).ents.length < 63) ∧
    (∀ r ∈ [ConvReg.reset, { ConvReg.reset with st := .orphaned }], (taskSt (th []) (taskCrew none none r)).issues (.tpop g false false 8 5 0) 0 (th []) ∧
      (r.st = .idle ∨ r.st = .orphaned)) ∧
    (let s : State := { taskSt (th []) cr0 with crews := [(0, { cr0 with last := (6, 4, 5) })] }
     s.issues (.tstat g .last 8 0) 0 (th [])) := by decide +kernel

/-- The state in which the task of crew 0 commits with this buffer. -/
def recSt (rs : List BufRec) (cfg : DWord) : State := commitSt { tk 0 (some 0) rs with committing := true } tk1 cfg

theorem wit_RecordsPerformed :
    let recs : List BufRec := [.red 0x40 .add false .sys 7, .xadd 0x40 0x80 .dev 0 1, .signal 0x40 (-1) true, .push 5 (ent 1 0)]
    (recs.all fun r => (recSt [r] 0).wf && (recSt [r] 0).commitGoes 0 && !(recSt [r] 0).taskOrdered { tk 0 (some 0) [r] with committing := true }) = true ∧
    ([0x40, 0x80].all fun a => ((recSt [] 0).commitAccess 0 0 (BitVec.ofNat 64 a)).toOption.any fun l =>
      l.key == a && !inTail l a && l.tgt == 0) = true ∧
    ((recSt [line1] 2).conflicts 0 { tk 0 (some 0) [line1] with committing := true } [2] = []) := by decide +kernel

theorem wit_RecordsFault :
    ((recSt [] 0).queueOpen 0 5 = true ∧ ((recSt [] 0).queue 5).rejects (ent 1 0) true = false ∧ ((recSt [] 0).queue 5).rejects (ent 0 0) true = true ∧
      (recSt [] 0).queueOpen 0 6 = false) ∧
    causeOf ((recSt [] 0).commitAccess 0 0 0x40000000) = some .pageNotPresent ∧ Cause.pageNotPresent.recoverable = true ∧
    ((recSt [] 0).fileFault 0 .pageNotPresent 0x40000000 (faultStamp 0 false)).2.isSome = true ∧
    causeOf (({ recSt [] 0 with tlb := [{ page0 with leaf := 0x2F }] } : State).commitAccess 0 0 0x40) = some .sealed ∧
    Cause.sealed.recoverable = false := by decide +kernel

theorem wit_HeldCommands :
    let c (issued : Bool) : Cmd := { cmdSt.newCmd (.acpS g 1 7 0 true 16 0 16) 0 cmdTh (.sluice 0) 1 [0, 0, 0x40, 0] with issued := issued, task := some 0 }
    let st (issued : Bool) (cmds : List Cmd) (fenced : List Nat) : State :=
      { commitSt { tk 0 (some 0) [.cmd (c issued)] with committing := true } tk1 0 with cmds := cmds, fenced := fenced, nextId := 100 }
    ([st false [] [], st true [] [], st true [c true] [], st false [] [0], st false ((upTo 0 64).map fun n => { c true with id := n + 1 }) []].all
      fun s => s.wf && s.commitGoes 0 && s.who == [0]) = true ∧
    (c false).issued = false ∧ (c false).unit.code = 0 ∧ (c false).unit.places ≤ 64 ∧ 0 < (c false).unit.places ∧ (st true [c true] []).cmd? (c true).id = some (c true) ∧
    (st true [] []).cmd? (c true).id = none := by decide +kernel

theorem wit_TaskCompletes :
    let r (p : Word) (flags : Word) : TaskRec := { gen := 255, live := true, e := { ent 1 flags with parent := p, arg := 0x40 }, outstanding := 0, committed := true }
    let part : Part := { Part.reset with desc := 0x4000000000000000001, everRun := true, tasks := [(0, r 0xFF000001 4), (1, r 0xFFFFFFFF 0)] }
    let s : State := { withMem State.reset (cellsAt 0x40 (bytesOf 1 8)) with parts := [(0, part)], who := [0, 0] }
    s.wf = true ∧ (s.part 0).tasks.find? 0 = some (r 0xFF000001 4) ∧ (r 0 4).e.sig = true ∧ s.recLive 0 0xFF000001 = true ∧
    (s.access agHeadgate 0 hubCore 0x40 .write).toOption.map (fun l => (l.key, inTail l 0x40)) = some (0x40, false) ∧
    ([0, 1].all fun i => (s.recPlace 0 i).toOption.any fun p => decide (p.key + 32 ≤ 0x40)) = true := by decide +kernel

theorem wit_CrewEventsWait :
    let x := { tk 0 none [] with elapsed := 4096 }
    let s (d : Option AbortKind) : State := { taskSt (inTk (th [])) (taskCrew (some { x with due := d }) none ConvReg.reset) with
      queues := [(5, q5 0x40000 [])], who := [0] }
    (∀ d ∈ [none, some (AbortKind.exhausted 3)], 0 < ((s d).queue 5).tallow ∧ ((s d).queue 5).tallow ≤ x.elapsed ∧ x.signer = none ∧
      (s d).issuedAll 0 = true ∧ ((s d).task? 0).map (·.due) = some d) ∧
    (let z : State := { grantSt none with parts := [(0, { Part.reset with line := .halted })] }
     z.who = [0, 0] ∧ (z.lgThreads 0 0).any (fun x => !z.mayRun x.2.vf (x.2.crewKey x.1)) = true) ∧
    ((grantSt none).lgThreads 0 0).all (fun x => (grantSt none).mayRun x.2.vf (x.2.crewKey x.1)) = true ∧ (grantSt none).issuedAll 0 = true := by
  decide +kernel

theorem wit_SystemRegisterWrites :
    let t := th [0x5F, 0, 0x60, 0, 0x1000009]
    (∀ r ∈ ([0x20C, 0x209, 0x101] : List (BitVec 12)), ok0 (.mtx g false r 4) t) ∧ (∀ r ∈ ([0x205, 0x201] : List (BitVec 12)), ok0 (.mtx g true r 0) t) ∧
    ok0 (.mtx g false 0x010 0) t ∧ ok0 (.mtx g false 0x010 2) t ∧ bits (loWord ((t.r 0).setWidth 64)).toNat 6 0 < 0x60 ∧
    0x60 ≤ bits (loWord ((t.r 2).setWidth 64)).toNat 6 0 := by decide +kernel

/-- The pages of the area. -/
def evPages : List (Nat × Loc) := ((evSt (evTh 0)).areaPages 0 (evTh 0) 0x40000).toOption.getD []

/-- The area holds one record, the first, of a thread of lane 2. -/
def areaSt (threads : NMap Thread) : State :=
  let s := evSt (evTh 0)
  { s with mem := [(0x40010, 2), (0x40016, 0x20)], threads := threads }

theorem wit_EvictionLanes :
    let s := evSt (evTh 0)
    let out (r : EvictRes) : Option (Nat × Nat × Nat) := match r with | .done v n short => some (n, short, v.evicted.length) | .wait => none
    out (s.evictLane 0 0 4 evPages 0x40000 1 17 0 0) = some (0, 0, 0) ∧ out (s.evictLane 0 0 600 evPages 0x40000 2 17 0 0) = some (0, 1, 0) ∧
    ((s.thread? 16).map fun y => (y.storeq.isEmpty, y.sig.isEmpty, y.held.isEmpty, y.alloc)) = some (true, true, true, 4) := by decide +kernel

theorem wit_RecordsRestored :
    ((areaSt []).restoreOne 0 0 0 evPages 0x40000 1).isNone = true ∧ ((areaSt []).restoreOne 0 0 0 evPages 0x40000 0).map (·.2) = some true ∧
    ((areaSt ((upTo 0 16).map fun n => (32 + n, th []))).restoreOne 0 0 0 evPages 0x40000 0).map (·.2) = some false ∧
    (areaSt []).wf = true ∧ (areaSt []).evicted = [] ∧ (areaSt []).cmds = [] := by decide +kernel

theorem wit_ManagementReplies :
    let t := th [0x40, 0, 0x10, 0]
    let s (fn arg : Nat) : State :=
      let c : SmcCall := { id := 3, fn := fn, vf := 0, va := 0x40, sig := 0x10, block := [0, 0, 0, 0, BitVec.ofNat 8 arg, 0] }
      { withMem (at0 t) (cellsAt 0x10 (bytesOf 1 8)) with who := [3], smc := { State.reset.smc with calls := [c] } }
    ([(0, 3), (0, 4), (1, 0), (2, 0), (4, 0)].all fun x => (s x.1 x.2).mem.wf && (s x.1 x.2).flights.isEmpty &&
      ((s x.1 x.2).access agHeadgate 0 hubCore 0x40 .write).toOption.any fun l =>
        ((s x.1 x.2).access agHeadgate 0 hubCore 0x48 .write).toOption.any fun l8 =>
          ((s x.1 x.2).access agHeadgate 0 hubCore 0x10 .write).toOption.any fun m =>
            l8.key == l.key + 8 && decide (m.key + 16 ≤ l.key) && !inTail m 0x10 && (upTo 0 64).all fun i => !inTail l (0x40 + i)) = true := by
  decide +kernel

theorem wit_FunctionsEnabled :
    let s (n : Nat) (occ : Bool) : State :=
      { State.reset with
        host := { State.reset.host with mode := 1, vfen := BitVec.ofNat 32 n }, parts := [(0, { Part.reset with desc := 1 }), (1, { Part.reset with desc := 2 })]
        threads := if occ then [(0, th [])] else [] }
    (s 0 false).mayEnable [] 1 = true ∧ ((2 : Word).toNat = 2 ^ 1) ∧ (s 0 true).occupied 0 = true ∧ (s 0 true).vfEnabled 0 = false ∧
    ((s 0 true).part 0).idle = true ∧ (s 0 false).occupied 0 = false ∧ (s 1 false).vfEnabled 0 = true := by decide +kernel

theorem wit_LostDevices :
    let o := outTo 0
    let t : Thread := { th [] with outs := [outTo 2, o] }
    (t.outs.find? Outst.ofDevice = some o ∧ t.outs.all fun x => x != o || t.outs.count x == 1) ∧
    (let s : State := { after (.acpL g 15 7 32 false 16 0 0) cmdSt with who := [0] }
     (s.cmd? 0).isSome = true ∧ s.who = [0] ∧ storageCause (1024 + Cause.hbmEcc.code) = some .hbmEcc ∧ datapath .hbmEcc = false) ∧
    (let c := (upTo 0 96).filterMap fun n => (storageCause (1024 + n)).bind fun c => if c.fatal then some n else none
     c.isEmpty = false ∧ c.all fun n => (unitCause (1024 + n)).isNone) ∧ (th []).inTrap = false := by decide +kernel

theorem wit_CrewsRebuilt :
    let s (line : Line) (threads : NMap Thread) : State :=
      { launchSt with
        crews := [(3, { cr0 with tiles := [], base := 100 }), (5, { cr0 with tiles := [], ended := true, reported := true })], threads := threads
        parts := [(0, { Part.reset with desc := 0x4000000000000000001, line := line })] }
    let held : NMap Thread := [(0, { th [] with crew := 5 })]
    ((s .halted []).endedHolders 3 kern.baseRow (kernelRows kern) = [5] ∧ (s .halted []).rebuildIdle 3 kern = true ∧
      (s .halted []).runFits 0 0 3 kern = true ∧ (s .halted held).rebuildIdle 3 kern = false ∧ (s .halted held).crewIdle 5 = false ∧
      (s .halted []).runFits 0 0 3 { kern with staticRows := 2000 } = false ∧ (s .halted []).rebuildIdle 3 { kern with staticRows := 2000 } = true) ∧
    (let z : State := { s .running held with crews := [(5, { cr0 with tiles := [], ended := true, reported := true })] }
     z.crew? 3 = none ∧ (z.endedHolders 3 kern.baseRow (kernelRows kern)).any (fun k => !z.crewIdle k) = true) := by decide +kernel

theorem wit_TileReadsTrap :
    let t : Thread := { th [7] with fctl := 0x1F }
    let s (e : Elem) : State := { at0 t with tiles := [(3, { (State.reset.tile 3) with els := [(elemIndex 7, e)] })] }
    let i : Instr := .aget g 3 .rup false false 0 28 0
    let r (e : Elem) : Bool := (trapCause t.fctl (((s e).tile 3).aget false false .rup (t.r 0)).2).isSome
    (∀ e ∈ [({ s := 0, fl := 0 } : Elem), { s := 0x123456789ABCDEF123456789, fl := 0 }],
      (s e).issues i 0 t ∧ (s e).granted 0 0 = some 3 ∧ (s e).matQueue 0 = [] ∧ (s e).drainAhead 0 3 (s e).nextId = false ∧ (s e).replaying = false) ∧
    r { s := 0, fl := 0 } = false ∧ r { s := 0x123456789ABCDEF123456789, fl := 0 } = true := by decide +kernel

theorem wit_AppendsAllowed :
    let t := kvTh
    let s := kvSt t
    s.kvaRuns t.vf 0x400 = false ∧
    (let c := s.newCmd (.kva g 0 0 false 6 0 16) 0 t (.sluice 0) 0 [0x400, 0, 0x3000, 0, 0x2800, 0]
     ((s.ctxOf c 0x400).toOption.bind fun x => (x.1.cmdRead c 0x400 64).toOption.map fun y =>
       (y.1.kvaSealed { c with recd := y.2 }).isNone) = some true) ∧
    (let z := taken (.psel g 9 0 4, selSt selTh false)
     (z.unitHead (.weir 0)).map (fun c => c.recd != [] && (z.part c.vf).segtab.toNat % 64 == 0) = some true) ∧
    ((segSt segTh).part 0).segtab.toNat % 64 = 0 ∧ ((segSt segTh).queue 0).spcnt = 0 := by decide +kernel

/-! ### Single words on a small state: the values are the spec's own examples, or worked by hand from its rules -/

/-- Each word, issued with these registers, leaves this register with this value. -/
def gives (l : List (Instr × List Word × Nat × Word)) : Bool := l.all fun x => (run0 x.1 (th x.2.1)).map (·.reg x.2.2.1) == some x.2.2.2

/-- Each word, issued with these registers, leaves this predicate with this value. -/
def givesP (l : List (Instr × List Word × Nat × Bool)) : Bool :=
  l.all fun x => (run0 x.1 (th x.2.1)).map (fun t => t.pred (BitVec.ofNat 3 x.2.2.1)) == some x.2.2.2

/-- Each long-latency word, issued with these registers, will write these values and flags. -/
def latens (l : List (Instr × List Word × List Word × BitVec 5)) : Bool :=
  l.all fun x => ((run0 x.1 (th x.2.1)).bind fun t => t.outs.head?.map fun o => (o.vals, o.flags)) == some x.2.2

/-- R169. -/
theorem test_integerPairs : gives [(.iadd g 31 0 1, [0xFFFFFFFF, 1], 31, 0), (.isub g 31 0 1, [0, 1], 31, 0xFFFFFFFF),
    (.imul g 31 0 1, [0x10001, 0x10001], 31, 0x20001), (.imin g false 31 0 1, [0xFFFFFFFF, 1], 31, 0xFFFFFFFF),
    (.imin g true 31 0 1, [0xFFFFFFFF, 1], 31, 1), (.imax g false 31 0 1, [0xFFFFFFFF, 1], 31, 1), (.imax g true 0 0 1, [0xFFFFFFFF, 1], 0, 0xFFFFFFFF),
    (.and g 31 0 1, [0xF0F0, 0xFF00], 31, 0xF000), (.or g 31 0 1, [0xF0F0, 0xFF00], 31, 0xFFF0), (.xor g 31 0 1, [0xF0F0, 0xFF00], 31, 0x0FF0),
    (.andn g 31 0 1, [0xF0F0, 0xFF00], 31, 0x00F0), (.shl g 31 0 1, [1, 32], 31, 0), (.shr g 31 0 1, [0x80000000, 31], 31, 1),
    (.sar g 31 0 1, [0x80000000, 40], 31, 0xFFFFFFFF), (.rot g 31 0 1, [0x80000001, 33], 31, 3),
    (.iadd64 g 30 0 2, [0xFFFFFFFF, 0xFFFFFFFF, 1, 0], 31, 0), (.iadd64 g 30 0 2, [0xFFFFFFFF, 0, 1, 0], 31, 1)] = true := by decide +kernel

/-- R157, R169: IMIN and IMAX of an immediate compare signed; IADD64 sign-extends its immediate. -/
theorem test_integerImmediates : gives [(.iaddI g 31 0 0xFFFFFF83, [125], 31, 0), (.isubI g 31 0 1, [0], 31, 0xFFFFFFFF),
    (.imulI g 31 0 3, [0x80000000], 31, 0x80000000), (.iminI g 31 0 1, [0xFFFFFFFF], 31, 0xFFFFFFFF), (.imaxI g 31 0 1, [0xFFFFFFFF], 31, 1),
    (.andI g 31 0 0xF, [0x1234], 31, 4), (.orI g 31 0 0xF, [0x1230], 31, 0x123F), (.xorI g 31 0 0xF, [0x1234], 31, 0x123B),
    (.andnI g 31 0 0xF, [0x1234], 31, 0x1230), (.shlI g 31 0 31, [3], 31, 0x80000000), (.shrI g 31 0 32, [3], 31, 0), (.sarI g 31 0 4, [0x80000000], 31, 0xF8000000),
    (.rotI g 31 0 28, [0x10], 31, 1), (.iadd64I g 30 0 0xFFFFFFFF, [0, 1], 30, 0xFFFFFFFF), (.iadd64I g 30 0 0xFFFFFFFF, [0, 1], 31, 0)] = true := by
  decide +kernel

/-- R170. -/
theorem test_integerOperations : gives [(.imulh g false 31 0 1, [0xFFFFFFFF, 0xFFFFFFFF], 31, 0), (.imulh g true 31 0 1, [0xFFFFFFFF, 0xFFFFFFFF], 31, 0xFFFFFFFE),
    (.imad g 31 0 1 2, [3, 5, 0xFFFFFFFF], 31, 14), (.iabs g 31 0, [0x80000000], 31, 0x80000000), (.ineg g 31 0, [1], 31, 0xFFFFFFFF), (.not g 31 0, [5], 31, 0xFFFFFFFA),
    (.shf g true 31 0 1 2, [0x80000000, 1, 33], 31, 3), (.shf g false 31 0 1 2, [0x80000000, 1, 31], 31, 3), (.bfx g true 31 0 1, [0xF0, 0x404], 31, 0xFFFFFFFF),
    (.bfx g false 31 0 1, [0x80000000, 0x3F1F], 31, 1), (.bfi g 31 0 1 2, [0x5, 0x404, 0xFFFFFFFF], 31, 0xFFFFFF5F), (.popc g 31 0, [0xF0F], 31, 8),
    (.clz g 31 0, [0], 31, 32), (.ctz g 31 0, [0x100], 31, 8), (.brev g 31 0, [2], 31, 0x40000000), (.prmt g 31 0 1 2, [0x44332211, 0x88776655, 0x0123], 31, 0x11223344),
    (.prmt g 31 0 1 2, [0x80, 0, 0x1118], 31, 0xFF), (.sel g 31 0 1 7, [3, 5], 31, 3), (.sel g 31 0 1 0, [3, 5], 31, 5), (.mov g 31 0, [7], 31, 7), (.movi g 31 0x40, [], 31, 0x40),
    (.lea g 3 false 30 0 2, [0, 1, 0xFFFFFFFF], 30, 0xFFFFFFF8), (.lea g 3 false 30 0 2, [0, 1, 0xFFFFFFFF], 31, 0), (.lea g 3 true 30 0 2, [0, 1, 0xFFFFFFFF], 31, 8),
    (.imul64 g true 30 0 1, [0xFFFFFFFF, 0xFFFFFFFF], 31, 0xFFFFFFFE), (.imul64 g false 30 0 1, [0xFFFFFFFF, 0xFFFFFFFF], 30, 1),
    (.movsv g 31 .alloc, [], 31, 4), (.movsv g 31 .priv, [], 31, 1), (.movsv g 31 .team, [], 31, 0), (.movsv g 31 .ngang, [], 31, 2)] = true := by decide +kernel

/-- The worked 96-bit addition, and R171, R172. -/
theorem test_predicates : gives [(.iaddc g false 8 0 4 1, [0xFFFFFFFF, 0xFFFFFFFF, 1, 0, 1, 0, 0], 8, 0), (.iaddc g true 10 2 6 7, [0xFFFFFFFF, 0xFFFFFFFF, 1, 0, 1, 0, 0], 10, 2)] = true ∧
    givesP [(.iaddc g false 8 0 4 1, [0xFFFFFFFF, 0xFFFFFFFF, 1, 0, 1, 0, 0], 1, true), (.iaddc g true 10 2 6 1, [0xFFFFFFFF, 0xFFFFFFFF, 1, 0, 1, 0, 0], 1, false),
      (.isetp g .lt true .none 1 0 1 0, [1, 0xFFFFFFFF], 1, true), (.isetp g .lt false .none 1 0 1 0, [1, 0xFFFFFFFF], 1, false),
      (.isetp g .eq false .xor 1 0 1 7, [1, 1], 1, false), (.plop g 3 7 7 0 0x96, [], 3, false), (.plop g 3 7 0 0 0x96, [], 3, true),
      (.fsetp g .lt .none 1 0 1 0, [0x80000000, 0], 1, false), (.fsetp g .unord .none 1 0 1 0, [0x7FC00000, 0], 1, true),
      (.anc g 1 4 6 8, [0, 0, 0, 0, 9, 0, 0xB, 0, 10], 1, true), (.anc g 1 4 6 8, [0, 0, 0, 0, 12, 0, 0xB, 0, 10], 1, false)] = true := by decide +kernel

/-- R174 to R183: 1 + 2^-24 ties to even; opposite zeros; F32 17.0 into element 2 (R183). -/
theorem test_floats : gives [(.fadd g .rne 31 0 1, [0x3F800000, 0x33800000], 31, 0x3F800000), (.fadd g .rup 31 0 1, [0x3F800000, 0x33800000], 31, 0x3F800001),
    (.fsub g .rdn 31 0 1, [0x3F800000, 0x3F800000], 31, 0x80000000), (.fmul g .rne 31 0 1, [0, 0x7F800000], 31, 0x7FC00000),
    (.ffma g .rne 31 0 1 2, [0x3F800000, 0x40000000, 0x40400000], 31, 0x40A00000), (.fmin g 31 0 1, [0, 0x80000000], 31, 0x80000000),
    (.fmax g 31 0 1, [0x7FC00000, 0x3F800000], 31, 0x3F800000), (.faddI g 31 0 0x3F800000, [0x3F800000], 31, 0x40000000), (.fsubI g 31 0 0x3F800000, [0x40000000], 31, 0x3F800000),
    (.fmulI g 31 0 0xC0000000, [0x3F800000], 31, 0xC0000000), (.fminI g 31 0 0x3F800000, [0x40000000], 31, 0x3F800000), (.fmaxI g 31 0 0x3F800000, [0x40000000], 31, 0x40000000),
    (.fclass g 31 0, [0x80000000], 31, 8), (.fclass g 31 0, [0x7F800001], 31, 0x100), (.frnd g .rne 31 0, [0x40200000], 31, 0x40000000), (.frnd g .rup 31 0, [0x40200000], 31, 0x40400000),
    (.hadd2 g .rne false 31 0 1, [0x3C003C00, 0x3C00BC00], 31, 0x40000000), (.hmul2 g .rne true 31 0 1, [0x40003F80, 0x40004000], 31, 0x40804000),
    (.hfma2 g .rne false 31 0 1 2, [0x3C003C00, 0x3C003C00, 0x3C003C00], 31, 0x40004000), (.dp4 g false false false 31 0 1 2, [0xFF01, 0x0102, 10], 31, 11),
    (.dp4 g false false true 31 0 1 2, [0x7F, 0x7F, 0x7FFFFFFF], 31, 0x7FFFFFFF), (.dp8 g true false false 31 0 1 2, [0xF, 0xF, 0], 31, 0xFFFFFFF1),
    (.dpf8 g .rne false false 31 0 1 2, [0, 0, 0x3F800000], 31, 0x3F800000), (.cvt g .rne .f32 .f8a false false 0 2 5 4 0, [0, 0, 0, 0, 0x41880000, 0xAABBCCDD], 5, 0xAA58CCDD),
    (.cvt g .rne .f32 .f8a true false 0 2 5 4 0, [0, 0, 0, 0, 0x447A0000, 0xAABBCCDD], 5, 0xAA7FCCDD), (.cvt g .rtz .f32 .i8 false false 0 0 5 4 0, [0, 0, 0, 0, 0xC3800000, 0], 5, 0x80),
    (.szb g .rne 6 5, [0, 0, 0, 0, 0, 1], 6, 0)] = true := by decide +kernel

/-- R177: exact results raise no NX; 1 / 0 raises DZ. -/
theorem test_functions : latens [(.fdiv g 1 .rne 31 0 1, [0x3F800000, 0], [0x7F800000], 2), (.rcp g 1 .rne 31 0, [0x40000000], [0x3F000000], 0),
    (.rsq g 1 .rne 31 0, [0x40800000], [0x3F000000], 0), (.sqrt g 1 .rne 31 0, [0x80000000], [0x80000000], 0), (.exp2 g 1 .rne 31 0, [0xFF800000], [0], 0),
    (.log2 g 1 .rne 31 0, [0x41000000], [0x40400000], 0), (.sint g 1 .rne 31 0, [0x3E800000], [0x3F800000], 0), (.cost g 1 .rne 31 0, [0x3F000000], [0xBF800000], 0)] = true := by
  decide +kernel

/-- R143, R160 to R163: where a thread goes, and its link. -/
theorem test_control : (run0 (.bra g .none 0x3FFFFFFE) (th [])).map (·.pc) = some 0x2FFF8 ∧ (run0 (.jmp g 2) (th [])).map (·.pc) = some 0x30018 ∧
    (run0 (.call g 6 2) (th [])).map (fun t => (t.pc, t.pair 6)) = some (0x30018, 0x30010) ∧
    (run0 (.bra { pn := true, ps := 7 } .none 2) (th [])).map (·.pc) = some 0x30010 ∧ (run0 (.exit g) (th [])).isNone = true ∧
    (run0 (.nop g) (th [5])).map (fun t => (t.pc, t.regs == (th [5]).regs)) = some (0x30010, true) ∧ (run0 (.yield g) (th [])).map (·.pc) = some 0x30010 := by decide +kernel

/-- R168, R344, R346, R348: the trap saves the instruction's address and code, and enters the handler privileged. -/
theorem test_traps : ([(.bkpt g 0xFFFF, 0xFFFF), (.trap g 1, 1), (.sys g 0x2A, 0x2A)].all fun (x : Instr × Nat) =>
      let t : Thread := { th [7] with tr := TrapRegs.reset }
      ((after x.1 (atCode t)).thread? 0).map (fun u => (u.tr.epc, u.tr.ecb, u.tr.npc, u.tr.cause.toNat / 65536, u.tr.sstat, u.pc, u.regs == t.regs)) ==
        some (0x30008, 0x30000, 0x30008, x.2, 5, 0x200, true)) = true := by decide +kernel

/-- R44, R164, R165. -/
theorem test_blocks : (run0 (.grow g 5) (th [])).map (fun t => (t.alloc, t.regs.length, t.reg 39)) = some (5, 40, 0) ∧
    (run0 (.shrink g 1) (th [7])).map (fun t => (t.alloc, t.regs.length, t.reg 0)) = some (1, 8, 7) := by decide +kernel

/-- A word issued in a state with these bytes, and what waits for its registers. -/
def loads (i : Instr) (regs : List Word) (cells : List Host.Cell) : Option (List Word) :=
  ((after i (withMem (at0 (th regs)) cells)).thread? 0).bind fun t => t.outs.head?.map (·.vals)

/-- R187, R194 to R196, R247: values read, with their extension. -/
theorem test_loads : loads (.ld g 0 .s8 false .crew 2 0 0xFFFFFF) [0x41, 0] [(0x40, 0x80)] = some [0xFFFFFF80] ∧
    loads (.ld g 0 .z16 false .crew 2 0 0) [0x40, 0] [(0x40, 0x80), (0x41, 0xFF)] = some [0xFF80] ∧
    loads (.ld g 0 .b64 false .crew 2 0 8) [0x40, 0] [(0x48, 1), (0x4F, 0x80)] = some [1, 0x80000000] ∧
    loads (.atom g 0 .umax false .dev .none 2 0 4) [0x40, 0, 0, 0, 9] [(0x40, 7)] = some [7] ∧
    loads (.cas g 0 false .dev .none 2 0 4 5) [0x40, 0, 0, 0, 7, 9] [(0x40, 7)] = some [7] ∧
    loads (.sigread g 0 2 0) [0x40, 0] [(0x40, 3), (0x47, 0x80)] = some [3, 0x80000000] := by decide +kernel

/-- The 32 bits at an address after a word, in coherence order. -/
def word32 (i : Instr) (regs : List Word) (cells : List Host.Cell) (a : Nat) : Nat :=
  let s := after i (withMem (at0 (th regs)) cells)
  natOf ((upTo a 4).map s.lastByte)

/-- R194 to R197, R247: what the atomics leave in memory. -/
theorem test_atomics : word32 (.atom g 0 .umax false .dev .none 2 0 4) [0x40, 0, 0, 0, 9] [(0x40, 7)] 0x40 = 9 ∧
    word32 (.cas g 0 false .dev .none 2 0 4 5) [0x40, 0, 0, 0, 7, 9] [(0x40, 7)] 0x40 = 7 ∧
    word32 (.cas g 0 false .dev .none 2 0 4 6) [0x40, 0, 0, 0, 5, 0, 7] [(0x40, 7)] 0x40 = 5 ∧
    word32 (.red g .add false .dev false 0 2) [0x40, 0, 0xFFFFFFFF] [(0x40, 1)] 0x40 = 0 ∧ word32 (.sigadd g 0 2) [0x40, 0, 5, 0] [(0x40, 3)] 0x40 = 8 ∧
    word32 (.sigdec g 0) [0x40, 0] [(0x40, 3)] 0x40 = 2 := by decide +kernel

/-- R188, R191, R198, R207: stores wait in the thread's queue; the scratchpad is written at once. -/
theorem test_stores : ((after (.st g .z16 false .crew 2 0 0) (withMem (at0 (th [0x40, 0, 0x12345678])) [])).thread? 0).map (fun t => t.storeq.length) = some 1 ∧
    (after (.sts g .b32 2 0 4) (at0 (th [0x10, 0, 0x12345678]))).scratch.read (crewAddr 0 cr0 0x15) = 0x56 ∧
    (after (.atoms g 0 .add false 3 0 2 0) (at0 (th [0x10, 0, 5]))).scratch.read (crewAddr 0 cr0 0x10) = 5 ∧
    loads (.lds g 0 .b32 2 0 0) [0x10, 0] [] = some [0] ∧ (run0 (.sectQuery g 2 0) (th [0x10])).map (·.reg 2) = some 1 := by decide +kernel

/-- R97 to R99, R219, R228, R264, R345, R346: a draw moves the stream on; counters; system registers. -/
theorem test_others : (run0 (.rand g 9 4) (th [])).map (fun t => (t.reg 7, t.reg 9)) = some (0x100, 0xCDF4BBB1) ∧ (run0 (.kcnt g 5 2) { th [] with kcnt := [0, 0, 9, 0, 0, 0, 0, 0] }).map (·.reg 5) = some 9 ∧
    (run0 (.mtx g false 0x001 0) (th [0xFFFFFFFF])).map (·.fctl) = some 0x1F ∧ (run0 (.mtx g true 0x013 6) (th [0, 0, 0, 0, 0, 0, 8, 1])).map (·.tr.npc) = some 0x100000008 ∧
    (run0 (.mfx g true 0x200 6) (th [])).map (fun t => t.pair 6) = some 0 ∧ (run0 (.tstat g .handle 8 0) (th [])).map (·.reg 8) = some 0xFFFFFFFF ∧
    (after (.aclr g false 0) (at0 (th []))).mats.length = 1 := by decide +kernel

/-- A state in which the tables of the machine are tables, and from which the step goes on: a placed word, and the machine after reset. -/
theorem wit_StepKeepsWellFormed : (let s := State.reset.withFetchWord 64 0x30070B04FFFFFF83; s.wf && (match step s with | .next u => u.wf | _ => false)) = true ∧
    (State.reset.wf && (match step State.reset with | .next u => u.wf | _ => false)) = true := by decide +kernel

end Sys2Proof.Tests
end

section
/-!
PROOF of O3: every step of every state goes on. A fault is answered in one place alone, by the frame of an instruction word that finds
no thread issuing (`word`), and the plan of a step never comes to a word without one.
-/
namespace Sys2Proof.Machine

/-! ### The arms of `exec` -/

/-- The arm of every instruction word is the shared frame around an effect of its own. -/
theorem exec_eq_word {i : Instr} (h : isEvent i = false) (s : State) : ∃ f, exec i s = word i s f := by
  cases i <;> cases h <;> exact ⟨_, rfl⟩

/-- The arm of every event answers a next state; those of the matrix engine and of the hub units look for work first. -/
theorem goesOn_exec_of_isEvent {i : Instr} (h : isEvent i = true) (s : State) : goesOn (exec i s) := by
  cases i <;> cases h
  case matrixOpStart => simp only [exec, execMatrixOpStart]; split <;> exact ⟨_, rfl⟩
  case matrixOpComplete => simp only [exec, execMatrixOpComplete]; split <;> exact ⟨_, rfl⟩
  case pselComplete => simp only [exec, execPselComplete]; split <;> exact ⟨_, rfl⟩
  case selectComplete => simp only [exec, execSelectComplete]; split <;> exact ⟨_, rfl⟩
  case tmrgComplete =>
    simp only [exec, execTmrgComplete]; split
    · split <;> exact ⟨_, rfl⟩
    · exact ⟨_, rfl⟩
  case tunmComplete =>
    simp only [exec, execTunmComplete]; split
    · split <;> exact ⟨_, rfl⟩
    · exact ⟨_, rfl⟩
  all_goals exact ⟨_, rfl⟩

/-- The bundle that is issuing comes to a thread that is there. -/
def State.hasIssuer (s : State) : Prop := ∃ k t, s.cur? = some k ∧ s.thread? k = some t

/-- Whatever is asked for while a thread issues goes on. -/
theorem goesOn_exec_of_hasIssuer {s : State} (h : s.hasIssuer) (i : Instr) : goesOn (exec i s) := by
  cases e : isEvent i with
  | true => exact goesOn_exec_of_isEvent e s
  | false =>
    obtain ⟨k, t, hk, ht⟩ := h
    obtain ⟨f, hf⟩ := exec_eq_word e s
    rw [hf]; exact word_goes hk ht f

/-! ### Plans that go on -/

/-- The plan performs a word only where a thread issues it, and as an event only an event. -/
def Plan.sound : Plan → Prop
  | .done _ => True
  | .word _ s => s.hasIssuer
  | .event e _ => isEvent e = true

/-- The words of a clause are read with a change of nothing but the TLBs. -/
theorem State.clauseWords_ok {vf core : Nat} : (n : Nat) → {s u : State} → {va : DWord} → {ws : List DWord} →
    s.clauseWords vf core va n = .ok (u, ws) → ∃ l, u = { s with tlb := l }
  | 0, s, u, va, ws, h => by
    simp only [State.clauseWords, Except.ok.injEq, Prod.mk.injEq] at h
    exact ⟨s.tlb, h.1.symm⟩
  | n + 1, s, u, va, ws, h => by
    simp only [State.clauseWords] at h
    split at h
    · cases h
    · split at h
      · cases h
      next hrest =>
        cases h
        obtain ⟨l, rfl⟩ := State.clauseWords_ok n hrest
        exact ⟨l, rfl⟩

/-- So is a clause that is fetched. -/
theorem State.fetchClause_words {s u : State} {k : Nat} {t : Thread} {h : Header} {ws : List DWord}
    (e : s.fetchClause k t = .words u h ws) : ∃ l, u = { s with tlb := l } := by
  unfold State.fetchClause at e
  split at e
  · cases e
  next hhead =>
    obtain ⟨l, rfl⟩ := State.clauseWords_ok 1 hhead
    dsimp only at e
    split at e
    · cases e
    · split at e
      · cases e
      next hbody =>
        obtain ⟨l', rfl⟩ := State.clauseWords_ok _ hbody
        split at e
        · cases e; exact ⟨l', rfl⟩
        · cases e

theorem State.clauseOf_words {s u : State} {k : Nat} {t : Thread} {h : Header} {ws : List DWord}
    (e : s.clauseOf k t = .words u h ws) : ∃ l, u = { s with tlb := l } := by
  unfold State.clauseOf at e
  split at e
  · cases e; exact ⟨s.tlb, rfl⟩
  · exact State.fetchClause_words e

theorem State.hasIssuer_clauseOf {s u : State} {k : Nat} {t : Thread} {h : Header} {ws : List DWord} (hs : s.hasIssuer)
    (e : s.clauseOf k t = .words u h ws) : u.hasIssuer := by
  obtain ⟨l, rfl⟩ := State.clauseOf_words e
  exact hs

theorem State.hasIssuer_dissolve {s : State} (h : s.hasIssuer) : s.dissolve.hasIssuer := by
  have hcur : s.dissolve.cur? = s.cur? := by unfold State.cur? State.dissolve; cases s.issue <;> rfl
  obtain ⟨k, t, hk, ht⟩ := h
  exact ⟨k, t, hcur.trans hk, ht⟩

/-- A change of a thread takes no thread away. -/
theorem State.hasIssuer_modThread {s : State} (h : s.hasIssuer) (k : Nat) (f : Thread → Thread) : (s.modThread k f).hasIssuer := by
  obtain ⟨j, t, hj, ht⟩ := h
  refine ⟨j, if j = k then f t else t, hj, ?_⟩
  rw [State.thread?_modThread, ht]
  split <;> rfl

theorem State.checkWord_sound {s : State} (h : s.hasIssuer) (k : Nat) (t : Thread) (w : DWord) : (s.checkWord k t w).sound := by
  unfold State.checkWord
  dsimp only
  split
  · trivial
  · split
    · trivial
    · split
      · exact h
      · trivial
      · trivial

theorem State.threadWord_sound {s : State} (h : s.hasIssuer) (k : Nat) (t : Thread) : (s.threadWord k t).sound := by
  unfold State.threadWord
  split
  · trivial
  split
  · trivial
  split
  · trivial
  next u hd ws hclause =>
    have hu := State.hasIssuer_clauseOf h hclause
    split
    · trivial
    dsimp only
    generalize (if t.pc = t.cb then t.cb + 8 else t.pc) = pc
    split
    · trivial
    split
    · trivial
    refine State.checkWord_sound (State.hasIssuer_modThread ?_ _ _) _ _ _
    split
    · exact State.hasIssuer_dissolve hu
    · exact hu

theorem State.issueNext_sound {s : State} {b : Bundle} (h : s.issue = some b) : (s.issueNext b).sound := by
  unfold State.issueNext
  split
  · trivial
  next k ks htodo =>
    split
    · trivial
    next t ht =>
      have hissuer : s.hasIssuer := ⟨k, t, by simp [State.cur?, h, htodo], ht⟩
      have hword := State.threadWord_sound hissuer k t
      split
      · trivial
      · exact hword

theorem State.issueWord_sound (s : State) : s.issueWord.sound := by
  unfold State.issueWord
  split
  next b hb => exact State.issueNext_sound hb
  · trivial

/-- A replay issues the logged word in a bundle of its own, with its thread in it. -/
theorem State.startReplay_sound (s : State) (k : Nat) : (s.startReplay k).sound := by
  unfold State.startReplay
  split
  · trivial
  next t ht =>
    split
    · trivial
    next e es hlog =>
      split
      · trivial
      split
      · trivial
      dsimp only
      split
      · exact ⟨k, t.asLogged e, rfl, (State.thread?_setThread s k k _).trans (if_pos rfl)⟩
      · trivial

/-! ### What moves by itself -/

/-- What moves by itself is an event. -/
theorem State.isEvent_of_nextAuto {s : State} {e : Instr} {w : List Nat} (h : s.nextAuto = some (e, w)) : isEvent e = true := by
  have hthreads : (s.threadAutos.all fun a => isEvent a.1) = true := rfl
  have hengines : (s.engineAutos.all fun a => isEvent a.1) = true := rfl
  have hparts : (s.partAutos.all fun a => isEvent a.1) = true := by
    simp only [State.partAutos, List.all_append, List.all_flatMap, Bool.and_eq_true, List.all_eq_true]
    exact ⟨fun v _ f _ a ha => by
      simp only [List.mem_cons, List.not_mem_nil, or_false] at ha
      rcases ha with rfl | rfl <;> rfl, List.all_eq_true.mp rfl⟩
  obtain ⟨a, hmem, ha⟩ := List.exists_of_findSome?_eq_some h
  obtain ⟨w', -, heq⟩ := Option.map_eq_some_iff.mp ha
  have hevent : isEvent a.1 = true := by
    rcases List.mem_append.mp hmem with hmem | hmem
    · rcases List.mem_append.mp hmem with hmem | hmem
      · exact List.all_eq_true.mp hthreads a hmem
      · exact List.all_eq_true.mp hengines a hmem
    · exact List.all_eq_true.mp hparts a hmem
  cases heq
  exact hevent

theorem State.moveDefault_sound (s : State) : s.moveDefault.sound := by
  unfold State.moveDefault
  split
  · exact State.startReplay_sound _ _
  split
  next hauto => exact State.isEvent_of_nextAuto hauto
  split
  · rfl
  split
  · exact State.issueWord_sound _
  · trivial

theorem State.move_sound (s : State) (m : Mover) : (s.move m).sound := by
  cases m with
  | issue core lg =>
    simp only [State.move]
    split
    · exact State.issueWord_sound _
    · trivial
  | replay k => exact State.startReplay_sound s k
  | event e who =>
    simp only [State.move]
    split
    next he => exact he
    · trivial

theorem State.plan_sound (s : State) : s.plan.sound := by
  unfold State.plan
  split
  next b hb => exact State.issueNext_sound hb
  · split
    · exact State.move_sound _ _
    · exact State.moveDefault_sound s

/-- Settles O3: every plan is sound, and every arm of `exec` goes on where a sound plan asks for it. -/
theorem everyStepGoesOn : Obligations.EveryStepGoesOn := by
  intro s
  have hplan := s.plan_sound
  unfold step
  split
  · exact ⟨_, rfl⟩
  next e t hp =>
    rw [hp] at hplan
    exact goesOn_exec_of_isEvent hplan t
  next i t hp =>
    rw [hp] at hplan
    obtain ⟨u, hu⟩ := goesOn_exec_of_hasIssuer hplan i
    rw [hu]
    exact ⟨_, rfl⟩

end Sys2Proof.Machine
end

section
/-!
PROOF of O55, first part: the registers of PF BAR0 (R6, R76, R358, R368, R379, R381, R394). What a write of each of them leaves.
-/
namespace Sys2Proof.Machine

/-! ### Lists of numbers -/

theorem mem_upTo {x : Nat} : {a n : Nat} → (x ∈ upTo a n ↔ a ≤ x ∧ x < a + n)
  | a, 0 => by simp only [upTo, List.not_mem_nil, false_iff]; omega
  | a, n + 1 => by simp only [upTo, List.mem_cons, mem_upTo]; omega

theorem nodup_upTo : (a n : Nat) → (upTo a n).Nodup
  | _, 0 => List.nodup_nil
  | a, n + 1 => List.nodup_cons.mpr ⟨fun h => by have := mem_upTo.mp h; omega, nodup_upTo (a + 1) n⟩

/-- A power of two sets its bit in a number that does not have it. -/
theorem testBit_add_two_pow {x a : Nat} (h : x.testBit a = false) (j : Nat) :
    (x + 2 ^ a).testBit j = (decide (j = a) || x.testBit j) := by
  rcases Nat.lt_trichotomy j a with hlt | rfl | hgt
  · rw [Nat.add_comm, Nat.testBit_two_pow_add_gt hlt, decide_eq_false (Nat.ne_of_lt hlt), Bool.false_or]
  · rw [Nat.add_comm, Nat.testBit_two_pow_add_eq, h, decide_eq_true rfl, Bool.true_or, Bool.not_false]
  · have heven : x / 2 ^ a % 2 ≠ 1 := by
      rw [Nat.testBit_eq_decide_div_mod_eq] at h
      exact of_decide_eq_false h
    have hhigh : (x + 2 ^ a) / 2 ^ j = x / 2 ^ j := by
      obtain ⟨k, rfl⟩ := Nat.exists_eq_add_of_lt hgt
      have hhalf : (x / 2 ^ a + 1) / 2 = x / 2 ^ a / 2 := by omega
      have hpow : 2 ^ (a + k + 1) = 2 ^ a * (2 * 2 ^ k) := by
        rw [Nat.add_assoc, Nat.pow_add, Nat.pow_succ, Nat.mul_comm (2 ^ k)]
      rw [hpow, ← Nat.div_div_eq_div_mul, ← Nat.div_div_eq_div_mul, Nat.add_div_right x (Nat.two_pow_pos a),
        ← Nat.div_div_eq_div_mul, ← Nat.div_div_eq_div_mul, hhalf]
    rw [Nat.testBit_eq_decide_div_mod_eq, hhigh, ← Nat.testBit_eq_decide_div_mod_eq, decide_eq_false (Nat.ne_of_gt hgt),
      Bool.false_or]

/-- Powers of two that a number does not have are added bit by bit. -/
theorem testBit_foldl_add_two_pow : {l : List Nat} → l.Nodup → (x : Nat) → (∀ a ∈ l, x.testBit a = false) → (v : Nat) →
    ((l.foldl (fun n v => n + 2 ^ v) x).testBit v = true ↔ x.testBit v = true ∨ v ∈ l)
  | [], _, _, _, _ => ⟨.inl, fun h => h.resolve_right List.not_mem_nil⟩
  | a :: l, h, x, hx, v => by
    obtain ⟨ha, hl⟩ := List.nodup_cons.mp h
    have hstep := testBit_add_two_pow (hx a List.mem_cons_self)
    have hrest (b : Nat) (hb : b ∈ l) : (x + 2 ^ a).testBit b = false := by
      rw [hstep, hx b (List.mem_cons_of_mem a hb), Bool.or_false]
      exact decide_eq_false fun e => ha (e ▸ hb)
    rw [List.foldl_cons, testBit_foldl_add_two_pow hl _ hrest, hstep, Bool.or_eq_true, decide_eq_true_iff, List.mem_cons, or_assoc,
      or_left_comm]

/-- The number whose bits a list names, as VFEN is put together: its bits are the members. -/
theorem testBit_foldl_two_pow {l : List Nat} (h : l.Nodup) (v : Nat) :
    (l.foldl (fun n v => n + 2 ^ v) 0).testBit v = true ↔ v ∈ l := by
  rw [testBit_foldl_add_two_pow h 0 (fun a _ => Nat.zero_testBit a), Nat.zero_testBit]
  exact ⟨fun hv => hv.resolve_left Bool.false_ne_true, .inr⟩

/-! ### Bits of a number -/

theorem testBit_bits (x hi lo i : Nat) : (bits x hi lo).testBit i = (decide (i < hi + 1 - lo) && x.testBit (lo + i)) := by
  simp only [bits, Nat.testBit_mod_two_pow, Nat.testBit_div_two_pow, Nat.add_comm]

/-- A field of a field is a field. -/
theorem bits_bits {x b c hi lo : Nat} (h : hi ≤ c) : bits (bits x (b + c) b) hi lo = bits x (b + hi) (b + lo) := by
  refine Nat.eq_of_testBit_eq fun i => ?_
  simp only [testBit_bits, Nat.add_assoc]
  by_cases hi' : i < hi + 1 - lo
  · have h1 : lo + i < b + (c + 1) - b := by omega
    have h2 : i < b + (hi + 1) - (b + lo) := by omega
    simp only [hi', h1, h2, decide_true, Bool.true_and]
  · have h2 : ¬ i < b + (hi + 1) - (b + lo) := by omega
    simp only [hi', h2, decide_false, Bool.false_and]

/-- A descriptor's word reads back as it was written. -/
theorem bits_putWord_same (x : BitVec 256) {n : Nat} (hn : n < 4) (v : DWord) :
    bits (putWord x n v).toNat (64 * n + 63) (64 * n) = v.toNat := by
  have hx := x.isLt
  have hv := v.isLt
  simp only [bits, putWord, BitVec.toNat_ofNat]
  obtain rfl | rfl | rfl | rfl : n = 0 ∨ n = 1 ∨ n = 2 ∨ n = 3 := by omega
  all_goals omega

/-- A write of one word of a descriptor leaves the others. -/
theorem bits_putWord_other (x : BitVec 256) {n m : Nat} (hn : n < 4) (hm : m < 4) (h : m ≠ n) (v : DWord) :
    bits (putWord x n v).toNat (64 * m + 63) (64 * m) = bits x.toNat (64 * m + 63) (64 * m) := by
  have hx := x.isLt
  have hv := v.isLt
  simp only [bits, putWord, BitVec.toNat_ofNat]
  obtain rfl | rfl | rfl | rfl : n = 0 ∨ n = 1 ∨ n = 2 ∨ n = 3 := by omega
  all_goals
    obtain rfl | rfl | rfl | rfl : m = 0 ∨ m = 1 ∨ m = 2 ∨ m = 3 := by omega
    all_goals omega

/-! ### Partitions, queues and tables after a change -/

theorem State.part_setPart (s : State) (k n : Nat) (p : Part) : (s.setPart k p).part n = if n = k then p else s.part n :=
  NMap.getD_set s.parts k n p Part.reset

theorem State.part_modPart (s : State) (k n : Nat) (f : Part → Part) :
    (s.modPart k f).part n = if n = k then f (s.part k) else s.part n := State.part_setPart s k n _

theorem State.queue_modQueue (s : State) (k n : Nat) (f : Queue → Queue) :
    (s.modQueue k f).queue n = if n = k then f (s.queue k) else s.queue n := NMap.getD_set s.queues k n _ Queue.reset

/-! ### VFEN (R358, R379, R394) -/

/-- What allows a VF to be enabled keeps it apart from the VFs of the list and from those that are still occupied. -/
theorem State.clash_of_mayEnable {s : State} {on : List Nat} {vf w : Nat} (h : s.mayEnable on vf = true)
    (hw : w ∈ on ∨ w < 16 ∧ s.occupied w = true) (hne : w ≠ vf) : (s.part vf).clash (s.part w) = false := by
  simp only [State.mayEnable, Bool.and_eq_true, Bool.not_eq_true', List.any_eq_false] at h
  obtain ⟨⟨⟨hclash, -⟩, -⟩, -⟩ := h
  have hmem : w ∈ on ++ (upTo 0 16).filter s.occupied := by
    refine List.mem_append.mpr (hw.imp_right fun ⟨hlt, hocc⟩ => List.mem_filter.mpr ⟨mem_upTo.mpr (by omega), hocc⟩)
  simpa [hne] using hclash w hmem

/-- It also keeps its carve-outs inside the two memories. -/
theorem State.carveOuts_of_mayEnable {s : State} {on : List Nat} {vf : Nat} (h : s.mayEnable on vf = true) :
    (s.part vf).hbase + (s.part vf).hsize ≤ 384 ∧ (s.part vf).cbase + (s.part vf).csize ≤ 3072 := by
  simp only [State.mayEnable, Bool.and_eq_true, decide_eq_true_eq] at h
  obtain ⟨⟨⟨-, hhbm⟩, hcistern⟩, -⟩ := h
  exact ⟨hhbm, hcistern⟩

/-- A list of VFs with one more enabled beside them, if it may be. -/
def State.enableIf (s : State) (on : List Nat) (v : Nat) : List Nat := if s.mayEnable on v then on ++ [v] else on

theorem State.mem_enableIf {s : State} {on : List Nat} {v w : Nat} :
    w ∈ s.enableIf on v ↔ w ∈ on ∨ w = v ∧ s.mayEnable on v = true := by
  unfold State.enableIf
  split <;> simp [*]

/-- A list of VFs with others enabled beside them, in order. -/
def State.enableEach (s : State) (asked on : List Nat) : List Nat := asked.foldl s.enableIf on

theorem State.subset_enableEach (s : State) : (asked on : List Nat) → on ⊆ s.enableEach asked on
  | [], _ => fun _ h => h
  | a :: asked, on => fun _ hv => State.subset_enableEach s asked (s.enableIf on a) (State.mem_enableIf.mpr (.inl hv))

/-- A VF that is enabled beside others was asked for and was allowed beside them all. -/
theorem State.mem_enableEach (s : State) {v : Nat} : (asked on : List Nat) → v ∈ s.enableEach asked on →
    v ∈ on ∨ v ∈ asked ∧ ∃ l, on ⊆ l ∧ s.mayEnable l v = true
  | [], _, h => .inl h
  | a :: asked, on, h => by
    rcases State.mem_enableEach s asked (s.enableIf on a) h with hv | ⟨hv, l, hl, hmay⟩
    · rcases State.mem_enableIf.mp hv with hv | ⟨rfl, hmay⟩
      · exact .inl hv
      · exact .inr ⟨List.mem_cons_self, on, fun _ h => h, hmay⟩
    · exact .inr ⟨List.mem_cons_of_mem _ hv, l, fun w hw => hl (State.mem_enableIf.mpr (.inl hw)), hmay⟩

theorem State.nodup_enableIf {s : State} {on : List Nat} {v : Nat} (hon : on.Nodup) (hv : v ∉ on) : (s.enableIf on v).Nodup := by
  unfold State.enableIf
  split
  · refine List.nodup_append.mpr ⟨hon, List.nodup_cons.mpr ⟨List.not_mem_nil, List.nodup_nil⟩, fun a ha b hb e => hv ?_⟩
    rw [← List.mem_singleton.mp hb, ← e]
    exact ha
  · exact hon

theorem State.nodup_enableEach (s : State) : (asked on : List Nat) → asked.Nodup → on.Nodup → (∀ v ∈ asked, v ∉ on) →
    (s.enableEach asked on).Nodup
  | [], _, _, hon, _ => hon
  | a :: asked, on, hasked, hon, hdisj => by
    obtain ⟨ha, hasked⟩ := List.nodup_cons.mp hasked
    refine State.nodup_enableEach s asked _ hasked (State.nodup_enableIf hon (hdisj a List.mem_cons_self)) fun v hv hmem => ?_
    rcases State.mem_enableIf.mp hmem with hmem | ⟨rfl, -⟩
    · exact hdisj v (List.mem_cons_of_mem _ hv) hmem
    · exact ha hv

/-- The VFs that a write of VFEN leaves enabled. -/
def State.vfenKept (s : State) (x : Word) : List Nat := (upTo 0 16).filter fun v => s.host.vfen.getLsbD v && x.getLsbD v

/-- The VFs that a write of VFEN asks to enable. -/
def State.vfenAsked (s : State) (x : Word) : List Nat := (upTo 0 16).filter fun v => x.getLsbD v && !s.host.vfen.getLsbD v

/-- The VFs that are enabled after a write of VFEN. -/
def State.vfenOn (s : State) (x : Word) : List Nat := s.enableEach (s.vfenAsked x) (s.vfenKept x)

/-- The state with the dirty bitmaps of some VFs zero. -/
def State.cleanAll (s : State) (l : List Nat) : State :=
  l.foldl (fun (st : State) v => st.modPart v fun p => { p with dirty := [] }) s

theorem exec_vfenWrite {s : State} {x : Word} (h : s.host.mode = 1) :
    exec (.vfenWrite x) s = .next ((s.cleanAll ((s.vfenOn x).filter fun v => !s.host.vfen.getLsbD v)).modHost fun g =>
      { g with vfen := BitVec.ofNat 32 ((s.vfenOn x).foldl (fun n v => n + 2 ^ v) 0) }) := by
  simp only [exec, execVfenWrite, h, ne_eq, not_true_eq_false, if_false]
  rfl

theorem State.cleanAll_eq (s : State) : (l : List Nat) → s.cleanAll l = { s with parts := (s.cleanAll l).parts }
  | [] => rfl
  | v :: l => State.cleanAll_eq (s.modPart v fun p => { p with dirty := [] }) l

theorem State.dirty_cleanAll {s : State} {v : Nat} : (l : List Nat) → v ∈ l ∨ (s.part v).dirty = [] → ((s.cleanAll l).part v).dirty = []
  | [], h => h.resolve_left List.not_mem_nil
  | w :: l, h => by
    refine State.dirty_cleanAll (s := s.modPart w fun p => { p with dirty := [] }) l ?_
    rw [State.part_modPart]
    by_cases e : v = w
    · exact .inr (by rw [if_pos e])
    · rw [if_neg e]
      exact h.imp_left fun hv => (List.mem_cons.mp hv).resolve_left e

theorem State.mem_vfenKept {s : State} {x : Word} {v : Nat} :
    v ∈ s.vfenKept x ↔ v < 16 ∧ s.vfEnabled v = true ∧ x.getLsbD v = true := by
  simp only [State.vfenKept, State.vfEnabled, List.mem_filter, mem_upTo, Bool.and_eq_true, Nat.zero_le, true_and,
    Nat.zero_add]

theorem State.mem_vfenAsked {s : State} {x : Word} {v : Nat} :
    v ∈ s.vfenAsked x ↔ v < 16 ∧ x.getLsbD v = true ∧ s.vfEnabled v = false := by
  simp only [State.vfenAsked, State.vfEnabled, List.mem_filter, mem_upTo, Bool.and_eq_true, Bool.not_eq_true', Nat.zero_le,
    true_and, Nat.zero_add]

theorem State.nodup_vfenOn (s : State) (x : Word) : (s.vfenOn x).Nodup := by
  refine State.nodup_enableEach s _ _ ((nodup_upTo 0 16).filter _) ((nodup_upTo 0 16).filter _) fun v hv hkept => ?_
  obtain ⟨-, -, hoff⟩ := State.mem_vfenAsked.mp hv
  obtain ⟨-, hon, -⟩ := State.mem_vfenKept.mp hkept
  simp [hoff] at hon

/-- A VF is enabled after a write of VFEN when it is one of `vfenOn`. -/
theorem vfenImage_getLsbD {s : State} {x : Word} {v : Nat} (hv : v < 16) :
    (BitVec.ofNat 32 ((s.vfenOn x).foldl (fun n v => n + 2 ^ v) 0)).getLsbD v = true ↔ v ∈ s.vfenOn x := by
  rw [BitVec.getLsbD_ofNat, Bool.and_eq_true, testBit_foldl_two_pow (s.nodup_vfenOn x)]
  exact and_iff_right (decide_eq_true (by omega))

/-- The only VF that a write of VFEN names is on after it when it may be enabled alone. -/
theorem State.mem_vfenOn_of_only {s : State} {x : Word} {v : Nat} (hv : v < 16) (hx : x.toNat = 2 ^ v)
    (hmay : s.mayEnable [] v = true) : v ∈ s.vfenOn x := by
  have hbit (w : Nat) : x.getLsbD w = decide (v = w) := by rw [← BitVec.testBit_toNat, hx, Nat.testBit_two_pow]
  cases hon : s.vfEnabled v with
  | true => exact State.subset_enableEach s _ _ (State.mem_vfenKept.mpr ⟨hv, hon, by simp [hbit]⟩)
  | false =>
    have hkept : s.vfenKept x = [] := List.eq_nil_iff_forall_not_mem.mpr fun w hw => by
      obtain ⟨-, hw, hxw⟩ := State.mem_vfenKept.mp hw
      simp only [hbit, decide_eq_true_eq] at hxw
      subst hxw; simp [hon] at hw
    have hasked : s.vfenAsked x = [v] := by
      have hv' : v ∈ upTo 0 16 := mem_upTo.mpr (by omega)
      have hfilter : s.vfenAsked x = (upTo 0 16).filter (· == v) := List.filter_congr fun w _ => by
        rw [hbit, Bool.eq_iff_iff]
        simp only [Bool.and_eq_true, decide_eq_true_eq, Bool.not_eq_true', beq_iff_eq]
        exact ⟨fun h => h.1.symm, fun h => ⟨h.symm, h ▸ hon⟩⟩
      rw [hfilter, List.filter_beq, (nodup_upTo 0 16).count, if_pos hv', List.replicate_one]
    rw [State.vfenOn, hkept, hasked]
    simp [State.enableEach, State.enableIf, hmay]

/-- A write of VFEN in MODE 1 (R358, R379, R394). -/
theorem exec_vfenWrite_spec {s : State} (x : Word) (h : s.host.mode = 1) : ∃ u, exec (.vfenWrite x) s = .next u ∧
    (∀ v < 16, u.vfEnabled v = true → x.getLsbD v = true) ∧
    (∀ v < 16, s.vfEnabled v = true → x.getLsbD v = true → u.vfEnabled v = true) ∧
    (∀ v < 16, s.vfEnabled v = false → u.vfEnabled v = true → (s.part v).hbase + (s.part v).hsize ≤ 384 ∧
      (s.part v).cbase + (s.part v).csize ≤ 3072 ∧ (u.part v).dirty = [] ∧
      ∀ w < 16, w ≠ v → (s.vfEnabled w = true ∧ x.getLsbD w = true) ∨ s.occupied w = true → (s.part v).clash (s.part w) = false) ∧
    (∀ v < 16, x.toNat = 2 ^ v → s.mayEnable [] v = true → u.vfEnabled v = true) ∧
    u = { s with host := { s.host with vfen := u.host.vfen }, parts := u.parts } := by
  refine ⟨_, exec_vfenWrite h, fun v hv hu => ?_, fun v hv hs hx => ?_, fun v hv hs hu => ?_, fun v hv hx hmay => ?_, ?_⟩
  · rcases State.mem_enableEach s _ _ ((vfenImage_getLsbD hv).mp hu) with hkept | ⟨hasked, -⟩
    · exact (State.mem_vfenKept.mp hkept).2.2
    · exact (State.mem_vfenAsked.mp hasked).2.1
  · exact (vfenImage_getLsbD hv).mpr (State.subset_enableEach s _ _ (State.mem_vfenKept.mpr ⟨hv, hs, hx⟩))
  · have hon := (vfenImage_getLsbD hv).mp hu
    have hfresh : v ∈ (s.vfenOn x).filter fun v => !s.host.vfen.getLsbD v :=
      List.mem_filter.mpr ⟨hon, by simpa [State.vfEnabled] using hs⟩
    rcases State.mem_enableEach s _ _ hon with hkept | ⟨-, l, hl, hmay⟩
    · obtain ⟨-, hkept, -⟩ := State.mem_vfenKept.mp hkept
      simp [hs] at hkept
    · obtain ⟨hhbm, hcistern⟩ := State.carveOuts_of_mayEnable hmay
      refine ⟨hhbm, hcistern, State.dirty_cleanAll _ (.inl hfresh), fun w hw hne hwon => ?_⟩
      refine State.clash_of_mayEnable hmay (hwon.imp (fun ⟨hs, hx⟩ => hl ?_) fun hocc => ⟨hw, hocc⟩) hne
      exact State.mem_vfenKept.mpr ⟨hw, hs, hx⟩
  · exact (vfenImage_getLsbD hv).mpr (State.mem_vfenOn_of_only hv hx hmay)
  · rw [State.cleanAll_eq]
    rfl

/-! ### HGCFG, POOLCFG, VECCFG and VECCFG2 (R76, R394) -/

theorem exec_hgcfgWrite (s : State) (x : Word) : ∃ u, exec (.hgcfgWrite x) s = .next u ∧
    u.hg.hgcfg = (if x &&& 0xFFFF = 0 then 1 else x &&& 0xFFFF) ∧ u = { s with hg := u.hg } ∧ u.hg.ptr = s.hg.ptr :=
  ⟨_, rfl, rfl, rfl, rfl⟩

/-- While a VF is enabled the pool and the vectors are fixed. -/
theorem exec_configWrite_of_enabled {s : State} (high : Bool) (val : DWord) (h : s.host.vfen ≠ 0) :
    exec (.poolcfgWrite val) s = .next s ∧ exec (.veccfgWrite high val) s = .next s :=
  ⟨congrArg Host.Outcome.next (if_neg h), congrArg Host.Outcome.next (if_neg h)⟩

theorem exec_configWrite_of_disabled {s : State} (high : Bool) (val : DWord) (h : s.host.vfen = 0) :
    exec (.poolcfgWrite val) s = .next { s with host := { s.host with poolcfg := val &&& 0xFFFFFF1FFFFFFFFF }, pool := [] } ∧
    exec (.veccfgWrite high val) s = .next { s with host :=
      { s.host with veccfg := if high then s.host.veccfg else val, veccfg2 := if high then val else s.host.veccfg2 } } := by
  refine ⟨congrArg Host.Outcome.next (if_pos h), (congrArg Host.Outcome.next (if_pos h)).trans ?_⟩
  cases high <;> rfl

/-! ### Partition descriptors (R358) -/

/-- A descriptor's word has been written, and nothing else. -/
def State.pdescWritten (s u : State) (vf : Nat) (word : BitVec 2) (val : DWord) : Prop :=
  u.part vf = { s.part vf with desc := (u.part vf).desc } ∧
    bits (u.part vf).desc.toNat (64 * word.toNat + 63) (64 * word.toNat) = (val &&& pdescBits word.toNat).toNat ∧
    (∀ n < 4, n ≠ word.toNat → bits (u.part vf).desc.toNat (64 * n + 63) (64 * n) = bits (s.part vf).desc.toNat (64 * n + 63) (64 * n)) ∧
    (∀ n, n ≠ vf → u.part n = s.part n) ∧ u = { s with parts := u.parts }

/-- The state with a descriptor's word written. -/
def State.putDesc (s : State) (vf : Nat) (word : BitVec 2) (val : DWord) : State :=
  s.modPart vf fun p => { p with desc := putWord p.desc word.toNat (val &&& pdescBits word.toNat) }

theorem State.pdescWritten_putDesc (s : State) (vf : Nat) (word : BitVec 2) (val : DWord) :
    s.pdescWritten (s.putDesc vf word val) vf word val := by
  have hpart : (s.putDesc vf word val).part vf =
      { s.part vf with desc := putWord (s.part vf).desc word.toNat (val &&& pdescBits word.toNat) } := by
    rw [State.putDesc, State.part_modPart, if_pos rfl]
  refine ⟨by rw [hpart], ?_, fun n hn hne => ?_, fun n hn => ?_, rfl⟩
  · rw [hpart]; exact bits_putWord_same _ word.isLt _
  · rw [hpart]; exact bits_putWord_other _ word.isLt hn hne _
  · rw [State.putDesc, State.part_modPart, if_neg hn]

/-- A descriptor that stays within the rule of R358 is written; any other leaves the state. -/
theorem State.pdescStays_cases (s u : State) (vf : Nat) : s.pdescStays vf u = s ∨ s.pdescStays vf u = u ∧
    (s.vfEnabled vf = true ∨ s.occupied vf = true → u.mayEnable (s.enabled.filter fun v => v != vf) vf = true) ∧
    ∀ k t, (k, t) ∈ s.threads → t.vf = vf → (u.part vf).hasCore (coreOf k) = true := by
  unfold State.pdescStays
  dsimp only
  split
  · exact .inl rfl
  next hok =>
    simp only [Bool.or_eq_true, Bool.and_eq_true, Bool.not_eq_true', List.any_eq_true, beq_iff_eq, not_or, not_and,
      Bool.not_eq_false, not_exists, Prod.forall] at hok
    exact .inr ⟨rfl, hok.1, fun k t hmem hvf => hok.2 k t hmem hvf⟩

/-- A partition that is disabled and has nothing left on its cores is bound by no rule. -/
theorem State.pdescStays_of_free {s : State} (u : State) {vf : Nat} (hoff : s.vfEnabled vf = false) (hfree : s.occupied vf = false) :
    s.pdescStays vf u = u := by
  have hthreads : (s.threads.any fun x => x.2.vf == vf && !(u.part vf).hasCore (coreOf x.1)) = false := by
    rw [State.occupied, Bool.or_eq_false_iff, List.any_eq_false] at hfree
    exact List.any_eq_false.mpr fun x hx => by simp [hfree.1 x hx]
  simp [State.pdescStays, hoff, hfree, hthreads]

theorem exec_pdescWrite_beyond {s : State} {vf : Nat} (word : BitVec 2) (val : DWord) (h : 16 ≤ vf) :
    exec (.pdescWrite vf word val) s = .next s := by
  simp [exec, execPdescWrite, h]

theorem exec_pdescWrite_idle {s : State} {vf : Nat} (word : BitVec 2) (val : DWord) (hvf : vf < 16) (hidle : (s.part vf).idle = true) :
    exec (.pdescWrite vf word val) s = .next (s.pdescStays vf (s.putDesc vf word val)) := by
  simp [exec, execPdescWrite, Nat.not_le.mpr hvf, hidle, State.putDesc]

theorem exec_pdescWrite_free {s : State} {vf : Nat} (word : BitVec 2) (val : DWord) (hvf : vf < 16) (hidle : (s.part vf).idle = true)
    (hoff : s.vfEnabled vf = false) (hfree : s.occupied vf = false) :
    ∃ u, exec (.pdescWrite vf word val) s = .next u ∧ s.pdescWritten u vf word val :=
  ⟨_, by rw [exec_pdescWrite_idle word val hvf hidle, State.pdescStays_of_free _ hoff hfree], s.pdescWritten_putDesc vf word val⟩

/-- The descriptor of a VF that is enabled or occupied is written only if it breaks no rule of R358. -/
theorem exec_pdescWrite_held {s : State} {vf : Nat} (word : BitVec 2) (val : DWord) (hvf : vf < 16) (hidle : (s.part vf).idle = true)
    (hheld : s.vfEnabled vf = true ∨ s.occupied vf = true) : exec (.pdescWrite vf word val) s = .next s ∨
      ∃ u, exec (.pdescWrite vf word val) s = .next u ∧ s.pdescWritten u vf word val ∧ (u.part vf).hbase + (u.part vf).hsize ≤ 384 ∧
        (u.part vf).cbase + (u.part vf).csize ≤ 3072 ∧
        (∀ k t, (k, t) ∈ s.threads → t.vf = vf → (u.part vf).hasCore (coreOf k) = true) ∧
        ∀ w < 16, w ≠ vf → s.vfEnabled w = true ∨ s.occupied w = true → (u.part vf).clash (u.part w) = false := by
  rw [exec_pdescWrite_idle word val hvf hidle]
  rcases s.pdescStays_cases (s.putDesc vf word val) vf with hstay | ⟨hput, hmay, hcores⟩
  · exact .inl (by rw [hstay])
  · have hmay := hmay hheld
    obtain ⟨hhbm, hcistern⟩ := State.carveOuts_of_mayEnable hmay
    refine .inr ⟨_, by rw [hput], s.pdescWritten_putDesc vf word val, hhbm, hcistern, hcores, fun w hw hne hwheld => ?_⟩
    refine State.clash_of_mayEnable hmay (hwheld.imp (fun hon => ?_) fun hocc => ⟨hw, hocc⟩) hne
    exact List.mem_filter.mpr ⟨List.mem_filter.mpr ⟨mem_upTo.mpr (by omega), hon⟩, by simpa using hne⟩

/-- A field of a descriptor that lies in one word of it. -/
theorem Part.field_word (p : Part) {n hi lo : Nat} (h : hi ≤ 63) :
    p.field (64 * n + hi) (64 * n + lo) = bits (bits p.desc.toNat (64 * n + 63) (64 * n)) hi lo := (bits_bits h).symm

/-- QUOTA's half of word 2 of a descriptor is written; the half with RSTRIDE stays. -/
theorem bits_quotaWord (w val : DWord) :
    bits (hiWord w ++ loWord val).toNat 31 0 = val.toNat % 2 ^ 32 ∧ bits (hiWord w ++ loWord val).toNat 40 32 = bits w.toNat 40 32 := by
  constructor <;> refine Nat.eq_of_testBit_eq fun i => ?_
  · simp only [testBit_bits, BitVec.testBit_toNat, BitVec.getLsbD_append, loWord, Nat.testBit_mod_two_pow, BitVec.getLsbD_setWidth]
    by_cases hi : i < 32 <;> simp [hi]
  · simp only [testBit_bits, BitVec.testBit_toNat, BitVec.getLsbD_append, hiWord, BitVec.getLsbD_setWidth, BitVec.getLsbD_ushiftRight]
    by_cases hi : i < 9
    · have hlt : i < 32 := by omega
      simp [hi, hlt]
    · simp [hi]

/-- A partition with QUOTA written. -/
def Part.putQuota (p : Part) (val : DWord) : Part :=
  { p with desc := putWord p.desc 2 (hiWord (BitVec.ofNat 64 (bits p.desc.toNat 191 128)) ++ loWord val) }

/-- A write of QUOTA leaves the other fields of the descriptor. -/
theorem Part.putQuota_fields (p : Part) (val : DWord) : (p.putQuota val).quota = val.toNat % 2 ^ 32 ∧
    (p.putQuota val).rstride = p.rstride ∧ (p.putQuota val).hbase = p.hbase ∧ (p.putQuota val).quads = p.quads := by
  obtain ⟨hquota, hrstride⟩ := bits_quotaWord (BitVec.ofNat 64 (bits p.desc.toNat 191 128)) val
  have hword2 : (BitVec.ofNat 64 (bits p.desc.toNat 191 128)).toNat = bits p.desc.toNat 191 128 := by
    rw [BitVec.toNat_ofNat, bits]; omega
  have hsame := bits_putWord_same p.desc (n := 2) (by omega) (hiWord (BitVec.ofNat 64 (bits p.desc.toNat 191 128)) ++ loWord val)
  have hother {m : Nat} (hm : m < 2) := bits_putWord_other p.desc (n := 2) (m := m) (by omega) (by omega) (by omega)
    (hiWord (BitVec.ofNat 64 (bits p.desc.toNat 191 128)) ++ loWord val)
  have hfield (q : Part) (n : Nat) {hi lo : Nat} (h : hi ≤ 63) := Part.field_word q (n := n) (lo := lo) h
  refine ⟨?_, ?_, ?_, ?_⟩
  · calc (p.putQuota val).quota = _ := hfield _ 2 (hi := 31) (lo := 0) (by omega)
      _ = val.toNat % 2 ^ 32 := by rw [Part.putQuota, hsame, hquota]
  · calc (p.putQuota val).rstride = _ := hfield _ 2 (hi := 40) (lo := 32) (by omega)
      _ = bits (bits p.desc.toNat 191 128) 40 32 := by rw [Part.putQuota, hsame, hrstride, hword2]
      _ = p.rstride := (hfield p 2 (by omega)).symm
  · calc (p.putQuota val).hbase = _ := hfield _ 1 (hi := 8) (lo := 0) (by omega)
      _ = bits (bits p.desc.toNat 127 64) 8 0 := by rw [Part.putQuota, hother (by omega)]
      _ = p.hbase := (hfield p 1 (by omega)).symm
  · calc (p.putQuota val).quads = _ := hfield _ 0 (hi := 31) (lo := 0) (by omega)
      _ = bits (bits p.desc.toNat 63 0) 31 0 := by rw [Part.putQuota, hother (by omega)]
      _ = p.quads := (hfield p 0 (by omega)).symm

theorem exec_pdescWrite_running {s : State} {vf : Nat} (word : BitVec 2) (val : DWord) (hvf : vf < 16)
    (hidle : (s.part vf).idle = false) :
    exec (.pdescWrite vf word val) s = .next (if word = 2 then s.modPart vf fun p => p.putQuota val else s) :=
  congrArg Host.Outcome.next ((if_neg (Nat.not_le.mpr hvf)).trans (if_neg (by simp [hidle])))

/-- While its partition runs, only QUOTA of a descriptor is written. -/
theorem exec_pdescWrite_running_spec {s : State} {vf : Nat} (word : BitVec 2) (val : DWord) (hvf : vf < 16)
    (hidle : (s.part vf).idle = false) : (word ≠ 2 → exec (.pdescWrite vf word val) s = .next s) ∧
      (word = 2 → ∃ u, exec (.pdescWrite vf word val) s = .next u ∧ (u.part vf).quota = val.toNat % 2 ^ 32 ∧
        (u.part vf).rstride = (s.part vf).rstride ∧ (u.part vf).hbase = (s.part vf).hbase ∧ (u.part vf).quads = (s.part vf).quads) := by
  rw [exec_pdescWrite_running word val hvf hidle]
  refine ⟨fun hword => by rw [if_neg hword], fun hword => ⟨_, by rw [if_pos hword], ?_⟩⟩
  rw [State.part_modPart, if_pos rfl]
  exact Part.putQuota_fields _ val

/-! ### The registers whose write only stores (R394) -/

theorem exec_registerWrite_queue {s : State} {q : Nat} (val : DWord) (h : q < 256) :
    exec (.registerWrite (0x2000 + 4 * q) val) s = .next (if (s.queue q).en = true ∨ (s.queue q).holds ≠ 0 then s
      else s.modQueue q fun x => { x with qcfg := putPart x.qcfg val.toNat }) := by
  have hq : (0x2000 + 4 * q - 0x2000) / 4 = q := by omega
  have hrow : 0x2000 ≤ 0x2000 + 4 * q ∧ 0x2000 + 4 * q < 0x2400 ∧ (0x2000 + 4 * q) % 4 = 0 := by omega
  have hother : 0x2000 + 4 * q ≠ 0x20 ∧ 0x2000 + 4 * q ≠ 0x58 ∧ 0x2000 + 4 * q ≠ 0x60 ∧ 0x2000 + 4 * q ≠ 0x68 := by omega
  simp only [exec, execRegisterWrite, hother, hrow, hq, and_self, if_true, if_false, Bool.or_eq_true, bne_iff_ne]

theorem exec_registerWrite_smcmask {s : State} {v : Nat} (val : DWord) (h : v < 16) :
    exec (.registerWrite (0x3000 + 4 * v) val) s = .next (s.modPart v fun p => { p with smcmask := loWord val }) := by
  have hv : (0x3000 + 4 * v - 0x3000) / 4 = v := by omega
  have hqueue : ¬ 0x3000 + 4 * v < 0x2400 := by omega
  have hrow : 0x3000 ≤ 0x3000 + 4 * v ∧ 0x3000 + 4 * v < 0x3040 ∧ (0x3000 + 4 * v) % 4 = 0 := by omega
  have hother : 0x3000 + 4 * v ≠ 0x20 ∧ 0x3000 + 4 * v ≠ 0x58 ∧ 0x3000 + 4 * v ≠ 0x60 ∧ 0x3000 + 4 * v ≠ 0x68 := by omega
  simp only [exec, execRegisterWrite, hother, hqueue, hrow, hv, false_and, and_false, and_self, if_true, if_false]

/-- The state with a half of a Prejor window written, where the offset is one. -/
def State.putWindow (s : State) (offset : Nat) (val : DWord) : State :=
  match windowAt offset with
  | some (n, high) => s.modHost fun g => { g with pwin := g.pwin.set n (putHalf (g.pwin.getD n 0) high val) }
  | none => s

/-- Beyond the registers of their own, a write goes to a Prejor window or to nothing. -/
theorem exec_registerWrite_window {s : State} {offset : Nat} (val : DWord) (h : offset ∉ [0x20, 0x58, 0x60, 0x68])
    (hqueue : ¬(0x2000 ≤ offset ∧ offset < 0x2400)) (hmask : ¬(0x3000 ≤ offset ∧ offset < 0x3040)) :
    exec (.registerWrite offset val) s = .next (s.putWindow offset val) := by
  simp only [List.mem_cons, List.not_mem_nil, or_false, not_or] at h
  obtain ⟨h20, h58, h60, h68⟩ := h
  have hqueue' : ¬(0x2000 ≤ offset ∧ offset < 0x2400 ∧ offset % 4 = 0) := by omega
  have hmask' : ¬(0x3000 ≤ offset ∧ offset < 0x3040 ∧ offset % 4 = 0) := by omega
  simp only [exec, execRegisterWrite, h20, h58, h60, h68, hqueue', hmask', if_false]
  rfl

/-- A half of a Prejor window is written; `d` is 0 for the lower half and 8 for the upper. -/
theorem exec_registerWrite_half {s : State} {n d : Nat} (val : DWord) (hn : n < 1024) (hd : d = 0 ∨ d = 8) :
    ∃ u, exec (.registerWrite (0x10000 + 16 * n + d) val) s = .next u ∧
      u.host.pwin.getD n 0 = putHalf (s.host.pwin.getD n 0) (d == 8) val := by
  have hwin : windowAt (0x10000 + 16 * n + d) = some (n, d == 8) := by
    have hrow : 0x10000 ≤ 0x10000 + 16 * n + d ∧ 0x10000 + 16 * n + d < 0x14000 ∧ (0x10000 + 16 * n + d) % 8 = 0 := by omega
    have hdiv : (0x10000 + 16 * n + d - 0x10000) / 16 = n := by omega
    have hmod : (0x10000 + 16 * n + d) % 16 = d := by omega
    simp only [windowAt, hrow, hdiv, hmod, and_self, if_true]
  refine ⟨_, by rw [exec_registerWrite_window val (by simp; omega) (by omega) (by omega), State.putWindow, hwin], ?_⟩
  exact (NMap.getD_set _ n n _ 0).trans (if_pos rfl)

theorem exec_registerWrite_pwin {s : State} {v w : Nat} (val : DWord) (hv : v < 16) (hw : w < 64) : let n := 64 * v + w
    (∃ u, exec (.registerWrite (0x10000 + 16 * n) val) s = .next u ∧
      u.host.pwin.getD n 0 = (s.host.pwin.getD n 0 >>> 64).setWidth 64 ++ (val &&& 0xFFFFFFFF01FFFFFF)) ∧
    (∃ u, exec (.registerWrite (0x10000 + 16 * n + 8) val) s = .next u ∧
      u.host.pwin.getD n 0 = (val &&& 0x00FFFFFFFFFFFFFF) ++ (s.host.pwin.getD n 0).setWidth 64) :=
  ⟨exec_registerWrite_half (d := 0) val (by omega) (.inl rfl), exec_registerWrite_half (d := 8) val (by omega) (.inr rfl)⟩

/-- An absent register, and one that no write of this event reaches, keeps the machine as it is. -/
theorem exec_registerWrite_absent {s : State} {offset : Nat} (val : DWord) (h : offset ∉ [0x20, 0x58, 0x60, 0x68])
    (hqueue : ¬(0x2000 ≤ offset ∧ offset < 0x2400)) (hmask : ¬(0x3000 ≤ offset ∧ offset < 0x3040))
    (hwin : ¬(0x10000 ≤ offset ∧ offset < 0x14000)) : exec (.registerWrite offset val) s = .next s := by
  have hnone : windowAt offset = none := if_neg (by omega)
  rw [exec_registerWrite_window val h hqueue hmask, State.putWindow, hnone]

/-! ### DLOGDATA (R381) -/

theorem exec_dlogdataRead (s : State) : ∃ u, exec .dlogdataRead s = .next u ∧
    let v := s.host.dlogsel.toNat % 16
    let w := bits s.host.dlogsel.toNat 63 8
    (u.host.reads = (if ceilDiv (s.dirtyBits v) 64 ≤ w then 0 else s.dirtyWord v w) :: s.host.reads) ∧
    u.host.dlogsel.toNat = v + (w + 1) % 2 ^ 56 * 256 ∧ (∀ b ∈ (u.part v).dirty, b / 64 ≠ w) ∧ u.mem = s.mem := by
  have hvf : bits s.host.dlogsel.toNat 3 0 = s.host.dlogsel.toNat % 16 := by simp [bits]
  refine ⟨_, rfl, ?_, ?_, fun b hb => ?_, rfl⟩
  · rw [← hvf]; rfl
  · refine (BitVec.toNat_ofNat _ _).trans ?_
    rw [hvf]; omega
  · rw [hvf] at hb
    have hpart := State.part_modPart s (s.host.dlogsel.toNat % 16) (s.host.dlogsel.toNat % 16) fun p =>
      { p with dirty := p.dirty.filter fun b => b / 64 != bits s.host.dlogsel.toNat 63 8 }
    rw [if_pos rfl] at hpart
    have hb : b ∈ ((s.clearDirty (s.host.dlogsel.toNat % 16) (bits s.host.dlogsel.toNat 63 8)).part (s.host.dlogsel.toNat % 16)).dirty := hb
    rw [State.clearDirty, hpart] at hb
    simpa using (List.mem_filter.mp hb).2

end Sys2Proof.Machine
end

section
/-!
PROOF of O55, second part: what the host and the peers do to memory and to queues (R56, R114, R380, R393, R395, R396).
-/
namespace Sys2Proof.Machine

/-! ### What a store leaves as it was -/

/-- The machine without global memory, the stores under way, and the partitions, whose dirty bitmaps a store marks. -/
def State.besideMemory (s : State) : State := { s with mem := [], flights := [], parts := [], nextId := 0 }

theorem State.besideMemory_markDirty (s : State) (p : Nat) : (s.markDirty p).besideMemory = s.besideMemory := by
  unfold State.markDirty
  refine foldl_keeps State.besideMemory _ (fun st vf => ?_) _ s
  split
  · split <;> rfl
  · rfl

theorem State.besideMemory_markCells (s : State) (bs : List Host.Cell) : (s.markCells bs).besideMemory = s.besideMemory :=
  foldl_keeps State.besideMemory (fun (st : State) (c : Host.Cell) => st.markDirty c.1) (fun st c => st.besideMemory_markDirty c.1) bs s

theorem State.besideMemory_showAll (s : State) (l : List (Nat × Nat)) : (s.showAll l).besideMemory = s.besideMemory :=
  foldl_keeps State.besideMemory (fun (st : State) (f : Flight) => st.markCells f.bytes) (fun st f => st.besideMemory_markCells f.bytes) _ _

theorem State.besideMemory_showIds (s : State) (ids : List Nat) (m : Nat) : (s.showIds ids m).besideMemory = s.besideMemory := by
  unfold State.showIds
  split
  · rfl
  · exact s.besideMemory_showAll _

theorem State.besideMemory_storeAt (s : State) (w : Writer) (m : Nat) (bs : List Host.Cell) (need : List (Nat × Nat))
    (atom : Option (Nat × Nat)) (vf : Nat) : (s.storeAt w m bs need atom vf).besideMemory = s.besideMemory :=
  (s.addFlight w bs need atom vf).besideMemory_showAll _

theorem State.besideMemory_writeAtom (s : State) (w : Writer) (o m : Nat) (bs : List Host.Cell) (need : List (Nat × Nat)) (vf : Nat) :
    (s.writeAtom w o m bs need vf).besideMemory = s.besideMemory :=
  (State.besideMemory_storeAt _ _ _ _ _ _ _).trans (s.besideMemory_showIds _ _)

theorem State.threads_storeAt (s : State) (w : Writer) (m : Nat) (bs : List Host.Cell) (need : List (Nat × Nat))
    (atom : Option (Nat × Nat)) (vf : Nat) : (s.storeAt w m bs need atom vf).threads = s.threads :=
  (congrArg State.threads (s.besideMemory_storeAt w m bs need atom vf) :)

/-! ### Atomics of the host and of the peers (R393, R396) -/

/-- A number's low bytes do not depend on what lies above them. -/
theorem bytesOf_mod : (n x : Nat) → bytesOf (x % 2 ^ (8 * n)) n = bytesOf x n
  | 0, _ => rfl
  | n + 1, x => by
    have hpow : 2 ^ (8 * (n + 1)) = 256 * 2 ^ (8 * n) := by rw [Nat.mul_add, Nat.pow_add]; exact Nat.mul_comm _ _
    have hbyte : BitVec.ofNat 8 (x % 2 ^ (8 * (n + 1))) = BitVec.ofNat 8 x := by
      rw [← BitVec.toNat_inj, BitVec.toNat_ofNat, BitVec.toNat_ofNat]
      exact Nat.mod_mod_of_dvd x (hpow ▸ Nat.dvd_mul_right 256 _)
    have hrest : x % 2 ^ (8 * (n + 1)) / 256 = x / 256 % 2 ^ (8 * n) := by rw [hpow, Nat.mod_mul_right_div_self]
    rw [bytesOf, bytesOf, hbyte, hrest, bytesOf_mod n (x / 256)]

/-- The old value of an atomic goes back to the host or to the peer. -/
theorem State.reads_outerAtom (s : State) (w : Writer) (ag vf key n : Nat) (op : AtomOp) (b c : Nat) :
    (s.outerAtom w ag vf key n op b c).host.reads =
      BitVec.ofNat 64 (natOf (s.readAtom ag (maskDev ||| 2 ^ ag) key n)) :: s.host.reads := by
  unfold State.outerAtom
  dsimp only
  split
  · exact congrArg (fun t : State => t.host.reads) (State.besideMemory_showIds _ _ _)
  · exact congrArg (fun t : State => t.host.reads) (State.besideMemory_writeAtom _ _ _ _ _ _ _)

/-- An atomic that writes stores its new value. -/
theorem State.outerAtom_stored {s : State} (w : Writer) (ag vf key n : Nat) {op : AtomOp} (b c : Nat) (h : s.mem.wf = true)
    (hop : op ≠ .cas ∨ natOf (s.readAtom ag (maskDev ||| 2 ^ ag) key n) = c) : s.stored (s.outerAtom w ag vf key n op b c)
      (cellsAt key (bytesOf (atomNew op (8 * n) (natOf (s.readAtom ag (maskDev ||| 2 ^ ag) key n)) b c) n)) := by
  have hwrites : ¬(op == .cas && natOf (s.readAtom ag (maskDev ||| 2 ^ ag) key n) != c) = true := by
    simp only [Bool.and_eq_true, beq_iff_eq, bne_iff_ne]
    exact fun ⟨hcas, hne⟩ => hop.elim (fun h => h hcas) fun h => hne h
  unfold State.outerAtom
  dsimp only
  rw [if_neg hwrites]
  exact State.writeAtom_stored (s.modHost _) w ag _ _ [] vf h

/-- A CAS that does not find its comparand stores nothing. -/
theorem State.outerAtom_cas_misses {s : State} (w : Writer) (ag vf key n b : Nat) {c : Nat} (h : s.mem.wf = true)
    (hne : natOf (s.readAtom ag (maskDev ||| 2 ^ ag) key n) ≠ c) : s.stored (s.outerAtom w ag vf key n .cas b c) [] := by
  have hmisses : (AtomOp.cas == .cas && natOf (s.readAtom ag (maskDev ||| 2 ^ ag) key n) != c) = true := by simp [hne]
  unfold State.outerAtom
  dsimp only
  rw [if_pos hmisses]
  exact fun p => State.showIds_last (s.modHost _) _ _ h p

/-- Only CAS has a comparand. -/
theorem atomNew_comparand {op : AtomOp} (h : op ≠ .cas) (w old b c d : Nat) : atomNew op w old b c = atomNew op w old b d := by
  cases op
  case cas => exact absurd rfl h
  all_goals rfl

/-! ### Host writes (R114, R380, R393, R394) -/

/-- A host access inside an enabled VF's carve-out goes on to the check of sealed memory. -/
theorem exec_hostWrite_inside {s : State} {vf : Nat} {off : DWord} {data : List Byte} (hvf : vf < 16) (hon : s.vfEnabled vf = true)
    (hfits : off.toNat + s.hostBytes data ≤ (s.part vf).hsize * gib) :
    exec (.hostWrite vf off data) s = .next (
      if (upTo ((s.part vf).hbase * gib + off.toNat) (s.hostBytes data)).any fun a => s.sealedPhys vf a then
        s.errVector vf Cause.sealed.code off
      else s.hostAccess vf ((s.part vf).hbase * gib + off.toNat) data) := by
  have hin : ¬(16 ≤ vf ∨ s.vfEnabled vf = false ∨ (s.part vf).hsize * gib < off.toNat + s.hostBytes data) := by
    simp only [hon, Bool.true_eq_false, false_or]; omega
  exact congrArg Host.Outcome.next (if_neg hin)

theorem exec_hostWrite_sealed {s : State} {vf : Nat} {off : DWord} {data : List Byte} (hvf : vf < 16) (hon : s.vfEnabled vf = true)
    (hfits : off.toNat + s.hostBytes data ≤ (s.part vf).hsize * gib)
    (hsealed : ∃ a, (s.part vf).hbase * gib + off.toNat ≤ a ∧ a < (s.part vf).hbase * gib + off.toNat + s.hostBytes data ∧
      s.sealedPhys vf a = true) :
    exec (.hostWrite vf off data) s = .next (s.errVector vf Cause.sealed.code off) := by
  obtain ⟨a, hlo, hhi, ha⟩ := hsealed
  rw [exec_hostWrite_inside hvf hon hfits, if_pos (List.any_eq_true.mpr ⟨a, mem_upTo.mpr ⟨hlo, hhi⟩, ha⟩)]

theorem exec_hostWrite_open {s : State} {vf : Nat} {off : DWord} {data : List Byte} (hvf : vf < 16) (hon : s.vfEnabled vf = true)
    (hfits : off.toNat + s.hostBytes data ≤ (s.part vf).hsize * gib)
    (hopen : ∀ a, (s.part vf).hbase * gib + off.toNat ≤ a → a < (s.part vf).hbase * gib + off.toNat + s.hostBytes data →
      s.sealedPhys vf a = false) :
    exec (.hostWrite vf off data) s = .next (s.hostAccess vf ((s.part vf).hbase * gib + off.toNat) data) := by
  rw [exec_hostWrite_inside hvf hon hfits, if_neg]
  simp only [List.any_eq_true, mem_upTo, not_exists, not_and, Bool.not_eq_true]
  exact fun a ⟨hlo, hhi⟩ => hopen a hlo hhi

/-- A plain write stores its bytes. -/
theorem State.hostAccess_write {s : State} (vf key : Nat) (data : List Byte) (h : s.mem.wf = true) (hwho : s.who = []) :
    s.stored (s.hostAccess vf key data) (cellsAt key data) ∧ (s.hostAccess vf key data).threads = s.threads := by
  have haccess : s.hostAccess vf key data = s.storeAt .host (2 ^ agHost) (cellsAt key data) [] none vf := by
    unfold State.hostAccess; rw [hwho]
  rw [haccess]
  exact ⟨s.storeAt_stored _ _ _ _ _ _ h, s.threads_storeAt _ _ _ _ _ _⟩

/-- FetchAdd and Swap answer the old value and store the sum or the operand. -/
theorem State.hostAccess_fetch {s : State} (vf : Nat) {key n m : Nat} {data : List Byte} (h : s.mem.wf = true)
    (hm : m = 1 ∨ m = 2) (hwho : s.who = [m]) (hn : n = 4 ∨ n = 8) (hlen : data.length = n) (hkey : key % n = 0) :
    let old := natOf (s.readAtom agHost (maskDev ||| 2 ^ agHost) key n)
    (s.hostAccess vf key data).host.reads = BitVec.ofNat 64 old :: s.host.reads ∧
      s.stored (s.hostAccess vf key data) (cellsAt key (bytesOf (if m = 1 then old + natOf data else natOf data) n)) := by
  subst hlen
  have hfits : ((data.length == 4 || data.length == 8) && key % data.length == 0) = true := by simpa using ⟨hn, hkey⟩
  rcases hm with rfl | rfl
  · have haccess : s.hostAccess vf key data = s.outerAtom .host agHost vf key data.length .add (natOf data) 0 := by
      unfold State.hostAccess; rw [hwho]; exact if_pos hfits
    have hstored := s.outerAtom_stored .host agHost vf key data.length (op := .add) (natOf data) 0 h (.inl (by decide))
    rw [atomNew, bytesOf_mod] at hstored
    rw [haccess]
    exact ⟨s.reads_outerAtom _ _ _ _ _ _ _ _, hstored⟩
  · have haccess : s.hostAccess vf key data = s.outerAtom .host agHost vf key data.length .xchg (natOf data) 0 := by
      unfold State.hostAccess; rw [hwho]; exact if_pos hfits
    rw [haccess]
    exact ⟨s.reads_outerAtom _ _ _ _ _ _ _ _, s.outerAtom_stored .host agHost vf key data.length (op := .xchg) _ 0 h (.inl (by decide))⟩

/-- CAS answers the old value and stores its second operand where it finds the first. -/
theorem State.hostAccess_cas {s : State} (vf : Nat) {key n : Nat} {data : List Byte} (h : s.mem.wf = true) (hwho : s.who = [3])
    (hn : n = 4 ∨ n = 8) (hlen : data.length = 2 * n) (hkey : key % n = 0) :
    let old := natOf (s.readAtom agHost (maskDev ||| 2 ^ agHost) key n)
    (s.hostAccess vf key data).host.reads = BitVec.ofNat 64 old :: s.host.reads ∧
      s.stored (s.hostAccess vf key data)
        (if old = natOf (data.take n) then cellsAt key (bytesOf (natOf (data.drop n)) n) else []) := by
  have hhalf : data.length / 2 = n := by omega
  have hfits : (((n == 4 || n == 8) && key % n == 0) && data.length % 2 == 0) = true := by
    have heven : data.length % 2 = 0 := by omega
    simpa [heven] using ⟨hn, hkey⟩
  have haccess : s.hostAccess vf key data =
      s.outerAtom .host agHost vf key n .cas (natOf (data.drop n)) (natOf (data.take n)) := by
    unfold State.hostAccess; rw [hwho, hhalf]; exact if_pos hfits
  dsimp only
  rw [haccess]
  refine ⟨s.reads_outerAtom _ _ _ _ _ _ _ _, ?_⟩
  split
  next heq =>
    have hstored := s.outerAtom_stored .host agHost vf key n (op := .cas) (natOf (data.drop n)) (natOf (data.take n)) h (.inr heq)
    rwa [atomNew, if_pos heq] at hstored
  next hne => exact s.outerAtom_cas_misses .host agHost vf key n _ h hne

/-- A host write through VF BAR2 to memory that is not sealed. -/
theorem exec_hostWrite_open_spec {s : State} {vf : Nat} {off : DWord} {data : List Byte} (hvf : vf < 16) (hon : s.vfEnabled vf = true)
    (hfits : off.toNat + s.hostBytes data ≤ (s.part vf).hsize * gib)
    (hopen : ∀ a, (s.part vf).hbase * gib + off.toNat ≤ a → a < (s.part vf).hbase * gib + off.toNat + s.hostBytes data →
      s.sealedPhys vf a = false) (hmem : s.mem.wf = true) :
    let key := (s.part vf).hbase * gib + off.toNat
    (s.who = [] → ∃ u, exec (.hostWrite vf off data) s = .next u ∧ s.stored u (cellsAt key data) ∧ u.threads = s.threads) ∧
    (∀ n, n = 4 ∨ n = 8 → key % n = 0 →
      let old := natOf (s.readAtom agHost (maskDev ||| 2 ^ agHost) key n)
      let x := natOf (data.drop (data.length - n))
      (∀ m, (m = 1 ∨ m = 2) → s.who = [m] → data.length = n → ∃ u, exec (.hostWrite vf off data) s = .next u ∧
        u.host.reads = BitVec.ofNat 64 old :: s.host.reads ∧ s.stored u (cellsAt key (bytesOf (if m = 1 then old + x else x) n))) ∧
      (s.who = [3] → data.length = 2 * n → ∃ u, exec (.hostWrite vf off data) s = .next u ∧
        u.host.reads = BitVec.ofNat 64 old :: s.host.reads ∧
        s.stored u (if old = natOf (data.take n) then cellsAt key (bytesOf x n) else []))) := by
  have hexec := exec_hostWrite_open hvf hon hfits hopen
  refine ⟨fun hwho => ⟨_, hexec, State.hostAccess_write vf _ data hmem hwho⟩, fun n hn hkey => ⟨fun m hm hwho hlen => ⟨_, hexec, ?_⟩,
    fun hwho hlen => ⟨_, hexec, ?_⟩⟩⟩
  · have hdrop : data.drop (data.length - n) = data := by rw [hlen, Nat.sub_self, List.drop_zero]
    rw [hdrop]
    exact State.hostAccess_fetch vf hmem hm hwho hn hlen hkey
  · have hdrop : data.length - n = n := by omega
    rw [hdrop]
    exact State.hostAccess_cas vf hmem hwho hn hlen hkey

/-- Through a VF that is disabled nothing is done. -/
theorem exec_vfAccess_off {s : State} {vf : Nat} (off : DWord) (data : List Byte) (addr data2 : DWord) (op : AtomOp) (w64 : Bool)
    (h : s.vfEnabled vf = false) : exec (.hostWrite vf off data) s = .next s ∧ exec (.hostPush vf off.toNat data) s = .next s ∧
      exec (.peerRequest vf addr 1 op w64 data data2) s = .next s :=
  ⟨congrArg Host.Outcome.next (if_pos (.inr (.inl h))), congrArg Host.Outcome.next (if_pos (.inr (.inl h))),
    congrArg Host.Outcome.next (if_pos (.inr h))⟩

/-! ### Host pushes (R56, R395) -/

theorem State.queue_errVector (s : State) (vf code : Nat) (a : DWord) (n : Nat) : (s.errVector vf code a).queue n = s.queue n := by
  unfold State.errVector
  dsimp only
  split <;> rfl

/-- A push that is discarded leaves the queues of other partitions unmarked. -/
theorem State.queue_dropPush_other {s : State} {vf q : Nat} (h : (s.queue q).vf ≠ vf) (n : Nat) : (s.dropPush vf q).queue n = s.queue n := by
  unfold State.dropPush
  rw [State.queue_errVector, if_neg fun hown => h hown.2]

/-- It marks a queue of its own partition. -/
theorem State.hostdrop_dropPush {s : State} {vf q : Nat} (hq : q < 256) (h : (s.queue q).vf = vf) :
    ((s.dropPush vf q).queue q).hostdrop = true := by
  unfold State.dropPush
  rw [State.queue_errVector, if_pos ⟨hq, h⟩, State.queue_modQueue, if_pos rfl]

/-- The state after a push of an entry to a queue that can take host pushes: an entry that does not enter the queue is discarded. -/
def State.takePush (s : State) (vf q : Nat) (e : Entry) : State :=
  match s.pushNew q e with
  | .pushed u => u
  | _ => s.dropPush vf q

theorem State.takePush_of_pushed {s u : State} {vf q : Nat} {e : Entry} (h : s.pushNew q e = .pushed u) : s.takePush vf q e = u := by
  simp only [State.takePush, h]

/-- A push at a queue's port through an enabled VF goes on to the checks of the queue. -/
theorem exec_hostPush_port {s : State} {vf q : Nat} (data : List Byte) (hq : q < 256) (hvf : vf < 16) (hon : s.vfEnabled vf = true) :
    exec (.hostPush vf (32 * q) data) s = .next (
      if data.length ≠ 32 ∨ (s.queue q).vf ≠ vf ∨ s.pushAllowed vf q = false then s.dropPush vf q
      else (s.showWriter .host maskDev).takePush vf q ((Entry.ofWords (wordsOf data)).pushedBy 0 noTask)) := by
  have hin : ¬(16 ≤ vf ∨ s.vfEnabled vf = false ∨ 8192 ≤ 32 * q) := by
    simp only [hon, Bool.true_eq_false, false_or]; omega
  have hdiv : 32 * q / 32 = q := by omega
  have hmod : 32 * q % 32 = 0 := by omega
  refine congrArg Host.Outcome.next ((if_neg hin).trans ?_)
  dsimp only
  rw [hdiv, hmod]
  simp only [ne_eq, not_true_eq_false, false_or]
  rfl

theorem exec_hostPush_refused {s : State} {vf q : Nat} {data : List Byte} (hq : q < 256) (hvf : vf < 16) (hon : s.vfEnabled vf = true)
    (h : (s.queue q).vf ≠ vf ∨ data.length ≠ 32 ∨ s.pushAllowed vf q = false) :
    exec (.hostPush vf (32 * q) data) s = .next (s.dropPush vf q) := by
  rw [exec_hostPush_port data hq hvf hon, if_pos]
  exact or_left_comm.mp h

/-- A queue with one more entry on chip. -/
def Queue.joined (x : Queue) (e : Entry) : Queue :=
  { x with ents := x.ents ++ [(e, x.seq)], seq := (x.seq + 1) % 2 ^ 64, lastTs := e.tstamp }

/-- An entry that the queue accepts joins it on chip while nothing of it stands in the spillway. -/
theorem State.pushNew_onChip {s : State} {q : Nat} {e : Entry} (haccepts : (s.queue q).rejects e true = false)
    (hspill : (s.queue q).spcnt = 0) (hroom : (s.queue q).ents.length < 64) :
    s.pushNew q e = .pushed (s.modQueue q fun x => x.joined e) :=
  (if_neg (by simp [haccepts])).trans (if_pos ⟨hspill, hroom⟩)

theorem exec_hostPush_taken {s : State} {vf q : Nat} {data : List Byte} (hq : q < 256) (hvf : vf < 16) (hon : s.vfEnabled vf = true)
    (hown : (s.queue q).vf = vf) (hlen : data.length = 32) (hallowed : s.pushAllowed vf q = true) (hspill : (s.queue q).spcnt = 0)
    (hroom : (s.queue q).ents.length < 64) :
    let e := (Entry.ofWords (wordsOf data)).pushedBy 0 0xFFFFFFFF
    (s.queue q).rejects e true = false → ∃ u, exec (.hostPush vf (32 * q) data) s = .next u ∧
      (u.queue q).ents = (s.queue q).ents ++ [(e, (s.queue q).seq)] ∧ (∀ n, n ≠ q → u.queue n = s.queue n) ∧
      u.threads = s.threads := by
  intro e haccepts
  have hshown : (s.showWriter .host maskDev).besideMemory = s.besideMemory := s.besideMemory_showIds _ _
  have hqueue (n : Nat) : (s.showWriter .host maskDev).queue n = s.queue n := (congrArg (fun t : State => t.queue n) hshown :)
  have hthreads : (s.showWriter .host maskDev).threads = s.threads := (congrArg State.threads hshown :)
  have hchecks : ¬(data.length ≠ 32 ∨ (s.queue q).vf ≠ vf ∨ s.pushAllowed vf q = false) := by simp [hlen, hown, hallowed]
  have hpush := State.pushNew_onChip (s := s.showWriter .host maskDev) (q := q)
    (e := (Entry.ofWords (wordsOf data)).pushedBy 0 noTask) (by rw [hqueue]; exact haccepts) (by rw [hqueue]; exact hspill)
    (by rw [hqueue]; exact hroom)
  have hexec : exec (.hostPush vf (32 * q) data) s = .next ((s.showWriter .host maskDev).modQueue q fun x => x.joined e) := by
    rw [exec_hostPush_port data hq hvf hon, if_neg hchecks, State.takePush_of_pushed hpush]; rfl
  refine ⟨_, hexec, ?_, fun n hn => ?_, hthreads⟩
  · rw [State.queue_modQueue, if_pos rfl, hqueue]; rfl
  · rw [State.queue_modQueue, if_neg hn, hqueue]

/-! ### Peers (R396) -/

/-- A request through an enabled VF that the levee lets pass. -/
theorem exec_peerStore {s : State} {vf : Nat} {addr : DWord} {p : Place} (op : AtomOp) (w64 : Bool) (data : List Byte) (data2 : DWord)
    (hvf : vf < 16) (hon : s.vfEnabled vf = true) (hplace : s.place vf addr.toNat = .ok p) (htgt : p.tgt < 3) :
    exec (.peerRequest vf addr 1 op w64 data data2) s = .next (
      if s.peerSealed vf p data.length then s.errVector vf Cause.sealed.code addr
      else s.storeAt .peer (maskDev ||| 2 ^ agPeer) (cellsAt p.key data) [] none vf) := by
  have hin : ¬(16 ≤ vf ∨ s.vfEnabled vf = false) := by simp only [hon, Bool.true_eq_false, or_false]; omega
  refine congrArg Host.Outcome.next ((if_neg hin).trans ?_)
  rw [hplace]
  exact if_neg (by omega)

theorem exec_peerAtomic {s : State} {vf : Nat} {addr : DWord} {p : Place} (op : AtomOp) (w64 : Bool) (data : List Byte) (data2 : DWord)
    (hvf : vf < 16) (hon : s.vfEnabled vf = true) (hplace : s.place vf addr.toNat = .ok p) (htgt : p.tgt < 3)
    (hopen : s.peerSealed vf p (if w64 then 8 else 4) = false) :
    exec (.peerRequest vf addr 2 op w64 data data2) s = .next (s.outerAtom .peer agPeer vf p.key (if w64 then 8 else 4) op (natOf data)
      (data2.toNat % 2 ^ (8 * (if w64 then 8 else 4)))) := by
  have hin : ¬(16 ≤ vf ∨ s.vfEnabled vf = false) := by simp only [hon, Bool.true_eq_false, or_false]; omega
  refine congrArg Host.Outcome.next ((if_neg hin).trans ?_)
  rw [hplace]
  exact (if_neg (by omega)).trans (if_neg (by simp [hopen]))

/-- What the levee refuses changes nothing. -/
theorem exec_peerStore_refused {s : State} {vf : Nat} {addr : DWord} {e : Cause} (op : AtomOp) (w64 : Bool) (data : List Byte)
    (data2 : DWord) (h : s.place vf addr.toNat = .error e) : exec (.peerRequest vf addr 1 op w64 data data2) s = .next s := by
  refine congrArg Host.Outcome.next ?_
  rw [h]
  exact ite_self s

theorem exec_peerRequest_spec {s : State} {vf : Nat} {addr : DWord} {p : Place} (op : AtomOp) (w64 : Bool) (data : List Byte)
    (data2 : DWord) (hvf : vf < 16) (hon : s.vfEnabled vf = true) (hplace : s.place vf addr.toNat = .ok p) (htgt : p.tgt < 3)
    (hmem : s.mem.wf = true) :
    (s.peerSealed vf p data.length = false → ∃ u, exec (.peerRequest vf addr 1 op w64 data data2) s = .next u ∧
      s.stored u (cellsAt p.key data)) ∧
    (s.peerSealed vf p data.length = true →
      exec (.peerRequest vf addr 1 op w64 data data2) s = .next (s.errVector vf Cause.sealed.code addr)) ∧
    (let n := if w64 then 8 else 4
     let old := natOf (s.readAtom agPeer (maskDev ||| 2 ^ agPeer) p.key n)
     s.peerSealed vf p n = false → op ≠ .cas → ∃ u, exec (.peerRequest vf addr 2 op w64 data data2) s = .next u ∧
      u.host.reads = BitVec.ofNat 64 old :: s.host.reads ∧
      s.stored u (cellsAt p.key (bytesOf (atomNew op (8 * n) old (natOf data) data2.toNat) n))) := by
  have hstore := exec_peerStore op w64 data data2 hvf hon hplace htgt
  refine ⟨fun hopen => ⟨_, by rw [hstore, hopen]; rfl, s.storeAt_stored _ _ _ _ _ _ hmem⟩, fun hsealed => by rw [hstore, hsealed]; rfl,
    fun hopen hop => ⟨_, exec_peerAtomic op w64 data data2 hvf hon hplace htgt hopen, s.reads_outerAtom _ _ _ _ _ _ _ _, ?_⟩⟩
  rw [atomNew_comparand hop _ _ _ data2.toNat (data2.toNat % 2 ^ (8 * (if w64 then 8 else 4)))]
  exact s.outerAtom_stored .peer agPeer vf p.key _ (natOf data) _ hmem (.inl hop)

end Sys2Proof.Machine
end

section
/-!
PROOF of O55, third part: accesses of threads and commands that the host, a peer or a lost port ends (R223, R393, R396), and the whole.
-/
namespace Sys2Proof.Machine

/-! ### Results that end with a cause (R45, R393, R396) -/

/-- A change of a value that is there is a write of it. -/
theorem NMap.modify_of_find? {α : Type} {k : Nat} {v : α} (f : α → α) : (m : NMap α) → m.find? k = some v → m.modify k f = m.set k (f v)
  | [], h => nomatch h
  | (j, w) :: m, h => by
    simp only [NMap.find?] at h
    simp only [NMap.modify, NMap.set]
    split at h
    next e => cases h; rw [if_pos e, if_pos e, e]
    next e =>
      split at h
      · cases h
      next hlt => rw [if_neg e, if_neg e, if_neg hlt, if_neg hlt, NMap.modify_of_find? f m h]

theorem State.modThread_of_thread? {s : State} {k : Nat} {t : Thread} (f : Thread → Thread) (h : s.thread? k = some t) :
    s.modThread k f = s.setThread k (f t) :=
  congrArg (fun ts => { s with threads := ts }) (NMap.modify_of_find? f s.threads h)

/-- The state in which a thread's outstanding result has ended with a cause. -/
def State.resultEnds (s : State) (k : Nat) (t : Thread) (o : Outst) (c : Cause) : State :=
  s.setThread k
    { { t with outs := t.outs.filter fun x => !(x == o) }.addImp c o.pc o.cb o.va o.at_ with unret := o.at_ :: t.unret }

/-- The oldest result that a server has still to give ends alone, when the thread has none that equals it. -/
theorem State.failOldest_eq {s : State} {k server : Nat} {t : Thread} {o : Outst} (c : Cause) (ht : s.thread? k = some t)
    (hfirst : (t.outs.find? fun o => o.target == server) = some o) (honce : ∀ x ∈ t.outs, x = o → t.outs.count x = 1) :
    s.failOldest k server c = s.resultEnds k t o c := by
  have hgone : (t.outs.filter fun x => x == o) = [o] := by
    rw [List.filter_beq, honce o (List.mem_of_find?_eq_some hfirst) rfl, List.replicate_one]
  unfold State.failOldest State.endResult
  rw [ht, Option.bind_some, hfirst]
  refine (State.modThread_of_thread? _ ht).trans ?_
  dsimp only
  rw [hgone]
  rfl

/-- An access of a thread that the host or a peer ends (R393, R396). -/
theorem exec_abort_thread {s : State} {k : Nat} {t : Thread} {o : Outst} (hwho : s.who = []) (ht : s.thread? k = some t)
    (honce : ∀ x ∈ t.outs, x = o → t.outs.count x = 1) :
    (∀ iommu, (t.outs.find? fun o => o.target == 1) = some o →
      exec (.hostAbort k iommu) s = .next (s.resultEnds k t o (if iommu then .iommuFault else .hostAbort))) ∧
    ((t.outs.find? fun o => o.target == 2) = some o → exec (.peerFail k) s = .next (s.resultEnds k t o .peerFail)) := by
  refine ⟨fun iommu hfirst => ?_, fun hfirst => ?_⟩
  · simp only [exec, execHostAbort, hwho]
    rw [State.failOldest_eq _ ht hfirst honce]
  · simp only [exec, execPeerFail, hwho]
    rw [State.failOldest_eq _ ht hfirst honce]

/-! ### Commands that end with a cause (R223, R393, R396) -/

theorem State.failOuter_none {s : State} {id tgt : Nat} {c : Cmd} {hit : Nat → Loc → Bool} (cause : Cause) (hc : s.cmd? id = some c)
    (h : s.cmdOuter c tgt hit = none) : s.failOuter tgt hit cause id = s := by
  simp only [State.failOuter, hc, h]

theorem State.failOuter_some {s : State} {id tgt va : Nat} {c : Cmd} {hit : Nat → Loc → Bool} (cause : Cause) (hc : s.cmd? id = some c)
    (h : s.cmdOuter c tgt hit = some va) : s.failOuter tgt hit cause id = s.failCmd c cause va := by
  simp only [State.failOuter, hc, h]

/-- A command's access that the host or a peer ends: one that has none there goes on. -/
theorem exec_abort_command {s : State} {id : Nat} {c : Cmd} (k : Nat) (hwho : s.who = [id]) (hc : s.cmd? id = some c) :
    (∀ iommu, (s.cmdOuter c 3 (fun _ _ => true) = none → exec (.hostAbort k iommu) s = .next s) ∧
      ∀ va, s.cmdOuter c 3 (fun _ _ => true) = some va →
        exec (.hostAbort k iommu) s = .next (s.failCmd c (if iommu then .iommuFault else .hostAbort) va)) ∧
    (s.cmdOuter c 4 (fun _ _ => true) = none → exec (.peerFail k) s = .next s) ∧
    (∀ va, s.cmdOuter c 4 (fun _ _ => true) = some va → exec (.peerFail k) s = .next (s.failCmd c .peerFail va)) := by
  have habort (iommu : Bool) : exec (.hostAbort k iommu) s =
      .next (s.failOuter 3 (fun _ _ => true) (if iommu then .iommuFault else .hostAbort) id) := by
    simp only [exec, execHostAbort, hwho]
  have hpeer : exec (.peerFail k) s = .next (s.failOuter 4 (fun _ _ => true) .peerFail id) := by
    simp only [exec, execPeerFail, hwho]
  refine ⟨fun iommu => ⟨fun h => ?_, fun va h => ?_⟩, fun h => ?_, fun va h => ?_⟩
  · rw [habort, State.failOuter_none _ hc h]
  · rw [habort, State.failOuter_some _ hc h]
  · rw [hpeer, State.failOuter_none _ hc h]
  · rw [hpeer, State.failOuter_some _ hc h]

/-! ### What the end of a command leaves of the host's registers -/

@[simp] theorem State.host_setSector (s : State) (n : Nat) (v : Sector) : (s.setSector n v).host = s.host := rfl

theorem State.host_takeAll (s : State) (id : Nat) (want : List (Nat × Bool)) : (s.takeAll id want).1.host = s.host :=
  foldl_keeps State.host (fun (st : State) (w : Nat × Bool) => st.setSector w.1 (if w.2 then .filling else .draining))
    (fun _ _ => rfl) _ s

theorem State.host_takeFor (s : State) (id : Nat) : (s.takeFor id).host = s.host := by
  unfold State.takeFor
  split
  · rfl
  · exact s.host_takeAll id _

theorem State.host_takeHeld (s : State) (ck id : Nat) : (s.takeHeld ck id).host = s.host := by
  unfold State.takeHeld
  split
  · rfl
  · split
    · rfl
    · exact s.host_takeAll id _

theorem State.host_takeMat (s : State) (id : Nat) : (s.takeMat id).host = s.host := by
  unfold State.takeMat
  split
  · rfl
  · exact s.host_takeAll id _

theorem State.host_takeWaiting (s : State) : s.takeWaiting.host = s.host := by
  refine foldl_keeps State.host _ (fun st id => ?_) _ s
  refine (foldl_keeps State.host _ (fun st (x : Nat × Crew) => st.host_takeHeld x.1 id) _ _).trans ?_
  rw [State.host_takeMat, State.host_takeFor]

theorem State.host_storeEvicted (s : State) (e : Evicted) (n : Nat) (bs : List Byte) : (s.storeEvicted e n bs).host = s.host :=
  (congrArg State.host (State.besideMemory_storeAt _ _ _ _ _ _ _) :)

theorem State.host_decTag (s : State) (c : Cmd) (tag : Tag) : (s.decTag c tag).host = s.host := by
  unfold State.decTag
  split
  · rfl
  · split
    · exact s.host_storeEvicted _ _ _
    · rfl

theorem State.host_discardCmd (s : State) (c : Cmd) : (s.discardCmd c).host = s.host := by
  have hsectors := foldl_keeps State.host (fun (st : State) (g : Nat × Bool) => st.setSector g.1 (if g.2 then .empty else .ready))
    (fun _ _ => rfl) c.got (s.dropCmd c.id)
  unfold State.discardCmd
  dsimp only
  split
  · rw [State.host_decTag, State.host_takeWaiting, hsectors, State.dropCmd_host]
  · rw [State.host_takeWaiting, hsectors, State.dropCmd_host]

theorem State.host_raise (s : State) (k : Nat) (x : TrapInfo) : (s.raise k x).host = s.host := by
  unfold State.raise
  split
  · rfl
  · dsimp only
    split <;> rfl

theorem State.host_deliverImp (s : State) (k : Nat) : (s.deliverImp k).host = s.host := by
  unfold State.deliverImp
  split
  · rfl
  · split
    · rfl
    · rw [State.host_raise, State.setThread_host]

theorem State.portsDown_errVector (s : State) (vf code : Nat) (a : DWord) : (s.errVector vf code a).host.portsDown = s.host.portsDown := by
  unfold State.errVector
  dsimp only
  split <;> rfl

theorem State.portsDown_abandon (s : State) (c : Cmd) (cause : Cause) (va : DWord) :
    (s.abandon c cause va).host.portsDown = s.host.portsDown := by
  have hbuf : (if c.issued then (s.discardCmd c).modTask c.crew fun x => { x with buf := x.buf.map (unissue c.id) }
      else s.discardCmd c).host = s.host := by
    split <;> exact s.host_discardCmd c
  unfold State.abandon
  dsimp only
  generalize (if c.issued then (s.discardCmd c).modTask c.crew fun x => { x with buf := x.buf.map (unissue c.id) }
    else s.discardCmd c) = u at hbuf
  split
  · split
    · rw [State.host_deliverImp, State.modThread_host, hbuf]
    · rw [State.modThread_host, hbuf]
  · rw [State.portsDown_errVector, hbuf]

theorem State.host_jobFault (s : State) (c : Cmd) (e : AccFault) (used o : Nat) : (s.jobFault c e used o).host = s.host := by
  have hfile : (s.fileFault c.vf e.1 (BitVec.ofNat 64 e.2) (faultStamp c.thr true)).1.host = s.host := by
    unfold State.fileFault
    dsimp only
    split
    · rfl
    · split
      · rfl
      · split <;> rfl
  unfold State.jobFault
  split
  · split
    next h => rw [h] at hfile; exact hfile
    next h => rw [h] at hfile; exact hfile
  · rfl

theorem State.portsDown_failOuter (s : State) (tgt : Nat) (hit : Nat → Loc → Bool) (cause : Cause) (id : Nat) :
    (s.failOuter tgt hit cause id).host.portsDown = s.host.portsDown := by
  unfold State.failOuter
  split
  · split
    · unfold State.failCmd
      split
      · rw [State.host_jobFault]
      · exact s.portsDown_abandon _ _ _
    · rfl
  · rfl

/-! ### A lost port (R396) -/

/-- The results of a thread that a condition names have ended with a cause. -/
def Thread.lose (t : Thread) (hit : Outst → Bool) (c : Cause) : Thread :=
  (t.outs.filter hit).foldl (fun (x : Thread) o => { x.addImp c o.pc o.cb o.va o.at_ with unret := o.at_ :: x.unret })
    { t with outs := t.outs.filter fun o => !hit o }

/-- What the end of results leaves of a thread: its causes grow by one for each of them, and its unretired words too. -/
theorem foldl_addImp (c : Cause) : (gone : List Outst) → (t : Thread) →
    gone.foldl (fun (x : Thread) o => { x.addImp c o.pc o.cb o.va o.at_ with unret := o.at_ :: x.unret }) t =
      { t with imps := t.imps ++ gone.map fun o => { cause := c, pc := o.pc, cb := o.cb, va := o.va, at_ := o.at_ }
               unret := (gone.map (·.at_)).reverse ++ t.unret }
  | [], t => by simp
  | o :: gone, t => by
    rw [List.foldl_cons, foldl_addImp c gone]
    simp [Thread.addImp]

theorem Thread.lose_eq (t : Thread) (hit : Outst → Bool) (c : Cause) : t.lose hit c =
    { t with outs := t.outs.filter fun o => !hit o
             imps := t.imps ++ (t.outs.filter hit).map fun o => { cause := c, pc := o.pc, cb := o.cb, va := o.va, at_ := o.at_ }
             unret := ((t.outs.filter hit).map (·.at_)).reverse ++ t.unret } := foldl_addImp c _ _

/-- A thread that has lost results has none left to lose. -/
theorem Thread.lose_lose (t : Thread) (hit : Outst → Bool) (c : Cause) : (t.lose hit c).lose hit c = t.lose hit c := by
  have hnone : (t.outs.filter fun o => !hit o).filter hit = [] := by simp [List.filter_filter]
  have hsame : ((t.outs.filter fun o => !hit o).filter fun o => !hit o) = t.outs.filter fun o => !hit o := by simp [List.filter_filter]
  rw [Thread.lose_eq t]
  rw [Thread.lose_eq]
  simp only [hnone, hsame, List.map_nil, List.append_nil, List.reverse_nil, List.nil_append]

/-- The state in which the threads of some keys have lost results. -/
def State.loseAll (s : State) (hit : Outst → Bool) (c : Cause) (l : List (Nat × Thread)) : State :=
  l.foldl (fun (st : State) x => st.endResult x.1 hit c) s

theorem State.loseAll_eq (hit : Outst → Bool) (c : Cause) : (l : List (Nat × Thread)) → (s : State) →
    s.loseAll hit c l = { s with threads := (s.loseAll hit c l).threads }
  | [], _ => rfl
  | x :: l, s => State.loseAll_eq hit c l (s.endResult x.1 hit c)

/-- Each of these threads has lost its results once. -/
theorem State.thread?_loseAll (hit : Outst → Bool) (c : Cause) {j : Nat} {y : Thread} : (l : List (Nat × Thread)) → {s : State} →
    s.thread? j = some y → (s.loseAll hit c l).thread? j = some (if j ∈ l.map (·.1) then y.lose hit c else y)
  | [], _, h => h
  | x :: l, s, h => by
    have hhead : (s.endResult x.1 hit c).thread? j = some (if j = x.1 then y.lose hit c else y) := by
      refine (State.thread?_modThread s x.1 j _).trans ?_
      rw [h]
      split <;> rfl
    refine (State.thread?_loseAll hit c l hhead).trans (congrArg some ?_)
    by_cases he : j = x.1
    · simp [he, Thread.lose_lose]
    · simp only [List.map_cons, List.mem_cons, he, false_or, if_false]

/-- A key that finds a thread stands in the table. -/
theorem NMap.mem_of_find? {α : Type} {k : Nat} {v : α} : (m : NMap α) → m.find? k = some v → k ∈ m.map (·.1)
  | [], h => nomatch h
  | (j, w) :: m, h => by
    simp only [NMap.find?] at h
    split at h
    next e => exact e ▸ List.mem_cons_self
    next =>
      split at h
      · cases h
      · exact List.mem_cons_of_mem _ (NMap.mem_of_find? m h)

/-- A result that waits for the lost port. -/
def lostWith (port : BitVec 4) (o : Outst) : Bool := o.target == 2 && o.port == port.toNat

/-- The state with one more port down. -/
def State.portLost (s : State) (port : BitVec 4) : State := s.modHost fun h => { h with portsDown := h.portsDown ||| (1#12 <<< port.toNat) }

theorem exec_linkDown (s : State) (port : BitVec 4) : exec (.linkDown port) s = .next (State.portLost
    ((s.loseAll (lostWith port) .linkDown s.threads).who.foldl (fun (st : State) id =>
      st.failOuter 4 (fun a l => st.portFor l (BitVec.ofNat 64 a) == port.toNat) .linkDown id)
      (s.loseAll (lostWith port) .linkDown s.threads)) port) := rfl

/-- Whatever a lost port ends, it is down from then on. -/
theorem exec_linkDown_ports (s : State) (port : BitVec 4) :
    ∃ u, exec (.linkDown port) s = .next u ∧ u.host.portsDown = s.host.portsDown ||| (1#12 <<< port.toNat) := by
  have hcommands := foldl_keeps (fun st : State => st.host.portsDown) (fun (st : State) id =>
      st.failOuter 4 (fun a l => st.portFor l (BitVec.ofNat 64 a) == port.toNat) .linkDown id)
    (fun st id => st.portsDown_failOuter _ _ _ id) (s.loseAll (lostWith port) .linkDown s.threads).who
    (s.loseAll (lostWith port) .linkDown s.threads)
  have hthreads : (s.loseAll (lostWith port) .linkDown s.threads).host = s.host := by rw [State.loseAll_eq]
  refine ⟨_, exec_linkDown s port, congrArg (· ||| (1#12 <<< port.toNat)) (hcommands.trans ?_)⟩
  rw [hthreads]

/-- A lost port ends the results of threads that it carries, and leaves the rest of the machine. -/
theorem exec_linkDown_threads {s : State} (port : BitVec 4) (hwho : s.who = []) :
    ∃ u, exec (.linkDown port) s = .next u ∧ u.host.portsDown = s.host.portsDown ||| (1#12 <<< port.toNat) ∧ u.mem = s.mem ∧
      ∀ j y, s.thread? j = some y → ∃ x, u.thread? j = some x ∧
        x.outs = (y.outs.filter fun o => !(o.target == 2 && o.port == port.toNat)) ∧
        x = { y with outs := x.outs, imps := x.imps, unret := x.unret } ∧
        ∀ o ∈ y.outs, o.target = 2 → o.port = port.toNat → ∃ i ∈ x.imps, i.cause = .linkDown ∧ i.pc = o.pc ∧ i.va = o.va := by
  have hexec : exec (.linkDown port) s = .next ((s.loseAll (lostWith port) .linkDown s.threads).portLost port) := by
    have hwho' : (s.loseAll (lostWith port) .linkDown s.threads).who = [] := by rw [State.loseAll_eq]; exact hwho
    rw [exec_linkDown, hwho']
    rfl
  refine ⟨_, hexec, ?_, ?_, fun j y hy => ?_⟩
  · rw [State.loseAll_eq]; rfl
  · rw [State.loseAll_eq]; rfl
  · have hlost := State.thread?_loseAll (lostWith port) .linkDown s.threads hy
    rw [if_pos (NMap.mem_of_find? s.threads hy)] at hlost
    refine ⟨_, hlost, ?_, ?_, fun o ho htgt hport => ?_⟩ <;> rw [Thread.lose_eq]
    · rfl
    · have hgone : o ∈ y.outs.filter (lostWith port) := List.mem_filter.mpr ⟨ho, by simp [lostWith, htgt, hport]⟩
      exact ⟨_, List.mem_append_right _ (List.mem_map_of_mem hgone), rfl, rfl, rfl⟩

/-- Settles O55: one lemma for each register, and for each kind of access of the host and of the peers. -/
theorem hostAccess : Obligations.HostAccess := by
  refine ⟨fun s offset vf val x word high => ⟨exec_hgcfgWrite s x, exec_configWrite_of_enabled high val, exec_configWrite_of_disabled high val,
    fun h => congrArg Host.Outcome.next (if_pos h), exec_vfenWrite_spec x, exec_pdescWrite_beyond word val,
    ⟨exec_pdescWrite_free word val, exec_pdescWrite_held word val⟩, exec_pdescWrite_running_spec word val, rfl, rfl, rfl, rfl,
    fun q hq => exec_registerWrite_queue val hq, fun v hv => exec_registerWrite_smcmask val hv,
    fun v hv w hw => exec_registerWrite_pwin val hv hw, exec_registerWrite_absent val, exec_dlogdataRead s⟩,
    fun s vf off data addr data2 op w64 th port => ⟨?hostWrite, exec_vfAccess_off off data addr data2 op w64, ?hostPush,
      fun hvf hon p hplace htgt hmem => exec_peerRequest_spec op w64 data data2 hvf hon hplace htgt hmem,
      fun e he => exec_peerStore_refused op w64 data data2 he, fun hwho t o ht honce => exec_abort_thread hwho ht honce, ?command,
      exec_linkDown_threads port⟩⟩
  case hostWrite =>
    exact fun hvf hon hfits => ⟨exec_hostWrite_sealed hvf hon hfits, fun hopen hmem => exec_hostWrite_open_spec hvf hon hfits hopen hmem⟩
  case hostPush =>
    exact fun q hq hvf hon => ⟨exec_hostPush_refused hq hvf hon, State.queue_dropPush_other, State.hostdrop_dropPush hq,
      fun hown hlen hallowed hspill hroom => exec_hostPush_taken hq hvf hon hown hlen hallowed hspill hroom⟩
  case command =>
    intro id c hwho hc
    obtain ⟨habort, hnone, hsome⟩ := exec_abort_command th hwho hc
    exact ⟨habort, hnone, hsome, exec_linkDown_ports s port⟩

end Sys2Proof.Machine
end
